-- ==== Sys2Proof/Word.lean ====
section
/-! DEFINITION. The names and containers every other file uses: arms, links, axes, one value per arm or per axis,
tables of fixed length. No rule of the spec is decided here. -/
namespace Sys2Proof

/-- One byte on a request link or a drive line. -/
abbrev Byte := BitVec 8

/-- The two arm columns (00, Terms). -/
inductive Arm where
  | A | B
  deriving DecidableEq, Repr

/-- The three request links (R186). -/
inductive Link where
  | A | B | S
  deriving DecidableEq, Repr

/-- The three axes of an arm (R2). -/
inductive Axis where
  | X | Y | Z
  deriving DecidableEq, Repr

/-- The other arm. -/
def Arm.other : Arm → Arm
  | .A => .B
  | .B => .A

/-- The request link of an arm's own controller. -/
def Arm.link : Arm → Link
  | .A => .A
  | .B => .B

/-- The arm whose controller sits on a link; none for the supervisor's. -/
def Link.arm? : Link → Option Arm
  | .A => some .A
  | .B => some .B
  | .S => none

/-- One value for each arm. -/
structure PerArm (α : Type) where
  a : α
  b : α
  deriving DecidableEq, Repr

def PerArm.get {α : Type} (v : PerArm α) : Arm → α
  | .A => v.a
  | .B => v.b

def PerArm.set {α : Type} (v : PerArm α) (i : Arm) (x : α) : PerArm α :=
  match i with
  | .A => { v with a := x }
  | .B => { v with b := x }

def PerArm.both {α : Type} (x : α) : PerArm α := ⟨x, x⟩

def PerArm.map {α β : Type} (f : α → β) (v : PerArm α) : PerArm β := ⟨f v.a, f v.b⟩

/-- One value for each link. -/
structure PerLink (α : Type) where
  a : α
  b : α
  s : α
  deriving DecidableEq, Repr

def PerLink.get {α : Type} (v : PerLink α) : Link → α
  | .A => v.a
  | .B => v.b
  | .S => v.s

def PerLink.set {α : Type} (v : PerLink α) (i : Link) (x : α) : PerLink α :=
  match i with
  | .A => { v with a := x }
  | .B => { v with b := x }
  | .S => { v with s := x }

/-- One value for each axis. -/
structure PerAxis (α : Type) where
  x : α
  y : α
  z : α
  deriving DecidableEq, Repr

def PerAxis.get {α : Type} (v : PerAxis α) : Axis → α
  | .X => v.x
  | .Y => v.y
  | .Z => v.z

def PerAxis.set {α : Type} (v : PerAxis α) (i : Axis) (x : α) : PerAxis α :=
  match i with
  | .X => { v with x := x }
  | .Y => { v with y := x }
  | .Z => { v with z := x }

def PerAxis.all {α : Type} (x : α) : PerAxis α := ⟨x, x, x⟩

def PerAxis.map {α β : Type} (f : α → β) (v : PerAxis α) : PerAxis β := ⟨f v.x, f v.y, f v.z⟩

/-- One value formed from each axis's name. -/
def PerAxis.of {α : Type} (f : Axis → α) : PerAxis α := ⟨f .X, f .Y, f .Z⟩

/-- Whether a test holds on some axis. -/
def PerAxis.any {α : Type} (v : PerAxis α) (p : α → Bool) : Bool := p v.x || p v.y || p v.z

/-- Whether a test holds on every axis. -/
def PerAxis.every {α : Type} (v : PerAxis α) (p : α → Bool) : Bool := p v.x && p v.y && p v.z

/-- Three coordinates, in LU (R1). -/
abbrev Vec3 := PerAxis Int

/-- A table of fixed length. -/
abbrev Table (n : Nat) (α : Type) := Vector α n

def Table.put {α : Type} {n : Nat} (v : Table n α) (i : Fin n) (x : α) : Table n α := v.set i.1 x i.2

/-- The table whose entry i is f i. -/
def Table.of {α : Type} {n : Nat} (f : Fin n → α) : Table n α := ⟨((List.finRange n).map f).toArray, by simp⟩

/-- The table whose entry i is f i of the old entry i. -/
def Table.mapIdx {α β : Type} {n : Nat} (v : Table n α) (f : Fin n → α → β) : Table n β :=
  .of fun i => f i (v.get i)

/-- The table whose entries are f of the old entries. -/
def Table.map {α β : Type} {n : Nat} (f : α → β) (v : Table n α) : Table n β := .of fun i => f (v.get i)

/-- The number n as an index of a table, when it is one. -/
def index? (n i : Nat) : Option (Fin n) := if h : i < n then some ⟨i, h⟩ else none

/-- A clock that counts reference periods up to a length fixed at its start. -/
structure Timer where
  length : Nat
  count : Nat
  deriving DecidableEq, Repr

end Sys2Proof
end

