-- ==== Sys2Proof/Syntax.lean ====
section
/-! DEFINITION. The commands of the MC-22: one constructor of Instr for each row of spec/opcode_table.json, and the
payloads the rows carry. A field with a fixed set of values is an Option: none is a byte that names none of them
(log 6). Numbers are as the payload's width and sign give them; the owner's rule judges their range. -/
namespace Sys2Proof

/-- Kinds of segment (R73). -/
inductive SegKind where
  | position | probe | home | rack
  deriving DecidableEq, Repr

/-- Count direction of a HOME (R73). -/
inductive Direction where
  | rising | falling
  deriving DecidableEq, Repr

/-- Sense of an encoder count (R54). -/
inductive Sense where
  | forward | reverse
  deriving DecidableEq, Repr

/-- Channel roles (R18, R19). -/
inductive Role where
  | unused
  | scale (arm : Arm) (axis : Axis)
  | workpiece
  | head (arm : Arm)
  | air
  deriving DecidableEq, Repr

/-- Modes of EDIT SCAN LIST (R27). -/
inductive ScanMode where
  | replace | append | keep
  deriving DecidableEq, Repr

/-- Zone kinds (R103). -/
inductive ZoneKind where
  | unused | shared | rack | forbidden
  deriving DecidableEq, Repr

/-- Match modes of identities (R127). -/
inductive MatchMode where
  | full | serialOnly
  deriving DecidableEq, Repr

/-- Conditions WRITE POCKET asks for (R133). -/
inductive PocketUse where
  | disabled | enabled
  deriving DecidableEq, Repr

/-- Notice kinds (R195). -/
inductive Notice where
  | segEnded | armHeld | zoneWait | pointsWait | touch | contact | changeStep | changeEnded | thermal
  | deadlock | armFault | loadDone | saveDone | saveFailed | scanOverrun | sensorFault | rackFault
  | pocketChanged | trapSet
  deriving DecidableEq, Repr

/-- Sections of the configuration memory, in their order (R205). -/
inductive Section where
  | calibration | zones | channels | probes | pockets | settings
  deriving DecidableEq, Repr

/-- One POST or REPLACE segment entry (R73, R203). -/
structure SegEntry where
  tag : Nat
  kind : Option SegKind
  target : Vec3
  feed : Nat
  overtravel : Nat
  axis : Option Axis
  direction : Option Direction
  search : Nat
  deriving DecidableEq, Repr

/-- The five fields of one axis in a calibration payload (R9, R203). -/
structure AxisCal where
  sign : Int
  base : Int
  reference : Int
  alpha : Nat
  softMin : Int
  softMax : Int
  deriving DecidableEq, Repr

/-- A calibration record or its payload (R9, R10, R13). -/
structure Calibration where
  axis : PerAxis AxisCal
  vMax : Nat
  a : Nat
  aStop : Nat
  followingLimit : Nat
  envelope : Nat
  deriving DecidableEq, Repr

/-- The workpiece record or its payload (R34, R35). -/
structure Workpiece where
  alpha : Nat
  w0 : Vec3
  gradientLimit : Nat
  deriving DecidableEq, Repr

/-- A box in the cell frame (R103, R107). -/
structure Box where
  lo : Vec3
  hi : Vec3
  deriving DecidableEq, Repr

/-- The payload of WRITE ZONE less the zone number (R104). -/
structure ZoneEntry where
  kind : Option ZoneKind
  box : Box
  k : Nat
  deriving DecidableEq, Repr

/-- The payload of WRITE CHANNEL less the channel number (R20). -/
structure ChannelEntry where
  role : Option Role
  gain : Nat
  offset : Int
  shift : Nat
  low : Nat
  high : Nat
  persistence : Nat
  deriving DecidableEq, Repr

/-- The payload of WRITE SETTINGS (R209). The rack timeout is in units of 0.1 s. -/
structure SettingsEntry where
  matchMode : Option MatchMode
  startLocked : Option Bool
  linger : Nat
  stepTimeout : Nat
  rackTimeout : Nat
  qualLimit : Nat
  maskA : List Notice
  maskB : List Notice
  maskS : List Notice
  deriving DecidableEq, Repr

/-- The location of REGISTER PROBE (R130); `neither` is a location kind byte that names neither kind. -/
inductive PlaceEntry where
  | pocket (p : Nat)
  | arm (a : Option Arm)
  | neither
  deriving DecidableEq, Repr

/-- The payload of REGISTER PROBE (R130). An absent home is one whose given flag is clear. -/
structure RegisterEntry where
  identity : Nat
  reach : Nat
  tau : Nat
  home : Option Nat
  place : PlaceEntry
  deriving DecidableEq, Repr

/-- The payload of WRITE PROBE (R131). -/
structure ProbeEntry where
  slot : Nat
  reach : Nat
  tau : Nat
  home : Option Nat
  deriving DecidableEq, Repr

/-- The payload of REQUEST CHANGE (R147). -/
structure ChangeEntry where
  drop : Bool
  dropPocket : Option Nat
  take : Bool
  takeSlot : Nat
  deriving DecidableEq, Repr

/-- The payload of QUALIFY (R134). -/
structure QualifyEntry where
  slot : Nat
  arm : Option Arm
  offset : Vec3
  radius : Nat
  deriving DecidableEq, Repr

/-- A qualification entry (R134). -/
structure Qualification where
  offset : Vec3
  radius : Nat
  temperature : Int
  generation : Nat
  headStale : Bool
  deriving DecidableEq, Repr

/-- A probe record as the PROBES section stores it (R144, R205). -/
structure StoredProbe where
  identity : Nat
  reach : Nat
  tau : Nat
  home : Option Nat
  qual : PerArm (Option Qualification)
  guarded : Bool
  place : PlaceEntry
  mountCount : Nat
  check : Nat
  deriving DecidableEq, Repr

/-- The content of a section, read from or written to the configuration memory (R205). -/
inductive Image where
  | calibration (cal : PerArm Calibration) (ratio : PerArm (Nat × Nat)) (workpiece : Workpiece)
  | zones (zones : Table 16 ZoneEntry)
  | channels (channels : Table 24 ChannelEntry) (scan : List Nat) (interval : Nat)
  | probes (slots : Table 32 (Option StoredProbe))
  | pockets (disabled : Table 12 Bool)
  | settings (s : SettingsEntry)
  deriving DecidableEq, Repr

/-- The section an image belongs to. -/
def Image.section : Image → Section
  | .calibration .. => .calibration
  | .zones .. => .zones
  | .channels .. => .channels
  | .probes .. => .probes
  | .pockets .. => .pockets
  | .settings .. => .settings

/-- What the controller reads from the region of a section (R206): nothing, or a header (kind and content length),
the content and the stored CRC-32. -/
inductive SectionRead where
  | noAnswer
  | region (kind : Option Section) (length : Nat) (content : Image) (crc : BitVec 32)
  deriving DecidableEq, Repr

/-- What a module answers on PRID (R128). -/
inductive PridAnswer where
  | silent
  | garbled
  | code (c : Nat)
  deriving DecidableEq, Repr

/-- The commands, one constructor for each row of spec/opcode_table.json, in its order. A request row's first operand
is the link it is written on. The arm operand of HALT, ABORT CHANGE and ARM RESET is none when the payload is empty,
and `some x` for a one-byte payload that names x. -/
inductive Instr where
  | reset
  | sectionLoadComplete (r : SectionRead)
  | writePeriod (l : Link) (bytes : List Byte)
  | unassignedCommand (l : Link) (code : Byte)
  | readPeriod (l : Link) (n : Nat)
  | enable (l : Link)
  | disable (l : Link)
  | post (l : Link) (segs : List SegEntry)
  | replace (l : Link) (segs : List SegEntry)
  | halt (l : Link) (arm : Option (Option Arm))
  | resume (l : Link)
  | clear (l : Link)
  | override (l : Link) (value : Nat)
  | readPoints (l : Link)
  | requestChange (l : Link) (e : ChangeEntry)
  | changeDone (l : Link)
  | abortChange (l : Link) (arm : Option (Option Arm))
  | qualify (l : Link) (e : QualifyEntry)
  | verifyProbe (l : Link)
  | armReset (l : Link) (arm : Option (Option Arm))
  | armStatus (l : Link) (arm : Option Arm)
  | readSnapshot (l : Link)
  | readProbe (l : Link) (slot : Nat)
  | readPocket (l : Link) (pocket : Nat)
  | readZone (l : Link) (zone : Nat)
  | readChannel (l : Link) (channel : Nat)
  | readCalibration (l : Link) (arm : Option Arm)
  | readTrap (l : Link)
  | identify (l : Link)
  | status (l : Link)
  | writeCalibration (l : Link) (arm : Option Arm) (e : Calibration)
  | writeWorkpiece (l : Link) (e : Workpiece)
  | writeZone (l : Link) (zone : Nat) (e : ZoneEntry)
  | writeChannel (l : Link) (channel : Nat) (e : ChannelEntry)
  | editScanList (l : Link) (mode : Option ScanMode) (interval : Nat) (entries : List Nat)
  | setScanInterval (l : Link) (interval : Nat)
  | setTimer (l : Link) (arm : Option Arm) (n : Nat) (d : Nat)
  | setSync (l : Link) (spA : Bool) (spB : Bool) (scan : Bool)
  | writeSettings (l : Link) (e : SettingsEntry)
  | registerProbe (l : Link) (e : RegisterEntry)
  | writeProbe (l : Link) (e : ProbeEntry)
  | retireProbe (l : Link) (slot : Nat)
  | setProtection (l : Link) (slot : Nat) (value : Bool)
  | freezeProtection (l : Link)
  | lockProbe (l : Link) (slot : Nat)
  | unlockProbe (l : Link) (slot : Nat)
  | writePocket (l : Link) (pocket : Nat) (use : Option PocketUse)
  | inventory (l : Link)
  | clearRackFault (l : Link)
  | clearTrap (l : Link)
  | save (l : Link)
  | reload (l : Link)
  | setpointExpiry (arm : Arm)
  | scanExpiry
  | conversionComplete (code : Nat)
  | lingerExpiry (arm : Arm)
  | stepTimerExpiry
  | rackTimerExpiry
  | dropReadRepeat
  | identityReadComplete (arm : Arm) (answer : PridAnswer)
  | savePageWritten (ack : Bool)
  | quadratureCount (arm : Arm) (axis : Axis) (sense : Sense)
  | illegalTransition (arm : Arm) (axis : Axis)
  | referenceMark (arm : Arm) (axis : Axis)
  | dfltChange (arm : Arm) (level : Bool)
  | csyncEdge
  | triggerEdge (arm : Arm)
  | triggerRelease (arm : Arm)
  | pocketChange (pocket : Fin 12) (level : Bool)
  | rackOpenChange (level : Bool)
  | rackClosedChange (level : Bool)
  | driveFrameEnd (arm : Arm)
  deriving DecidableEq, Repr

end Sys2Proof
end

