-- ==== Sys2Proof/Machine/State.lean ====
section
/-! DEFINITION. The state of the MC-22 as plain data, block by block, the responses a link can hold, the reasons a
step can stop, and the state after reset. Each structure's docstring names the rules that give its fields. -/
namespace Sys2Proof.Machine

abbrev ZoneId := Fin 16
abbrev Slot := Fin 32
abbrev PocketId := Fin 12
abbrev ChannelId := Fin 24

/-! ### Thermal unit -/

/-- Channel states (R18). -/
inductive ChannelState where
  | unused | warming | valid | fault
  deriving DecidableEq, Repr

/-- One channel record (R18). -/
structure Channel where
  role : Role
  gain : Nat
  offset : Int
  shift : Nat
  low : Nat
  high : Nat
  persistence : Nat
  state : ChannelState
  lastRaw : Nat
  f : Int
  run : Nat
  deriving DecidableEq, Repr

/-- A sensor group's temperature and STALE flag (R32). -/
structure Group where
  temp : Int
  stale : Bool
  deriving DecidableEq, Repr

/-- The ten groups (R19). -/
structure Groups where
  scale : PerArm (PerAxis Group)
  workpiece : Group
  head : PerArm Group
  air : Group
  deriving DecidableEq, Repr

/-- Sources of the workpiece temperature in use (R37). -/
inductive Source where
  | workpiece | air | held
  deriving DecidableEq, Repr

/-- The thermal snapshot (R36). -/
structure Snapshot where
  epoch : Nat
  groups : Groups
  gradient : Nat
  gradientFlag : Bool
  wpTemp : Int
  source : Source
  workpiece : Workpiece
  deriving DecidableEq, Repr

/-- A pass in flight: its copy of the list and the position converted (R29, R30). -/
structure Pass where
  copy : List ChannelId
  pos : Nat
  deriving DecidableEq, Repr

/-! ### Time base -/

/-- A setpoint timer with its sync enable (R44, R47, R49, R53). -/
structure SetpointTimer where
  n : Nat
  d : Nat
  acc : Nat
  count : Nat
  length : Nat
  startAcc : Nat
  fresh : Bool
  sync : Bool
  deriving DecidableEq, Repr

/-! ### Axis unit -/

/-- One axis: counter, previous quadrature sample, sense, reference state and setpoints (R54 to R60). -/
structure AxisState where
  count : Int
  pair : Bool × Bool
  sense : Sense
  referenced : Bool
  error : Bool
  lastSent : Int
  standing : Int
  skip : Bool
  deriving DecidableEq, Repr

/-- A frame on a DRV line (R61, R62, R204). -/
structure Frame where
  count : Nat
  enable : Bool
  setpoints : Vec3
  deriving DecidableEq, Repr

/-- The axis unit's state of one arm (R60, R63, R66, R204). -/
structure AxisUnit where
  axis : PerAxis AxisState
  den : Bool
  dflt : Bool
  frameCount : Nat
  line : List Frame
  bits : Nat
  deriving DecidableEq, Repr

/-! ### Motion unit -/

inductive WaitReason where
  | zone | points
  deriving DecidableEq, Repr

/-- Reasons of HELD (R72). -/
inductive HoldReason where
  | missed | homeFailed | deadlock | triggerStuck | noDirection | refusedForbidden | refusedRack | handover
  | idMismatch
  deriving DecidableEq, Repr

/-- Reasons of FAULT (R72). -/
inductive FaultReason where
  | encoder | drive | following
  deriving DecidableEq, Repr

/-- The arm state machine's states (R72). -/
inductive Phase where
  | off
  | idle
  | waiting (r : WaitReason)
  | moving
  | stopping
  | held (r : HoldReason)
  | collision
  | fault (r : FaultReason)
  deriving DecidableEq, Repr

/-- Segment outcomes (R96). -/
inductive Outcome where
  | done | touched | halted | missed | homeFailed | contact | faulted | flushed | refusedForbidden | refusedRack
  | deadlock | triggerStuck | noDirection
  deriving DecidableEq, Repr

/-- The move of a posted segment with the fields its kind uses (R73). -/
inductive Move where
  | position (target : Vec3)
  | probe (target : Vec3) (overtravel : Nat)
  | home (axis : Axis) (direction : Direction) (search : Nat)
  | rack (target : Vec3)
  deriving DecidableEq, Repr

/-- A segment (R73). -/
structure Segment where
  tag : Nat
  feed : Nat
  move : Move
  deriving DecidableEq, Repr

/-- The geometry stages 3 and 4 form for a head (R80, R81) and the zones it needs (R111). -/
structure Geometry where
  start : Vec3
  finish : Vec3
  d : Vec3
  len : Nat
  swept : Box
  needed : List ZoneId
  deriving DecidableEq, Repr

/-- Status of the working record, with the pending outcome of a stop ramp (R83, R88). -/
inductive SegStatus where
  | active
  | stopping (pending : Outcome)
  deriving DecidableEq, Repr

/-- The working record of the active segment (R83). `geometry` is what the segment keeps of its evaluation; absent for
HOME. -/
structure Working where
  seg : Segment
  geometry : Option Geometry
  d : Vec3
  len : Nat
  epoch : Nat
  strain : Vec3
  rawStart : Vec3
  rawEnd : Vec3
  vFeed : Nat
  p : Nat
  v : Nat
  status : SegStatus
  deriving DecidableEq, Repr

/-- A result entry (R97). -/
structure Result where
  number : Nat
  tag : Nat
  outcome : Outcome
  removed : Option Nat
  deriving DecidableEq, Repr

/-- A motion unit (R72, R74, R83, R87, R92, R97, R100). -/
structure Motion where
  phase : Phase
  queue : List Segment
  geometry : Option Geometry
  active : Option Working
  override : Nat
  results : List Result
  resultCount : Nat
  resetPending : Bool
  holdPending : Bool
  deriving DecidableEq, Repr

/-! ### Zone arbiter -/

/-- A zone record (R103). -/
structure Zone where
  kind : ZoneKind
  box : Box
  k : Nat
  deriving DecidableEq, Repr

/-- Why an arm holds a zone (R108). -/
inductive HoldWhy where
  | standing | claim | segment | linger | change
  deriving DecidableEq, Repr

/-- Purposes of a waiter entry (R114). -/
inductive Purpose where
  | segment | change
  deriving DecidableEq, Repr

/-- A waiter entry (R114). -/
structure Waiter where
  arm : Arm
  purpose : Purpose
  needed : List ZoneId
  deriving DecidableEq, Repr

/-- A hand-over count: the holder, the zone, the starts counted (R118). -/
structure Handover where
  holder : Arm
  zone : ZoneId
  count : Nat
  deriving DecidableEq, Repr

/-! ### Probe table unit -/

/-- Where a record's module is (R125). -/
inductive Place where
  | stored (p : PocketId)
  | mounted (a : Arm)
  | inTransit (a : Arm)
  | lost
  deriving DecidableEq, Repr

/-- A probe record (R125). `guarded` is PROTECTED. -/
structure Probe where
  place : Place
  identity : Nat
  home : Option PocketId
  reach : Nat
  tau : Nat
  qual : PerArm (Option Qualification)
  mountCount : Nat
  corrupt : Bool
  guarded : Bool
  locked : Bool
  deriving DecidableEq, Repr

/-- Pocket states (R126). -/
inductive PocketState where
  | empty
  | occupied (n : Slot)
  | reserved
  | disabled
  deriving DecidableEq, Repr

/-- A pocket record (R126). -/
structure Pocket where
  state : PocketState
  unexpected : Bool
  level : Bool
  deriving DecidableEq, Repr

/-- An arm's mount (R126). -/
inductive Mount where
  | record (n : Slot)
  | unknown
  | none
  deriving DecidableEq, Repr

/-- Blocks that ask identity reads (R128); the change sequencer asks for a drop or for a pick. -/
inductive Asker where
  | verify | register | inventory | drop | pick
  deriving DecidableEq, Repr

/-- Results of an identity read (R128). -/
inductive ReadResult where
  | absent
  | present (code : Nat)
  | error
  deriving DecidableEq, Repr

/-- An identity reader: the askers of the read in flight and of the pending read (R128). -/
structure Reader where
  inFlight : Option (List Asker)
  pending : Option (List Asker)
  deriving DecidableEq, Repr

/-- The inventory's read on one arm (R141, R142). -/
inductive InvRead where
  | notAsked
  | asked
  | got (r : ReadResult)
  deriving DecidableEq, Repr

/-- The inventory state (R140): idle, or running with whether a repeat is asked, the reads, and whether a record state,
pocket state, UNEXPECTED or UNKNOWN flag has changed. -/
inductive Inventory where
  | idle
  | running (again : Bool) (reads : PerArm InvRead) (changed : Bool)
  deriving DecidableEq, Repr

/-- Qualification status (R137). -/
inductive QualStatus where
  | unqualified | qualified | stale
  deriving DecidableEq, Repr

/-! ### Change sequencer -/

/-- Steps of a change (R145). -/
inductive Step where
  | waitRack | opening | awaitDrop | awaitPick | failedOpen | closing
  deriving DecidableEq, Repr

/-- Failure reasons of a change (R145). -/
inductive FailReason where
  | rackTimeout | rackSensor | rackFault | stepTimeout | idMismatch | probeLost | pocketBlocked | arm | deadlock
  deriving DecidableEq, Repr

/-- Outcomes of a change (R155). -/
inductive ChangeOutcome where
  | done
  | aborted
  | failed (r : FailReason)
  deriving DecidableEq, Repr

/-- The module taken off the arm (R145). -/
inductive Dropped where
  | slot (n : Slot)
  | unknown
  deriving DecidableEq, Repr

/-- A change context (R145). `drop` and `take` pair the pocket with the module when a drop or take was asked.
`dropReach` and `takeReach` are the reaches of the two modules as they stood at the acceptance, which the arm's reach
counts to the end of the context (R106, R151; log 21). -/
structure Context where
  drop : Option (PocketId × Dropped)
  take : Option (PocketId × Slot)
  step : Step
  dropConfirmed : Bool
  pickConfirmed : Bool
  failure : Option FailReason
  closing : Option ChangeOutcome
  dropReach : Nat
  takeReach : Nat
  deriving DecidableEq, Repr

/-- The rack's lines, fault flag and timers (R146, R151). -/
structure Rack where
  req : Bool
  opened : Bool
  closed : Bool
  fault : Bool
  rackTimer : Option Timer
  stepTimer : Option Timer
  dropTimer : Option Timer
  deriving DecidableEq, Repr

/-! ### Capture unit -/

/-- Trigger arming states (R168). -/
inductive Arming where
  | touch | contact | masked | ignored
  deriving DecidableEq, Repr

/-- Classes of a latch and kinds of a point (R170, R175). -/
inductive PointKind where
  | touch | contact
  deriving DecidableEq, Repr

/-- The direction part of a latch (R170): tag, d and L of the active segment. -/
structure LatchPath where
  tag : Nat
  d : Vec3
  len : Nat
  deriving DecidableEq, Repr

/-- The probe data of a latch (R170). -/
structure LatchProbe where
  tau : Nat
  entry : Option Qualification
  status : QualStatus
  deriving DecidableEq, Repr

/-- A latch record (R170). -/
structure Latch where
  kind : PointKind
  counts : Vec3
  v : Nat
  path : Option LatchPath
  snapshot : Snapshot
  cal : PerAxis AxisCal
  calFault : Bool
  mount : Mount
  probe : Option LatchProbe
  n : Nat
  d : Nat
  deriving DecidableEq, Repr

/-- The flags of a point record (R176). -/
structure PointFlags where
  unqualified : Bool
  qualStale : Bool
  thermStale : Bool
  wpFromAir : Bool
  wpHeld : Bool
  gradient : Bool
  noDirection : Bool
  clamped : Bool
  uncalibrated : Bool
  noProbe : Bool
  deriving DecidableEq, Repr

/-- A point record (R175). -/
structure Point where
  seq : Nat
  kind : PointKind
  tag : Option Nat
  probe : Option Slot
  generation : Option Nat
  epoch : Nat
  q : Vec3
  flags : PointFlags
  deriving DecidableEq, Repr

/-- The capture unit's state of one arm (R167, R170, R177, R178, R183). -/
structure Capture where
  trig : Bool
  latch : Option Latch
  points : List Point
  seq : Nat
  notQueued : Bool
  deriving DecidableEq, Repr

/-! ### Configuration store -/

/-- Start-up states (R206). -/
inductive Startup where
  | loading | inventory | ready
  deriving DecidableEq, Repr

/-- The six load-fault flags (R206). -/
structure LoadFaults where
  calibration : Bool
  zones : Bool
  channels : Bool
  probes : Bool
  pockets : Bool
  settings : Bool
  deriving DecidableEq, Repr

/-- The SAVE state (R210): idle, or running with the image of the section being written and the page reached. -/
inductive SaveState where
  | idle
  | running (image : Image) (page : Nat)
  deriving DecidableEq, Repr

/-- The settings less the notice masks, which the links hold (R209). -/
structure Settings where
  matchMode : MatchMode
  startLocked : Bool
  linger : Nat
  stepTimeout : Nat
  rackTimeout : Nat
  qualLimit : Nat
  deriving DecidableEq, Repr

/-! ### Faults, responses and links -/

/-- Fault kinds (R198). -/
inductive FaultKind where
  | encoder | drive | following | contact | rackTimeout | idMismatch | stepTimeout | probeLost | rackSensor
  deriving DecidableEq, Repr

/-- The fields a block reports a fault with (R198). -/
structure FaultReport where
  kind : FaultKind
  arm : Option Arm
  tag : Option Nat
  coords : Option Vec3
  epoch : Nat
  deriving DecidableEq, Repr

/-- The trapped record: the report and its fault number (R198). -/
structure TrapRecord where
  report : FaultReport
  number : Nat
  deriving DecidableEq, Repr

/-- Result codes (10, Result codes). -/
inductive Code where
  | ok | badCommand | badLength | notPermitted | badArgument | wrongState | queueFull | outOfLimits | notReferenced
  | guarded | frozen | saveInProgress | notFound | inUse | noRack | rackFault | noProbe
  deriving DecidableEq, Repr

/-- The active segment as ARM STATUS shows it (R99). -/
structure ActiveView where
  tag : Nat
  kind : SegKind
  status : SegStatus
  len : Nat
  p : Nat
  v : Nat
  vFeed : Nat
  epoch : Nat
  deriving DecidableEq, Repr

/-- The latch as ARM STATUS shows it (R184). -/
structure LatchView where
  kind : PointKind
  counts : Vec3
  v : Nat
  tag : Option Nat
  epoch : Nat
  mount : Mount
  deriving DecidableEq, Repr

/-- The motion unit fields of ARM STATUS (R99). -/
structure MotionView where
  phase : Phase
  resetPending : Bool
  queue : List (Nat × SegKind × Bool)
  active : Option ActiveView
  override : Nat
  resultCount : Nat
  results : List Result
  deriving DecidableEq, Repr

/-- The position fields of ARM STATUS (R17). -/
structure PositionView where
  position : Vec3
  referenced : PerAxis Bool
  error : PerAxis Bool
  clamped : Bool
  epoch : Nat
  scaleStale : Bool
  deriving DecidableEq, Repr

/-- The time base fields of ARM STATUS (R53). -/
structure TimerView where
  n : Nat
  d : Nat
  length : Nat
  startAcc : Nat
  sync : Bool
  deriving DecidableEq, Repr

/-- The axis unit fields of ARM STATUS (R70). -/
structure AxisView where
  counts : Vec3
  lastSent : Vec3
  standing : Vec3
  den : Bool
  dflt : Bool
  frameCount : Nat
  faultReason : Option FaultReason
  deriving DecidableEq, Repr

/-- The zone arbiter fields of ARM STATUS (R123). A waiter is shown with whether it is the newer entry; a hand-over
count with its zone and K. -/
structure ZoneView where
  reach : Int
  held : List (ZoneId × HoldWhy)
  standing : List ZoneId
  contested : List ZoneId
  waiter : Option (Purpose × List ZoneId × Bool)
  handover : List (ZoneId × Nat × Nat)
  lingerLeft : Option Nat
  deriving DecidableEq, Repr

/-- A change context as ARM STATUS shows it: every field of R145, with the step deadline (R165). -/
structure ContextView where
  drop : Option (PocketId × Dropped)
  take : Option (PocketId × Slot)
  step : Step
  dropConfirmed : Bool
  pickConfirmed : Bool
  deadline : Option Nat
  failure : Option FailReason
  closing : Option ChangeOutcome
  deriving DecidableEq, Repr

/-- The change sequencer fields of ARM STATUS (R165), and the qualification status of the arm's mounted record (R137). -/
structure ChangeView where
  context : Option ContextView
  last : Option ChangeOutcome
  rackFault : Bool
  req : Bool
  opened : Bool
  closed : Bool
  qualification : Option QualStatus
  deriving DecidableEq, Repr

/-- The capture unit fields of ARM STATUS (R184). -/
structure CaptureView where
  trig : Bool
  arming : Arming
  held : Nat
  free : Nat
  seq : Nat
  notQueued : Bool
  latch : Option LatchView
  deriving DecidableEq, Repr

/-- The response payload of ARM STATUS (R99). -/
structure ArmStatus where
  motion : MotionView
  position : PositionView
  timer : TimerView
  axes : AxisView
  zones : ZoneView
  change : ChangeView
  capture : CaptureView
  deriving DecidableEq, Repr

/-- Response payloads, in decoded form. -/
inductive Payload where
  | none
  | points (contact : Bool) (left : Nat) (records : List Point)                         -- R179
  | generation (g : Nat)                                                                -- R134
  | verify (result : ReadResult) (slot : Option Slot) (mount : Mount)                   -- R129
  | armStatus (s : ArmStatus)                                                           -- R99
  | snapshot (s : Snapshot)                                                             -- R40
  | probe (p : Option (Probe × PerArm (QualStatus × Int)))                              -- R138
  | pocket (p : Pocket) (mounts : PerArm Mount) (inventory : Inventory)                 -- R138
  | zone (z : Zone) (holder : Option (Arm × HoldWhy)) (standing : PerArm Bool)          -- R105
  | channel (c : Channel) (interval : Nat) (scan : List ChannelId) (pos : Option Nat) (sync : Bool)   -- R21
  | calibration (c : Calibration) (fault : Bool)                                        -- R15
  | trap (count : Nat) (t : Option TrapRecord)                                          -- R199
  | identify (part : Nat) (revision : Nat) (faults : LoadFaults) (startup : Startup)
      (saving : Option Section)                                                         -- R213
  | notices (flags : List Notice) (mask : List Notice)                                  -- R197
  | slot (n : Slot)                                                                     -- R130
  | loadFaults (f : LoadFaults)                                                         -- R212
  deriving DecidableEq, Repr

/-- A response: result code and payload (R201). -/
structure Response where
  code : Code
  payload : Payload
  deriving DecidableEq, Repr

/-- Link states (R188). -/
inductive LinkPhase where
  | idle | pending | ready | retry
  deriving DecidableEq, Repr

/-- What a PENDING link waits for (R188, R194): its owning block to take the request, an identity read, the RELOAD. -/
inductive Work where
  | owner
  | verify
  | register (e : RegisterEntry) (arm : Arm)
  | reload
  deriving DecidableEq, Repr

/-- One request link (R186 to R190, R195, R196). `dataOut` holds the bytes sent in the last select period. -/
structure LinkState where
  phase : LinkPhase
  buffer : List Byte
  request : Option Instr
  work : Option Work
  response : Option Response
  overrun : Bool
  flags : List Notice
  mask : List Notice
  attn : Bool
  dataOut : List Byte
  deriving DecidableEq, Repr

/-! ### The whole state -/

/-- The state of the part. -/
structure State where
  /-- The commands that wait, first in, first out (the row's own queue). -/
  pending : List Instr
  /-- Counts the choices made among events that fall due together (log 2). -/
  choices : Nat
  startup : Startup
  loading : Option Section
  loadFaults : LoadFaults
  save : SaveState
  settings : Settings
  links : PerLink LinkState
  trap : Option TrapRecord
  faultCount : Nat
  channels : Table 24 Channel
  scanList : List ChannelId
  scanInterval : Nat
  pass : Option Pass
  workpiece : Workpiece
  snapshot : Snapshot
  timers : PerArm SetpointTimer
  scanTimer : Timer
  scanSync : Bool
  cal : PerArm Calibration
  axes : PerArm AxisUnit
  motion : PerArm Motion
  zones : Table 16 Zone
  holders : Table 16 (Option (Arm × HoldWhy))
  standing : PerArm (List ZoneId)
  deferred : PerArm Bool
  linger : PerArm (Option Timer)
  waiters : List Waiter
  handover : List Handover
  probes : Table 32 (Option Probe)
  pockets : Table 12 Pocket
  unknown : PerArm Bool
  freeze : Bool
  readers : PerArm Reader
  inventory : Inventory
  change : PerArm (Option Context)
  lastChange : PerArm (Option ChangeOutcome)
  rack : Rack
  capture : PerArm Capture
  deriving DecidableEq, Repr

/-- Reasons a step stops the machine. None: every fault of the spec is a report after which the part goes on (R198), so
no meaning raises one. Safe: nothing is cut short. -/
inductive Fault where
  deriving DecidableEq, Repr

/-- Reasons a command has no meaning. `notModelled` is raised by an arm of exec whose command has no meaning yet (there
is none). Safe: nothing can be proved of such a command. -/
inductive Refusal where
  | notModelled (mnemonic : String)
  deriving DecidableEq, Repr

/-! ### Defaults and reset values -/

/-- Every notice kind, in the order the sets keep. -/
def allNotices : List Notice :=
  [.segEnded, .armHeld, .zoneWait, .pointsWait, .touch, .contact, .changeStep, .changeEnded, .thermal, .deadlock,
   .armFault, .loadDone, .saveDone, .saveFailed, .scanOverrun, .sensorFault, .rackFault, .pocketChanged, .trapSet]

/-- The kinds a link can hold (R195). -/
def noticesOf : Link → List Notice
  | .S => [.deadlock, .armFault, .loadDone, .saveDone, .saveFailed, .scanOverrun, .sensorFault, .rackFault,
           .pocketChanged, .trapSet]
  | _ => [.segEnded, .armHeld, .zoneWait, .pointsWait, .touch, .contact, .changeStep, .changeEnded, .thermal,
          .deadlock, .armFault, .loadDone]

/-- The default calibration record (R9, R10). -/
def defaultCalibration : Calibration where
  axis := .all { sign := 1, base := 0, reference := 0, alpha := 0, softMin := 0, softMax := 0 }
  vMax := 50000
  a := 2
  aStop := 4
  followingLimit := 2000
  envelope := 1000000

/-- The default workpiece record (R34). -/
def defaultWorkpiece : Workpiece := { alpha := 0, w0 := .all 0, gradientLimit := 2000 }

/-- The default channel record (R18). -/
def Channel.default : Channel where
  role := .unused
  gain := 0
  offset := 0
  shift := 0
  low := 0
  high := 65535
  persistence := 3
  state := .unused
  lastRaw := 0
  f := 0
  run := 0

/-- An UNUSED zone record; its box is not given by the spec and is all 0 (log 25). -/
def Zone.unused : Zone := { kind := .unused, box := ⟨.all 0, .all 0⟩, k := 0 }

/-- Zone 0 at the ZONES defaults: SHARED over the whole cell, K = 0 (R103). -/
def Zone.whole : Zone := { kind := .shared, box := ⟨.all (-100000000), .all 100000000⟩, k := 0 }

/-- The zone table at the ZONES defaults (R103). -/
def defaultZones : Table 16 Zone := Table.put (Vector.replicate 16 Zone.unused) 0 Zone.whole

/-- The default settings (R209). -/
def Settings.default : Settings where
  matchMode := .full
  startLocked := false
  linger := 500
  stepTimeout := 60
  rackTimeout := 80
  qualLimit := 1000

/-- The reset contents of the snapshot with a given epoch and workpiece record (R41, R42). -/
def Snapshot.cold (epoch : Nat) (w : Workpiece) : Snapshot where
  epoch := epoch
  groups := { scale := .both (.all ⟨0, true⟩), workpiece := ⟨0, true⟩, head := .both ⟨0, true⟩, air := ⟨0, true⟩ }
  gradient := 0
  gradientFlag := false
  wpTemp := 0
  source := .held
  workpiece := w

/-- A setpoint timer that is not running (R52, log 11). -/
def SetpointTimer.stopped (n d : Nat) : SetpointTimer :=
  { n := n, d := d, acc := 0, count := 0, length := 0, startAcc := 0, fresh := false, sync := false }

/-- An axis after RESET (R71). -/
def AxisState.reset : AxisState where
  count := 0
  pair := (false, false)
  sense := .forward
  referenced := false
  error := false
  lastSent := 0
  standing := 0
  skip := false

/-- A motion unit after RESET (R102). -/
def Motion.reset : Motion where
  phase := .off
  queue := []
  geometry := none
  active := none
  override := 100
  results := []
  resultCount := 0
  resetPending := false
  holdPending := false

/-- A link after RESET (R200). -/
def LinkState.reset (l : Link) : LinkState where
  phase := .retry
  buffer := []
  request := none
  work := none
  response := none
  overrun := false
  flags := []
  mask := noticesOf l
  attn := false
  dataOut := []

/-- The machine right after RESET is released, with every input line inactive (R41, R52, R71, R102, R124, R144, R166,
R185, R200, R206; log 10). What a section of the configuration memory gives stands at that section's defaults until the
section is installed (log 37). -/
def State.reset : State where
  pending := []
  choices := 0
  startup := .loading
  loading := some .calibration
  loadFaults := ⟨false, false, false, false, false, false⟩
  save := .idle
  settings := .default
  links := ⟨.reset .A, .reset .B, .reset .S⟩
  trap := none
  faultCount := 0
  channels := Vector.replicate 24 Channel.default
  scanList := []
  scanInterval := 500
  pass := none
  workpiece := defaultWorkpiece
  snapshot := .cold 0 defaultWorkpiece
  timers := .both (.stopped 5000 1)
  scanTimer := ⟨0, 0⟩
  scanSync := false
  cal := .both defaultCalibration
  axes := .both { axis := .all .reset, den := false, dflt := false, frameCount := 0, line := [], bits := 0 }
  motion := .both .reset
  zones := defaultZones
  holders := Vector.replicate 16 none
  standing := .both []
  deferred := .both false
  linger := .both none
  waiters := []
  handover := []
  probes := Vector.replicate 32 none
  pockets := Vector.replicate 12 { state := .empty, unexpected := false, level := false }
  unknown := .both false
  freeze := false
  readers := .both ⟨none, none⟩
  inventory := .idle
  change := .both none
  lastChange := .both none
  rack := { req := false, opened := false, closed := false, fault := false, rackTimer := none, stepTimer := none,
            dropTimer := none }
  capture := .both { trig := false, latch := none, points := [], seq := 0, notQueued := false }

end Sys2Proof.Machine
end

