-- ==== Sys2Proof/Config.lean ====
section
/-! DEFINITION. What the implementation fixes and the spec does not state: every constant here is opaque, so no proof can
know its value, and a statement holds whatever it is. -/
namespace Sys2Proof.Config
open Sys2Proof.Machine

/-! Byte values of the fields that take one byte each (R203 gives their widths only; log 6). -/

/-- The arm a byte names. -/
opaque armCode : Nat → Option Arm
/-- The segment kind a byte names. -/
opaque segKindCode : Nat → Option SegKind
/-- The axis a byte names. -/
opaque axisCode : Nat → Option Axis
/-- The search direction a byte names. -/
opaque directionCode : Nat → Option Direction
/-- The channel role a byte names. -/
opaque roleCode : Nat → Option Role
/-- The scan list mode a byte names. -/
opaque scanModeCode : Nat → Option ScanMode
/-- The zone kind a byte names. -/
opaque zoneKindCode : Nat → Option ZoneKind
/-- The match mode a byte names. -/
opaque matchModeCode : Nat → Option MatchMode
/-- The pocket condition a byte names. -/
opaque pocketUseCode : Nat → Option PocketUse
/-- Whether a location kind byte names a pocket (true), an arm (false) or neither. -/
opaque placeKindCode : Nat → Option Bool
/-- The value of the start-locked byte. -/
opaque switchCode : Nat → Option Bool
/-- Whether a flag byte is set. -/
opaque flagSet : Nat → Bool
/-- The three flags of the SET SYNC byte: SP-A, SP-B, SCAN. -/
opaque syncFlags : Nat → Bool × Bool × Bool
/-- The choice that gives a notice kind its bit of a mask field, taken modulo the number of bits still free: the kinds
choose in their order, so each kind has a bit of the field to itself (R203: one bit for each kind). -/
opaque noticeChoice : Notice → Nat

/-! Layouts of response payloads (R202 gives the point record only; log 7). -/

/-- The length of a response payload other than READ POINTS', at most 1,024 bytes (R201). -/
opaque payloadLength : Payload → Fin 1025
/-- The byte at an offset of such a payload. -/
opaque payloadByte : Payload → Nat → Byte
/-- The number of bytes of a READ POINTS payload before its records: with six records of 24 bytes (R179, R202) the payload
keeps to 1,024 bytes (R201). -/
opaque pointsHeadLength : Fin 881
/-- The byte at an offset of that head, by record count, CONTACT_NOT_QUEUED and records left. -/
opaque pointsHeadByte : Nat → Bool → Nat → Nat → Byte

/-! The configuration memory's layout (R205 gives the order and the check; log 8). -/

/-- The byte at an offset of a section's content. -/
opaque contentByte : Image → Nat → Byte
/-- The content length of a section. -/
opaque contentLength : Section → Nat
/-- The number of bytes of a header. -/
opaque headerLength : Nat
/-- The byte at an offset of a section's header, which names its kind and its content length. -/
opaque headerByte : Section → Nat → Byte
/-- The byte at an offset of a stored CRC-32. -/
opaque crcByte : BitVec 32 → Nat → Byte

/-- The silicon revision number IDENTIFY returns (R213; log 9). -/
opaque siliconRevision : Nat

/-- The n-th choice among events that fall due at one moment, taken modulo their number (log 2). -/
opaque tieIndex : Nat → Nat

end Sys2Proof.Config
end

