-- ==== Sys2Proof/Machine/Arith.lean ====
section
/-! DEFINITION. The part's integer arithmetic (R6 to R8), its wraps, its little-endian fields and its CRC-32 (R205). -/
namespace Sys2Proof.Machine

/-- R(x, y): the quotient rounded to nearest, halves away from zero (R6). -/
def roundDiv (x y : Int) : Int :=
  x.sign * y.sign * (((2 * x.natAbs + y.natAbs) / (2 * y.natAbs) : Nat) : Int)

/-- trunc(x / y) (R7). -/
def truncDiv (x y : Int) : Int := x.tdiv y

/-- One bit at a time, from the highest that can be in the root. -/
def isqrtFrom : Nat → Nat → Nat → Nat
  | 0, _, r => r
  | b + 1, n, r => isqrtFrom b n (if (r + 2 ^ b) * (r + 2 ^ b) ≤ n then r + 2 ^ b else r)

/-- The largest integer whose square does not exceed n (R7). -/
def isqrt (n : Nat) : Nat := isqrtFrom (Nat.log2 n / 2 + 1) n 0

/-- clamp(x, lo, hi) (R8). -/
def clamp (x lo hi : Int) : Int := if x < lo then lo else if hi < x then hi else x

/-- A Nat held within lo to hi (R28, R116, R146). -/
def clampNat (x lo hi : Nat) : Nat := if x < lo then lo else if hi < x then hi else x

/-- Whether a value lies outside the signed 32-bit range (R8). -/
def out32 (x : Int) : Bool := decide (x < -2147483648) || decide (2147483647 < x)

/-- A final coordinate (R8). -/
def clamp32 (x : Int) : Int := clamp x (-2147483648) 2147483647

/-- A converted temperature (R3, R24). -/
def clamp16 (x : Int) : Int := clamp x (-32768) 32767

/-- A counter value modulo 2^32, as a signed number (R54). -/
def wrap32 (x : Int) : Int := Int.bmod x 4294967296

/-- Coordinates from axis-wise operations. -/
def vecSub (u v : Vec3) : Vec3 := .of fun i => u.get i - v.get i

/-- isqrt of the sum of squares (R80). -/
def vecNorm (v : Vec3) : Nat := isqrt (v.x.natAbs ^ 2 + v.y.natAbs ^ 2 + v.z.natAbs ^ 2)

/-! Fields of a frame, least significant byte first (10.7). -/

/-- The n-byte field of a value, least significant byte first. -/
def bytesLE (n v : Nat) : List Byte := (List.range n).map fun i => BitVec.ofNat 8 (v / 256 ^ i)

/-- A signed 32-bit field. -/
def bytesS32 (v : Int) : List Byte := bytesLE 4 (v % 4294967296).toNat

/-- The byte at a place of a payload, 0 beyond its end. -/
def u8At (bs : List Byte) (i : Nat) : Nat := (bs.getD i 0).toNat

/-- The unsigned n-byte field at a place of a payload. -/
def uAt (bs : List Byte) (i : Nat) : Nat → Nat
  | 0 => 0
  | n + 1 => u8At bs i + 256 * uAt bs (i + 1) n

/-- The signed n-byte field at a place of a payload. -/
def sAt (bs : List Byte) (i n : Nat) : Int := Int.bmod (uAt bs i n) (256 ^ n)

/-- Three signed 32-bit fields. -/
def vAt (bs : List Byte) (i : Nat) : Vec3 := ⟨sAt bs i 4, sAt bs (i + 4) 4, sAt bs (i + 8) 4⟩

/-! The CRC-32 of a section (R205). -/

/-- One bit of the reflected check with generator 0xEDB88320. -/
def crcBit (c : BitVec 32) : BitVec 32 :=
  if c.getLsbD 0 then (c >>> 1) ^^^ 0xEDB88320#32 else c >>> 1

def crcByte (c : BitVec 32) (b : Byte) : BitVec 32 :=
  let x := c ^^^ b.setWidth 32
  crcBit (crcBit (crcBit (crcBit (crcBit (crcBit (crcBit (crcBit x)))))))

/-- Starting value all ones, final inversion of all bits (R205). -/
def crc32 (bs : List Byte) : BitVec 32 := ~~~ (bs.foldl crcByte 0xFFFFFFFF#32)

/-- The 8-bit check of a mount count: the inversion of the sum of its two bytes (R205). -/
def countCheck (n : Nat) : Nat := 255 - (n % 256 + n / 256) % 256

end Sys2Proof.Machine
end

