-- ==== Sys2Proof/Machine/Flags.lean ====
section
/-! DEFINITION. Flag sets: the notice flags of a link and its ATTN line (R195, R196), DEN (R63), the load-fault flags
(R206). -/
namespace Sys2Proof.Machine

/-- The flag set with one more kind set; sets keep the order of allNotices, so equal sets are equal data (R195). -/
def addNotice (k : Notice) (fs : List Notice) : List Notice :=
  allNotices.filter fun x => decide (x = k) || fs.contains x

/-- ATTN: asserted while the flag set and the mask share a kind (R196). -/
def attnOf (flags mask : List Notice) : Bool := flags.any fun k => mask.contains k

/-- A link with its ATTN line formed again (R196). -/
def LinkState.reform (l : LinkState) : LinkState := { l with attn := attnOf l.flags l.mask }

/-- A link with one notice flag set (R195). -/
def LinkState.raise (k : Notice) (l : LinkState) : LinkState :=
  { l with flags := addNotice k l.flags }.reform

/-- A link with no notice flag set (R101, R197). -/
def LinkState.clearFlags (l : LinkState) : LinkState := { l with flags := [] }.reform

/-- A link with a new mask; bits for kinds it does not hold are ignored (R209). -/
def LinkState.withMask (id : Link) (mask : List Notice) (l : LinkState) : LinkState :=
  { l with mask := (noticesOf id).filter fun k => mask.contains k }.reform

/-- DEN for an arm state (R63). -/
def denOf : Phase → Bool
  | .off => false
  | .fault _ => false
  | _ => true

/-- The flags with one section's flag set or cleared (R206). -/
def LoadFaults.put (f : LoadFaults) (x : Section) (v : Bool) : LoadFaults :=
  match x with
  | .calibration => { f with calibration := v }
  | .zones => { f with zones := v }
  | .channels => { f with channels := v }
  | .probes => { f with probes := v }
  | .pockets => { f with pockets := v }
  | .settings => { f with settings := v }

end Sys2Proof.Machine
end

