-- ==== Sys2Proof/Machine/Ops.lean ====
section
/-! DEFINITION. The named operations the meanings share: updates of one part of the state, notices, fault reports,
responses, arm state changes with DEN and its release frame, result entries, forward conversion, mount, reach and
boxes. -/
namespace Sys2Proof.Machine

/-! ### Updates of one part -/

def State.modLink (s : State) (l : Link) (f : LinkState → LinkState) : State :=
  { s with links := s.links.set l (f (s.links.get l)) }

def State.modMotion (s : State) (a : Arm) (f : Motion → Motion) : State :=
  { s with motion := s.motion.set a (f (s.motion.get a)) }

def State.modAxes (s : State) (a : Arm) (f : AxisUnit → AxisUnit) : State :=
  { s with axes := s.axes.set a (f (s.axes.get a)) }

def State.modAxis (s : State) (a : Arm) (i : Axis) (f : AxisState → AxisState) : State :=
  s.modAxes a fun u => { u with axis := u.axis.set i (f (u.axis.get i)) }

def State.modCapture (s : State) (a : Arm) (f : Capture → Capture) : State :=
  { s with capture := s.capture.set a (f (s.capture.get a)) }

def State.modTimer (s : State) (a : Arm) (f : SetpointTimer → SetpointTimer) : State :=
  { s with timers := s.timers.set a (f (s.timers.get a)) }

def State.modRack (s : State) (f : Rack → Rack) : State := { s with rack := f s.rack }

def State.setContext (s : State) (a : Arm) (c : Option Context) : State := { s with change := s.change.set a c }

/-- The arm's context changed, where one stands. -/
def State.modContext (s : State) (a : Arm) (f : Context → Context) : State :=
  s.setContext a ((s.change.get a).map f)

def State.setProbe (s : State) (n : Slot) (p : Option Probe) : State := { s with probes := Table.put s.probes n p }

/-- The record in a slot changed, where there is one. -/
def State.modProbe (s : State) (n : Slot) (f : Probe → Probe) : State :=
  s.setProbe n ((s.probes.get n).map f)

def State.modPocket (s : State) (p : PocketId) (f : Pocket → Pocket) : State :=
  { s with pockets := Table.put s.pockets p (f (s.pockets.get p)) }

def State.setHolder (s : State) (z : ZoneId) (h : Option (Arm × HoldWhy)) : State :=
  { s with holders := Table.put s.holders z h }

def State.setUnknown (s : State) (a : Arm) (v : Bool) : State := { s with unknown := s.unknown.set a v }

/-! ### Notices and faults -/

/-- A block raises a notice on a link (R195). -/
def State.raise (s : State) (l : Link) (k : Notice) : State := s.modLink l (LinkState.raise k)

/-- A notice on both arm links and link S. -/
def State.raiseAll (s : State) (k : Notice) : State := ((s.raise .A k).raise .B k).raise .S k

/-- A fault report: the count, and the trap when it is empty, with TRAP_SET (R198). -/
def State.report (s : State) (r : FaultReport) : State :=
  let count := min (s.faultCount + 1) 65535
  match s.trap with
  | some _ => { s with faultCount := count }
  | none => { s with faultCount := count, trap := some ⟨r, count⟩ }.raise .S .trapSet

/-! ### Responses -/

/-- The owning block decides the response of the request a link holds: the link becomes READY (R188, R194). -/
def State.respond (s : State) (l : Link) (c : Code) (p : Payload := .none) : State :=
  s.modLink l fun x => { x with phase := .ready, buffer := [], request := none, work := none, response := some ⟨c, p⟩ }

/-! ### Arm state, drive frames, results -/

/-- One frame on the arm's DRV line, its count raised by 1 modulo 256 (R60 to R62); it waits for the frame being sent
(R204). -/
def AxisUnit.send (u : AxisUnit) (enable : Bool) (sp : Vec3) : AxisUnit :=
  let c := (u.frameCount + 1) % 256
  { u with frameCount := c, line := u.line ++ [⟨c, enable, sp⟩] }

/-- The last setpoints sent of an arm. -/
def AxisUnit.lastSent (u : AxisUnit) : Vec3 := u.axis.map (·.lastSent)

/-- The standing setpoints of an arm. -/
def AxisUnit.standing (u : AxisUnit) : Vec3 := u.axis.map (·.standing)

/-- The live counts of an arm. -/
def AxisUnit.counts (u : AxisUnit) : Vec3 := u.axis.map (·.count)

/-- DEN as an arm state asks; each deassertion sends a release frame (R62, R63). -/
def AxisUnit.drive (u : AxisUnit) (den : Bool) : AxisUnit :=
  if u.den && !den then { u.send false u.lastSent with den := false } else { u with den := den }

/-- The arm enters a state; DEN follows in the same step (R63, R72). -/
def State.setPhase (s : State) (a : Arm) (p : Phase) : State :=
  (s.modMotion a fun m => { m with phase := p }).modAxes a fun u => u.drive (denOf p)

/-- The arm enters HELD, or takes a new reason: ARM_HELD is raised (R92, R98). -/
def State.hold (s : State) (a : Arm) (r : HoldReason) : State :=
  (s.setPhase a (.held r)).raise a.link .armHeld

/-- One result entry; the oldest is dropped from a list of 8 (R97), and SEG_ENDED is raised (R98). -/
def State.addResult (s : State) (a : Arm) (tag : Nat) (o : Outcome) (removed : Option Nat := none) : State :=
  (s.modMotion a fun m =>
    let n := (m.resultCount + 1) % 65536
    let rs := m.results ++ [⟨n, tag, o, removed⟩]
    { m with resultCount := n, results := rs.drop (rs.length - 8) }).raise a.link .segEnded

/-! ### Identities, mount and records -/

/-- Whether two identities match (R127). -/
def idMatch (m : MatchMode) (x y : Nat) : Bool :=
  match m with
  | .full => decide (x = y)
  | .serialOnly => decide (x / 256 = y / 256)

/-- Every slot. -/
def allSlots : List Slot := List.finRange 32

/-- The lowest slot whose record passes a test. -/
def State.findProbe (s : State) (p : Probe → Bool) : Option Slot :=
  allSlots.find? fun n => (s.probes.get n).any p

/-- The non-FREE record whose identity matches a code under the match mode in force (R127). -/
def State.matching (s : State) (code : Nat) : Option Slot :=
  s.findProbe fun p => idMatch s.settings.matchMode p.identity code

/-- The record MOUNTED on an arm. -/
def State.mountedOn (s : State) (a : Arm) : Option Slot := s.findProbe fun p => decide (p.place = .mounted a)

/-- The dropped record of the arm's context while it is IN_TRANSIT and the drop is not confirmed (R126). -/
def State.transitOf (s : State) (a : Arm) : Option Slot :=
  match s.change.get a with
  | some c =>
    match c.drop with
    | some (_, .slot n) =>
      if !c.dropConfirmed && (s.probes.get n).any (fun p => decide (p.place = .inTransit a)) then some n else none
    | _ => none
  | none => none

/-- The mount of an arm (R126). -/
def State.mount (s : State) (a : Arm) : Mount :=
  match s.mountedOn a with
  | some n => .record n
  | none =>
    match s.transitOf a with
    | some n => .record n
    | none => if s.unknown.get a then .unknown else .none

/-- A pocket made EMPTY, with UNEXPECTED set when its presence is active (R132, R133, R142, R152). -/
def State.vacate (s : State) (p : PocketId) : State :=
  s.modPocket p fun k => { k with state := .empty, unexpected := k.level }

/-- Whether a place holds one module: a pocket or an arm (R125, R126). -/
def Place.single : Place → Bool
  | .stored _ => true
  | .mounted _ => true
  | _ => false

/-- Any other record that stands at a pocket or on an arm a record comes to becomes LOST: a pocket and an arm hold one
module (R125, R126). In a state that a run reaches there is none. -/
def State.displace (s : State) (n : Slot) (pl : Place) : State :=
  if pl.single then
    { s with
      probes := Table.mapIdx s.probes fun m p =>
        if m = n then p else p.map fun q => if q.place = pl then { q with place := .lost } else q }
  else s

/-- A record leaves its place: from STORED(p), pocket p is EMPTY in the same step (R126). -/
def State.leave (s : State) (n : Slot) (pl : Place) : State :=
  match pl with
  | .stored k => if (s.pockets.get k).state = .occupied n then s.vacate k else s
  | _ => s

/-- A record put in a place. A record leaving STORED(p) leaves pocket p EMPTY in the same step (R126); a record that
becomes MOUNTED on an arm clears the arm's UNKNOWN flag (R126). -/
def State.place (s : State) (n : Slot) (pl : Place) : State :=
  match s.probes.get n with
  | none => s
  | some p =>
    let s2 := ((s.leave n p.place).displace n pl).setProbe n (some { p with place := pl })
    match pl with
    | .stored k => s2.modPocket k fun q => { q with state := .occupied n, unexpected := false }
    | .mounted a => s2.setUnknown a false
    | _ => s2

/-- The reach of the record in a slot; a FREE slot counts 0. -/
def State.slotReach (s : State) (n : Slot) : Nat := ((s.probes.get n).map (·.reach)).getD 0

/-- The largest reach a record may carry, that of an UNKNOWN module (R106). -/
def maxReach : Nat := 8000000

/-- The probe part of an arm's reach (R106). Past WAIT_RACK the reaches taken at the acceptance count, so that nothing
written to the dropped record after its confirmation changes them (R151); a take record that has been picked is MOUNTED,
and its own reach counts, as WRITE PROBE may change it (R131; log 21). -/
def State.probeReach (s : State) (a : Arm) : Nat :=
  let byMount := match s.mount a with
    | .record n => s.slotReach n
    | .unknown => maxReach
    | .none => 0
  match s.change.get a with
  | none => byMount
  | some c =>
    if c.step = .waitRack then byMount
    else
      max (if c.drop.isSome then c.dropReach else 0)
        (match c.take with
          | some (_, n) => if c.pickConfirmed then s.slotReach n else c.takeReach
          | none => 0)

/-- The reach of an arm (R106). -/
def State.reach (s : State) (a : Arm) : Int := ((s.cal.get a).envelope + s.probeReach a : Nat)

/-! ### Positions and boxes -/

/-- The scale group of an arm's axis. -/
def Snapshot.scaleOf (t : Snapshot) (a : Arm) (i : Axis) : Group := (t.groups.scale.get a).get i

/-- Step 1 of the forward conversion: the scale correction (R16). -/
def scaleCount (alpha : Nat) (t c : Int) : Int := c + roundDiv (c * alpha * t) 1000000000000

/-- The forward conversion before its clamp (R16). -/
def forwardExact (cal : PerAxis AxisCal) (snap : Snapshot) (a : Arm) (c : Vec3) : Vec3 :=
  .of fun i =>
    let k := cal.get i
    k.base + k.sign * scaleCount k.alpha (snap.scaleOf a i).temp (c.get i)

/-- The forward conversion (R16). -/
def forward (cal : PerAxis AxisCal) (snap : Snapshot) (a : Arm) (c : Vec3) : Vec3 :=
  (forwardExact cal snap a c).map clamp32

/-- The machine position before its clamp (R17). -/
def State.positionExact (s : State) (a : Arm) : Vec3 :=
  forwardExact (s.cal.get a).axis s.snapshot a (s.axes.get a).counts

/-- The machine position (R17). -/
def State.position (s : State) (a : Arm) : Vec3 := (s.positionExact a).map clamp32

/-- A point expanded by the reach (R107). -/
def expand (p : Vec3) (r : Int) : Box := ⟨p.map (· - r), p.map (· + r)⟩

/-- The box swept between two points (R107). -/
def sweep (p q : Vec3) (r : Int) : Box :=
  ⟨.of fun i => min (p.get i) (q.get i) - r, .of fun i => max (p.get i) (q.get i) + r⟩

/-- Whether two boxes meet; boundaries that touch meet (R107). -/
def boxMeets (x y : Box) : Bool :=
  (PerAxis.of fun i => decide (x.lo.get i ≤ y.hi.get i) && decide (y.lo.get i ≤ x.hi.get i)).every id

/-- The standing box of an arm (R107). -/
def State.standingBox (s : State) (a : Arm) : Box := expand (s.position a) (s.reach a)

/-- Every zone. -/
def allZones : List ZoneId := List.finRange 16

/-- The zones of one kind that a box meets. -/
def State.zonesMet (s : State) (k : ZoneKind) (b : Box) : List ZoneId :=
  allZones.filter fun z => decide ((s.zones.get z).kind = k) && boxMeets b (s.zones.get z).box

/-- The SHARED zones. -/
def State.sharedZones (s : State) : List ZoneId := allZones.filter fun z => decide ((s.zones.get z).kind = .shared)

/-- The RACK zone, if any record is RACK (R103). -/
def State.rackZone (s : State) : Option ZoneId := allZones.find? fun z => decide ((s.zones.get z).kind = .rack)

/-- Whether a box meets the RACK zone. -/
def State.meetsRack (s : State) (b : Box) : Bool := !(s.zonesMet .rack b).isEmpty

/-! ### Small readings -/

/-- Whether an arm's change is in a rack-open step (R75). -/
def State.rackOpenStep (s : State) (a : Arm) : Bool :=
  (s.change.get a).any fun c =>
    decide (c.step = .awaitDrop) || decide (c.step = .awaitPick) || decide (c.step = .failedOpen)

/-- Whether any axis of an arm is UNREFERENCED (R56). -/
def State.unreferenced (s : State) (a : Arm) : Bool := (s.axes.get a).axis.any fun x => !x.referenced

/-- The tag of an arm's active segment, as fault reports carry it (R55, R164, R182, R198; log 18). -/
def State.activeTag (s : State) (a : Arm) : Option Nat := (s.motion.get a).active.map (·.seg.tag)

/-- A fault report of an arm with its position (R55, R66, R67, R164). -/
def State.armReport (s : State) (k : FaultKind) (a : Arm) : FaultReport :=
  { kind := k, arm := some a, tag := s.activeTag a, coords := some (s.position a), epoch := s.snapshot.epoch }

/-- Whether a SAVE runs (R210). -/
def State.saving (s : State) : Bool := decide (s.save ≠ .idle)

/-- Whether an inventory runs (R140). -/
def State.inventoryRuns (s : State) : Bool := decide (s.inventory ≠ .idle)

/-- Whether the part is READY (R206). -/
def State.ready (s : State) : Bool := decide (s.startup = .ready)

/-- Whether either arm has a change context. -/
def State.anyContext (s : State) : Bool := (s.change.get .A).isSome || (s.change.get .B).isSome

/-- Whether an arm has a segment in its working record. -/
def State.hasActive (s : State) (a : Arm) : Bool := (s.motion.get a).active.isSome

/-- The kind of a move. -/
def Move.kind : Move → SegKind
  | .position _ => .position
  | .probe _ _ => .probe
  | .home _ _ _ => .home
  | .rack _ => .rack

/-- The target of a move that has one. -/
def Move.target? : Move → Option Vec3
  | .position t => some t
  | .probe t _ => some t
  | .rack t => some t
  | .home _ _ _ => none

/-- The trigger arming state of an arm (R168). -/
def State.arming (s : State) (a : Arm) : Arming :=
  let m := s.motion.get a
  let masked := (s.change.get a).any fun c =>
    decide (c.step = .awaitDrop) || decide (c.step = .awaitPick) || decide (c.step = .failedOpen)
      || decide (c.step = .closing)
  let rackSeg := m.active.any fun w => decide (w.seg.move.kind = .rack)
  let probing := m.active.any fun w => decide (w.seg.move.kind = .probe) && decide (w.status = .active)
  let settled := m.active.any fun w =>
    decide (w.status = .stopping .touched) || decide (w.status = .stopping .contact)
  if !denOf m.phase then .ignored
  else if masked || rackSeg then .masked
  else if m.phase = .collision then .ignored
  else if probing then .touch
  else if settled then .ignored
  else .contact

end Sys2Proof.Machine
end

