-- ==== Sys2Proof/Machine/Tasks.lean ====
section
/-! DEFINITION. The pieces of work one event can set off in the blocks (95_what_each_step_holds). A piece answers the
state after it and the pieces that follow at once; Machine/Cascade.lean runs them depth first (log 13). -/
namespace Sys2Proof.Machine

/-- What stops the arm of a change (R162). -/
inductive ArmEvent where
  | fault | collision | reset | halt
  deriving DecidableEq, Repr

/-- The pieces of work. -/
inductive Task where
  /-- Segment start evaluation (R78 to R82). -/
  | evaluate (a : Arm)
  /-- The stage 6 request of the head; `entering` when the arm is not yet WAITING(ZONE) (R111, R112). -/
  | request (a : Arm) (entering : Bool)
  /-- Stage 7 (R83). -/
  | activate (a : Arm)
  /-- Release of zones an arm holds (R117). -/
  | release (a : Arm) (zs : List ZoneId)
  /-- Release of all non-standing zones of an arm (R108). -/
  | releaseLoose (a : Arm)
  /-- Release of the RACK zone by the change sequencer (R117). -/
  | releaseRack (a : Arm)
  /-- The waiter scan (R117). -/
  | scan
  /-- Append of a SEGMENT entry, R113 steps 2 and 3. -/
  | append (a : Arm)
  /-- R113 steps 4 and 5 for an entry that still stands; the deadlock test (R121). -/
  | judge (a : Arm)
  /-- Append of a CHANGE entry (R112). -/
  | appendChange (a : Arm)
  /-- A standing recompute (R109). -/
  | recompute (a : Arm)
  /-- The standing recompute of the end of a segment that needed these zones (R115). -/
  | recomputeEnd (a : Arm) (needed : List ZoneId)
  /-- The deferred standing recompute, if one is due (R109). -/
  | recomputeOwed (a : Arm)
  /-- The start of the linger timer (R116). -/
  | linger (a : Arm)
  /-- The zones of an ended segment after the arm's next action is known (R115). -/
  | settleZones (a : Arm)
  /-- The end of the active segment (R96). -/
  | segmentEnd (a : Arm) (o : Outcome)
  /-- What the arm does after a segment end (R86, R88, R92, R96). -/
  | afterEnd (a : Arm) (o : Outcome)
  /-- Completion of an ARM RESET, its steps in three parts (R101). -/
  | completeReset (a : Arm)
  | finishReset (a : Arm)
  | clearFlags (a : Arm)
  /-- The change sequencer acts on a stop of the arm (R162). -/
  | armStopped (a : Arm) (e : ArmEvent)
  /-- The sequencer asks for the RACK zone (R112). -/
  | requestRack (a : Arm)
  /-- The open condition, for a context in OPENING (R150). -/
  | openCheck (a : Arm)
  /-- The closed condition, for a context in CLOSING (R158). -/
  | closedCheck (a : Arm)
  /-- The end of a context, R155 steps 1 to 3, and steps 4 to 6. -/
  | endChange (a : Arm) (o : ChangeOutcome)
  | removeChange (a : Arm) (o : ChangeOutcome)
  /-- Both rack sensors are active (R161). -/
  | sensorConflict
  /-- A hold request with reason ID_MISMATCH (R92). -/
  | holdRequest (a : Arm)
  /-- An inventory is asked (R140). -/
  | askInventory
  /-- The resolution of the identity phase (R142). -/
  | resolveInventory
  /-- The end of an inventory (R140, R208). -/
  | endInventory
  deriving DecidableEq, Repr

/-- A state and the pieces of work that follow. -/
abbrev Eff := State × List Task

end Sys2Proof.Machine
end

