-- ==== Sys2Proof/Machine/Zones.lean ====
section
/-! DEFINITION. The zone arbiter: standing recomputes, requests, waits, releases, grants, linger, hand-over counts and
the deadlock test (chapter 6), with what the grant of the RACK zone does to a change (R149). -/
namespace Sys2Proof.Machine

/-- Whether an arm holds a zone. -/
def State.holds (s : State) (a : Arm) (z : ZoneId) : Bool :=
  (s.holders.get z).any fun h => decide (h.1 = a)

/-- The zones an arm holds for a reason. -/
def State.heldFor (s : State) (a : Arm) (w : HoldWhy) : List ZoneId :=
  allZones.filter fun z => decide (s.holders.get z = some (a, w))

/-- The non-standing zones of an arm: held for SEGMENT or LINGER (R108). -/
def State.loose (s : State) (a : Arm) : List ZoneId :=
  allZones.filter fun z => decide (s.holders.get z = some (a, .segment)) || decide (s.holders.get z = some (a, .linger))

/-- The waiter entry of an arm (R114). -/
def State.entry (s : State) (a : Arm) : Option Waiter := s.waiters.find? fun w => decide (w.arm = a)

/-- When the last lingering zone has left an arm its linger timer stops (R116). -/
def State.tidyLinger (s : State) (a : Arm) : State :=
  if (s.heldFor a .linger).isEmpty then { s with linger := s.linger.set a none } else s

/-- The zones a segment needs (R111); none for HOME. -/
def Working.needed (w : Working) : List ZoneId := (w.geometry.map (·.needed)).getD []

/-- The zones the active segment of an arm needs. -/
def State.activeNeeds (s : State) (a : Arm) : List ZoneId :=
  match (s.motion.get a).active with
  | some w => w.needed
  | none => []

/-- A waiter entry leaves the list, and with it the hand-over counts it started (R118). -/
def State.dropEntry (s : State) (a : Arm) : State :=
  { s with waiters := s.waiters.filter fun w => decide (w.arm ≠ a),
           handover := s.handover.filter fun h => decide (h.holder ≠ a.other) }

/-- A withdrawal of an arm's entry with a purpose: the deferred recompute, and the request of a head deferred behind a
CHANGE entry (R114). -/
def withdraw (a : Arm) (p : Purpose) (s : State) : Eff :=
  match s.entry a with
  | none => (s, [])
  | some w =>
    if w.purpose = p then
      (s.dropEntry a, .recomputeOwed a :: (if p = .change then [.request a false] else []))
    else (s, [])

/-- The SHARED zones a request takes: those not held for STANDING or CLAIM become SEGMENT (R111); so does a contested zone
that passes from the other arm's LINGER (log 44). The RACK zone of a RACK head is its context's, and a head granted after
its context has ended leaves it without a holder (log 48). -/
def State.takeZones (s : State) (a : Arm) (needed : List ZoneId) : State :=
  { s with
    holders := s.holders.mapIdx fun z h =>
      if needed.contains z && decide ((s.zones.get z).kind = .shared)
          && !decide (h = some (a, .standing)) && !decide (h = some (a, .claim)) then some (a, .segment)
      else h
    handover := s.handover.filter fun h => !(decide (h.holder = a.other) && needed.contains h.zone) }

/-- Whether every needed zone has no holder or is held by the arm of the entry (R117). -/
def State.grantable (s : State) (w : Waiter) : Bool :=
  w.needed.all fun z => (s.holders.get z).all fun h => decide (h.1 = w.arm)

/-- Release of zones an arm holds: the other arm's contested or claimed standing first, then one waiter scan (R117), made
also when each zone has gone to the other arm, whose entry it may complete (log 42). -/
def release (a : Arm) (zs : List ZoneId) (s : State) : Eff :=
  let out := zs.filter fun z => s.holds a z
  if out.isEmpty then (s, [])
  else
    let why : HoldWhy := if s.unreferenced a.other then .claim else .standing
    let s1 := { s with
      holders := s.holders.mapIdx fun z h =>
        if out.contains z then (if (s.standing.get a.other).contains z then some (a.other, why) else none) else h
      handover := s.handover.filter fun h => !(decide (h.holder = a) && out.contains h.zone) }
    (s1.tidyLinger a, [.scan])

/-- An arm's linger timer stops (R116). -/
def State.stopLinger (s : State) (a : Arm) : State := { s with linger := s.linger.set a none }

/-- Release of the non-standing zones of an arm (R108). -/
def releaseLoose (a : Arm) (s : State) : Eff := release a (s.loose a) s

/-- The RACK zone without its holder, where an arm holds it for CHANGE. -/
def State.freeRack (s : State) (a : Arm) : State :=
  { s with holders := s.holders.map fun h => if h = some (a, .change) then none else h }

/-- Release of the RACK zone (R117): holderless, then the scan. -/
def releaseRack (a : Arm) (s : State) : Eff :=
  if (s.heldFor a .change).isEmpty then (s, []) else (s.freeRack a, [.scan])

/-- The step of an arm's context. -/
def State.stepOf (s : State) (a : Arm) : Option Step := (s.change.get a).map (·.step)

/-- The rack timer from its full length (R146). -/
def State.startRackTimer (s : State) : State :=
  s.modRack fun r => { r with rackTimer := some ⟨s.settings.rackTimeout * 1000000, 0⟩ }

/-- The RACK zone is granted to an arm's context in WAIT_RACK, which enters OPENING (R112, R117, R149). -/
def grantRack (a : Arm) (zs : List ZoneId) (s : State) : Eff :=
  if s.stepOf a = some .waitRack then
    let s1 := { s with holders := s.holders.mapIdx fun z h => if zs.contains z then some (a, .change) else h }
    (((s1.modContext a fun c => { c with step := .opening }).modRack fun r => { r with req := true }).startRackTimer,
     [.recompute a, .openCheck a])
  else (s, [])

/-- The waiter scan, from the oldest entry: a granted entry leaves the list before the next is tested (R117). A RACK head
granted when its change is closing or has ended starts like any other (log 48). A granted CHANGE entry makes the recompute of
OPENING and the deferred one before the request of a head deferred behind it (log 57). -/
def scan (s : State) : Eff :=
  match s.waiters.find? fun w => s.grantable w with
  | none => (s, [])
  | some w =>
    let s1 := s.dropEntry w.arm
    match w.purpose with
    | .segment => (s1.takeZones w.arm w.needed, [.activate w.arm, .recomputeOwed w.arm, .scan])
    | .change =>
      let (s2, ts) := grantRack w.arm w.needed s1
      (s2, ts ++ [.recomputeOwed w.arm, .request w.arm false, .scan])

/-- Stage 6: the zones the head needs are granted whole, or the arm waits (R82, R111, R112, R113). A head that is
already WAITING(ZONE) behind a CHANGE entry makes its request again when that entry has left (R112). -/
def request (a : Arm) (entering : Bool) (s : State) : Eff :=
  let m := s.motion.get a
  match m.queue, m.geometry with
  | _ :: _, some g =>
    if !entering && (decide (m.phase ≠ .waiting .zone) || (s.entry a).isSome) then (s, [])
    else if g.needed.all fun z =>
        (s.holders.get z).all fun h => decide (h.1 = a) || decide (h = (a.other, .linger)) then
      ((s.takeZones a g.needed).tidyLinger a.other, [.activate a])
    else
      let s1 := if entering then (s.setPhase a (.waiting .zone)).raise a.link .zoneWait else s
      (s1, .releaseLoose a :: (if (s1.entry a).isSome then [] else [.append a]))
  | _, _ => (s, [])

/-- The waiter list with one more entry at its end; an arm has one at most (R114). -/
def State.appendEntry (s : State) (w : Waiter) : State :=
  if (s.entry w.arm).isSome then s else { s with waiters := s.waiters ++ [w] }

/-- R113 steps 2 and 3: the entry joins the list, and the other arm's lingering zones it needs are released at once. -/
def append (a : Arm) (s : State) : Eff :=
  match (s.motion.get a).geometry with
  | none => (s, [])
  | some g =>
    let s1 := s.appendEntry ⟨a, .segment, g.needed⟩
    (s1, [.release a.other ((s1.heldFor a.other .linger).filter fun z => g.needed.contains z), .judge a])

/-- Whether an entry needs a zone that an arm holds (R121). -/
def State.needsFrom (s : State) (w : Waiter) (a : Arm) : Bool := w.needed.any fun z => s.holds a z

/-- The deadlock test (R121). -/
def State.deadlocked (s : State) (w : Waiter) : Bool :=
  (s.entry w.arm.other).any fun o => s.needsFrom w o.arm && s.needsFrom o w.arm

/-- The head leaves the queue with an outcome, at evaluation (R78). -/
def State.endHead (s : State) (a : Arm) (o : Outcome) : State :=
  match (s.motion.get a).queue with
  | [] => s
  | h :: t => (s.modMotion a fun m => { m with queue := t, geometry := none }).addResult a h.tag o

/-- R113 steps 4 and 5 for an entry that still stands: hand-over counts start, then the deadlock test; the newer entry
is refused (R118, R121). -/
def judge (a : Arm) (s : State) : Eff :=
  match s.entry a with
  | none => (s, [])
  | some w =>
    match w.purpose with
    | .segment =>
      let fresh := (w.needed.filter fun z => s.holds a.other z && decide (0 < (s.zones.get z).k)).map
        fun z => ({ holder := a.other, zone := z, count := 0 } : Handover)
      let s1 := { s with handover := s.handover ++ fresh }
      if s1.deadlocked w then
        ((((s1.dropEntry a).endHead a .deadlock).hold a .deadlock).raiseAll .deadlock, [.recomputeOwed a])
      else (s1, [])
    | .change =>
      if s.deadlocked w then (s.raiseAll .deadlock, [.endChange a (.failed .deadlock)]) else (s, [])

/-- The sequencer's request for the RACK zone (R112). -/
def requestRack (a : Arm) (s : State) : Eff :=
  match s.rackZone with
  | none => (s, [])
  | some z =>
    match s.holders.get z with
    | none => grantRack a [z] s
    | some _ => (s, [.releaseLoose a, .appendChange a])

/-- A CHANGE entry joins the list, and the deadlock test is made (R112, R121). -/
def appendChange (a : Arm) (s : State) : Eff :=
  match s.rackZone with
  | none => (s, [])
  | some z => (s.appendEntry ⟨a, .change, [z]⟩, [.judge a])

/-- The standing set of an arm, formed anew (R109, R110). -/
def State.standingSet (s : State) (a : Arm) : List ZoneId :=
  if s.unreferenced a then s.sharedZones else s.zonesMet .shared (s.standingBox a)

/-- The new holder of one SHARED zone at a standing recompute (R109's table); `needed` are the zones the arm's segment
needs. A zone that leaves the set while the arm is OFF or in FAULT keeps its entry here and is released by the piece that
follows. -/
def State.standingHolder (s : State) (a : Arm) (needed : List ZoneId) (inSet : Bool) (z : ZoneId)
    (h : Option (Arm × HoldWhy)) : Option (Arm × HoldWhy) :=
  match h with
  | none => if inSet then some (a, if s.unreferenced a then .claim else .standing) else none
  | some (b, r) =>
    if b ≠ a then h
    else if inSet then some (a, if s.unreferenced a && decide (r = .claim) then .claim else .standing)
    else if r = .standing || r = .claim then
      if !denOf (s.motion.get a).phase then h
      else if needed.contains z then some (a, .segment)
      else some (a, .linger)
    else h

/-- A standing recompute (R109). At a segment end the zones that the ended segment needed and that leave the set wait, as
SEGMENT, for what the arm does next (R115, log 15); what it did not need, as for a HOME, becomes LINGER (R110). -/
def recomputeCore (a : Arm) (needed : List ZoneId) (s : State) : Eff :=
  let new := s.standingSet a
  let s1 := { s with
    standing := s.standing.set a new
    holders := s.holders.mapIdx fun z h =>
      if (s.zones.get z).kind = .shared then s.standingHolder a needed (new.contains z) z h else h }
  let gone := (s.heldFor a .standing ++ s.heldFor a .claim).filter fun z => !new.contains z
  (s1, if denOf (s.motion.get a).phase then [.linger a] else [.release a gone])

/-- A standing recompute, put off while the arm is WAITING(ZONE) with an entry on the list (R109), and not made before
the end of LOADING (R124, log 12). -/
def recompute (a : Arm) (needed : List ZoneId) (s : State) : Eff :=
  if s.startup = .loading then (s, [])
  else if (s.motion.get a).phase = .waiting .zone && (s.entry a).isSome then
    ({ s with deferred := s.deferred.set a true }, [])
  else recomputeCore a needed s

/-- The deferred standing recompute, if one is due (R109). -/
def recomputeOwed (a : Arm) (s : State) : Eff :=
  if s.deferred.get a then recompute a (s.activeNeeds a) { s with deferred := s.deferred.set a false } else (s, [])

/-- The linger timer starts from its full length; with length 0, or where the other arm's entry needs a zone, the zones
are released at once (R116). -/
def startLinger (a : Arm) (s : State) : Eff :=
  let zs := s.heldFor a .linger
  if zs.isEmpty then ({ s with linger := s.linger.set a none }, [])
  else if s.settings.linger = 0 then (s, [.release a zs])
  else
    let wanted := ((s.entry a.other).map (·.needed)).getD []
    ({ s with linger := s.linger.set a (some ⟨s.settings.linger * 10000, 0⟩) },
     [.release a (zs.filter fun z => wanted.contains z)])

/-- After a segment end that starts no next segment and no wait for zones, the zones still held for SEGMENT become
LINGER (R115). -/
def settleZones (a : Arm) (s : State) : Eff :=
  let m := s.motion.get a
  if m.active.isSome || decide (m.phase = .waiting .zone) || !denOf m.phase then (s, [])
  else
    let s1 := { s with
      holders := s.holders.mapIdx fun _ h => if h = some (a, .segment) then some (a, .linger) else h }
    (s1, if (s1.heldFor a .linger).isEmpty then [] else [.linger a])

/-- The zones at an activation: needed lingering zones become SEGMENT, the rest of the non-standing zones are released,
the linger timer stops, and counted zones count one start more (R116, R119). -/
def activateZones (a : Arm) (needed : List ZoneId) (s : State) : Eff :=
  let rest := (s.loose a).filter fun z => !needed.contains z
  ({ s with
      holders := s.holders.mapIdx fun z h =>
        if h = some (a, .linger) && needed.contains z then some (a, .segment) else h
      linger := s.linger.set a none
      handover := s.handover.map fun h =>
        if h.holder = a && needed.contains h.zone then { h with count := min (h.count + 1) (s.zones.get h.zone).k }
        else h },
   [.release a rest])

/-- The hand-over check: a zone whose count has reached K bars a head whose end box meets it (R120). -/
def State.barred (s : State) (a : Arm) (needed : List ZoneId) (endBox : Box) : Bool :=
  s.handover.any fun h =>
    decide (h.holder = a) && needed.contains h.zone && decide ((s.zones.get h.zone).k ≤ h.count)
      && boxMeets endBox (s.zones.get h.zone).box

end Sys2Proof.Machine
end

