-- ==== Sys2Proof/Machine/Motion.lean ====
section
/-! DEFINITION. The motion unit: segment start evaluation, activation, interpolation, stop ramps, segment ends, holds,
stops, FAULT entry and the completion of an ARM RESET (chapter 5). -/
namespace Sys2Proof.Machine

/-! ### The queue -/

/-- A flush: every segment leaves the queue, with one FLUSHED result, and a zone waiter of the head is withdrawn
(R74, R97). -/
def flush (a : Arm) (s : State) : Eff :=
  let m := s.motion.get a
  match m.queue with
  | [] => (s, [])
  | h :: _ =>
    let s1 := (s.modMotion a fun m => { m with queue := [], geometry := none }).addResult a h.tag .flushed
      (some m.queue.length)
    if m.phase = .waiting .zone then withdraw a .segment s1 else (s1, [])

/-! ### Segment start evaluation -/

/-- Stage 3 for a head with a target: start, end point, d, L (R80), with the swept box and the needed zones (R81,
R111). -/
def State.formGeometry (s : State) (a : Arm) (m : Move) (target : Vec3) : Geometry :=
  let start := forward (s.cal.get a).axis s.snapshot a (s.axes.get a).standing
  let d0 := vecSub target start
  let l0 := vecNorm d0
  let finish := match m with
    | .probe _ beyond => .of fun i => target.get i + roundDiv (beyond * d0.get i) l0
    | _ => target
  let d := vecSub finish start
  let swept := sweep start finish (s.reach a)
  let rack := if m.kind = .rack then s.rackZone.toList else []
  { start := start, finish := finish, d := d, len := vecNorm d, swept := swept,
    needed := s.zonesMet .shared swept ++ rack }

/-- Stage 4, FORBIDDEN: the swept box, or the end box where the start box already meets the zone (R81). -/
def State.forbidden (s : State) (a : Arm) (g : Geometry) : Bool :=
  let r := s.reach a
  allZones.any fun z =>
    let k := s.zones.get z
    decide (k.kind = .forbidden) &&
      (if boxMeets (expand g.start r) k.box then boxMeets (expand g.finish r) k.box else boxMeets g.swept k.box)

/-- The head ends and the arm is held (R78, R92). -/
def State.endHeld (s : State) (a : Arm) (o : Outcome) (r : HoldReason) : State := (s.endHead a o).hold a r

/-- Stages 4 to 6 for a head whose geometry is formed (R81, R82). -/
def stages (a : Arm) (m : Move) (g : Geometry) (s : State) : Eff :=
  if s.forbidden a g then (s.endHeld a .refusedForbidden .refusedForbidden, [])
  else if m.kind ≠ .rack && s.meetsRack g.swept then (s.endHeld a .refusedRack .refusedRack, [])
  else if s.barred a g.needed (expand g.finish (s.reach a)) then
    ((s.modMotion a fun m => { m with geometry := none }).hold a .handover, [])
  else (s.modMotion a fun m => { m with geometry := some g }, [.request a true])

/-- Segment start evaluation of the head (R78 to R82). It does not run while an ARM RESET is pending (R100); with an
empty queue the arm becomes IDLE. -/
def evaluate (a : Arm) (s : State) : Eff :=
  let m := s.motion.get a
  if m.resetPending then (s, [])
  else
    match m.queue with
    | [] => (s.setPhase a .idle, [])
    | h :: _ =>
      match h.move.target? with
      | none => (s.modMotion a fun m => { m with geometry := none }, [.activate a])
      | some target =>
        let kind := h.move.kind
        if kind = .rack && !s.rackOpenStep a then (s.endHeld a .refusedRack .refusedRack, [])
        else if kind = .probe && (s.capture.get a).trig then (s.endHeld a .triggerStuck .triggerStuck, [])
        else if kind = .probe && decide (32 ≤ (s.capture.get a).points.length) then
          ((s.setPhase a (.waiting .points)).raise a.link .pointsWait, [])
        else
          let start := forward (s.cal.get a).axis s.snapshot a (s.axes.get a).standing
          let g := s.formGeometry a h.move target
          if kind = .probe && decide (vecNorm (vecSub target start) = 0) then
            (s.endHeld a .noDirection .noDirection, [])
          else if kind ≠ .probe && decide (g.len = 0) then (s.endHead a .done, [.evaluate a])
          else stages a h.move g s

/-! ### Activation -/

/-- Velocity ceiling of a segment from its feed (R84). -/
def feedVelocity (feed vMax n d : Nat) : Nat :=
  let per := fun (f : Nat) => (roundDiv (f * n) (d * 1000000)).toNat
  let lim := if per vMax = 0 then 1 else per vMax
  clampNat (per feed) 1 lim

/-- The inverse conversion of one coordinate with a frozen strain product (R83). -/
def inverseAxis (k : AxisCal) (strain e : Int) : Int :=
  let x := k.sign * (e - k.base)
  x - roundDiv (x * strain) 1000000000000

/-- The signed search travel of a HOME (R89). -/
def homeTravel (dir : Direction) (search : Nat) : Int :=
  match dir with
  | .rising => search
  | .falling => -(search : Int)

/-- The working record at activation (R83, R84, R89). -/
def State.work (s : State) (a : Arm) (seg : Segment) (g : Option Geometry) : Working :=
  let cal := s.cal.get a
  let t := s.timers.get a
  let rawStart := (s.axes.get a).standing
  let strain : Vec3 := .of fun i => (cal.axis.get i).alpha * (s.snapshot.scaleOf a i).temp
  let base : Working :=
    { seg := seg, geometry := none, d := .all 0, len := 0, epoch := s.snapshot.epoch, strain := strain,
      rawStart := rawStart, rawEnd := rawStart, vFeed := feedVelocity seg.feed cal.vMax t.n t.d, p := 0, v := 0,
      status := .active }
  match seg.move with
  | .home i dir search =>
    { base with
      d := (PerAxis.all 0).set i ((cal.axis.get i).sign * homeTravel dir search)
      len := search
      rawEnd := rawStart.set i (wrap32 (rawStart.get i + homeTravel dir search)) }
  | _ =>
    match g with
    | some g =>
      { base with
        geometry := some g
        d := g.d
        len := g.len
        rawEnd := .of fun i => inverseAxis (cal.axis.get i) (strain.get i) (g.finish.get i) }
    | none => base

/-- Stage 7: the head leaves the queue and becomes the active segment (R83); its zones (R116, R119). -/
def activate (a : Arm) (s : State) : Eff :=
  let m := s.motion.get a
  match m.queue with
  | [] => (s, [])
  | h :: t =>
    let w := s.work a h m.geometry
    let s1 := (s.modMotion a fun m => { m with queue := t, geometry := none, active := some w }).setPhase a .moving
    activateZones a w.needed s1

/-! ### Interpolation -/

/-- The raw travel of an axis: for HOME the difference modulo 2^32, which keeps the path's length (R89, log 19). -/
def Working.span (w : Working) (i : Axis) : Int :=
  match w.seg.move with
  | .home _ _ _ => wrap32 (w.rawEnd.get i - w.rawStart.get i)
  | _ => w.rawEnd.get i - w.rawStart.get i

/-- The setpoints at the progress p (R86). -/
def Working.setpoints (w : Working) : Vec3 :=
  .of fun i => wrap32 (w.rawStart.get i + roundDiv (w.span i * w.p) w.len)

/-- The remaining distance. -/
def Working.rem (w : Working) : Nat := w.len - w.p

/-- The target velocity under an override (R85). -/
def targetVelocity (vFeed override : Nat) : Nat := min (vFeed * override / 100) vFeed

/-- The velocity of the next step of an ACTIVE segment (R85). -/
def Working.nextVelocity (w : Working) (acc override : Nat) : Nat :=
  let vt := targetVelocity w.vFeed override
  let cand := if w.v + acc ≤ vt then w.v + acc else if vt < w.v then max (w.v - acc) vt else vt
  min (min cand (isqrt (2 * acc * w.rem))) w.rem

/-- The velocity of the next step of a stop ramp (R88). -/
def Working.rampVelocity (w : Working) (aStop : Nat) : Nat := min (w.v - aStop) w.rem

/-- One step with a given velocity. -/
def Working.step (w : Working) (v : Nat) : Working := { w with p := w.p + v, v := v }

/-- The outcome of a segment whose p has reached L (R86). -/
def endOutcome : Move → Outcome
  | .probe _ _ => .missed
  | .home _ _ _ => .homeFailed
  | _ => .done

/-- The standing setpoints of an arm (R60). -/
def State.setStanding (s : State) (a : Arm) (v : Vec3) : State :=
  s.modAxes a fun u => { u with axis := .of fun i => { u.axis.get i with standing := v.get i } }

/-! ### Stops -/

/-- A stop: the active segment enters its stop ramp with a pending outcome; at v = 0 it ends at once (R88). A ramp in
progress goes on; only a contact changes its pending outcome. -/
def enterStop (a : Arm) (o : Outcome) (s : State) : Eff :=
  match (s.motion.get a).active with
  | none => (s, [])
  | some w =>
    match w.status with
    | .active =>
      let s1 := (s.modMotion a fun m => { m with active := some { w with status := .stopping o } }).setPhase a .stopping
      if w.v = 0 then (s1.setStanding a w.setpoints, [.segmentEnd a o]) else (s1, [])
    | .stopping _ =>
      if o = .contact then
        (s.modMotion a fun m => { m with active := some { w with status := .stopping .contact } }, [])
      else (s, [])

/-- The active segment ends: its result, the standing recompute, then what the arm does next (R86, R96, R115), or the
completion of a pending ARM RESET (R100). -/
def segmentEnd (a : Arm) (o : Outcome) (s : State) : Eff :=
  let m := s.motion.get a
  match m.active with
  | none => (s, [])
  | some w =>
    let s1 := (s.modMotion a fun m => { m with active := none }).addResult a w.seg.tag o
    (s1, .recomputeEnd a w.needed :: (if m.resetPending then [.completeReset a] else [.afterEnd a o, .settleZones a]))

/-- The arm state after a segment end (R92, R96). The queue is empty in COLLISION (R72), so what a POST has queued behind a
contact ramp (R76) is flushed (log 41). -/
def afterEnd (a : Arm) (o : Outcome) (s : State) : Eff :=
  let held := (s.motion.get a).holdPending
  let s1 := s.modMotion a fun m => { m with holdPending := false }
  if o = .contact then
    let (s2, ts) := flush a s1
    (s2.setPhase a .collision, ts ++ [.armStopped a .collision])
  else if held then (s1.hold a .idMismatch, [])
  else if o = .missed then (s1.hold a .missed, [])
  else if o = .homeFailed then (s1.hold a .homeFailed, [])
  else (s1, [.evaluate a])

/-- A touch reported by the capture unit (R91). -/
def touchStop (a : Arm) (s : State) : Eff := enterStop a .touched s

/-- A contact reported by the capture unit (R91). At v = 0 the active segment ends in the event that flushes the queue, and
the FLUSHED entry comes first, as for a ramp (R97; log 53). -/
def contactStop (a : Arm) (s : State) : Eff :=
  let (s1, ts) := flush a s
  if s1.hasActive a then
    let (s2, us) := enterStop a .contact s1
    (s2, ts ++ us)
  else (s1.setPhase a .collision, ts ++ [.armStopped a .collision])

/-- A hold request with reason ID_MISMATCH, by arm state (R92). -/
def holdRequest (a : Arm) (s : State) : Eff :=
  match (s.motion.get a).phase with
  | .idle => (s.hold a .idMismatch, [])
  | .held _ => (s.hold a .idMismatch, [])
  | .waiting _ =>
    let (s1, ts) := withdraw a .segment (s.modMotion a fun m => { m with geometry := none })
    (s1.hold a .idMismatch, ts)
  | .moving => enterStop a .halted (s.modMotion a fun m => { m with holdPending := true })
  | .stopping => (s.modMotion a fun m => { m with holdPending := true }, [])
  | .off => (s, [])
  | .collision => (s, [])
  | .fault _ => (s, [])

/-- HALT by arm state (R90), then the change sequencer's part (R162). At v = 0 the active segment ends in the event that
flushes the queue, and the FLUSHED entry comes first, as for a ramp (R97; log 53). -/
def haltArm (a : Arm) (s : State) : Eff :=
  let (s1, ts) := match (s.motion.get a).phase with
    | .moving =>
      let (s1, ts) := flush a s
      let (s2, us) := enterStop a .halted s1
      (s2, ts ++ us)
    | .stopping => flush a s
    | .waiting _ =>
      let (s1, ts) := flush a s
      (s1.setPhase a .idle, ts)
    | .held _ =>
      let (s1, ts) := flush a s
      (s1.setPhase a .idle, ts)
    | .off => (s, [])
    | .idle => (s, [])
    | .collision => (s, [])
    | .fault _ => (s, [])
  (s1, ts ++ [.armStopped a .halt])

/-! ### FAULT and ARM RESET -/

/-- The arm enters FAULT from any other state (R68, R95): the active segment ends FAULTED, the queue is flushed, DEN
falls, the change and the zones are settled, the linger timer stops (R116), ARM_FAULT is raised; a pending ARM RESET then
completes (R100). The fault itself is reported by the caller, which forms its fields before. The zones that leave the
standing set at the segment's end are handed on before the other non-standing zones (log 43). -/
def enterFault (a : Arm) (r : FaultReason) (s : State) : Eff :=
  let m := s.motion.get a
  let s1 := match m.active with
    | some w => (s.modMotion a fun m => { m with active := none }).addResult a w.seg.tag .faulted
    | none => s
  let (s2, ts) := flush a s1
  let s3 := ((s2.modMotion a fun m => { m with holdPending := false }).setPhase a (.fault r)).raise a.link .armFault
  ((s3.raise .S .armFault).stopLinger a,
   ts ++ [.armStopped a .fault] ++ (if m.active.isSome then [.recompute a] else [])
     ++ [.releaseLoose a] ++ (if m.resetPending then [.completeReset a] else []))

/-- R101 steps 1 and 2: the queue is flushed, the result list emptied, the context settled. -/
def completeReset (a : Arm) (s : State) : Eff :=
  let (s1, ts) := flush a s
  (s1.modMotion a fun m => { m with results := [], resultCount := 0 },
   ts ++ [.armStopped a .reset, .finishReset a])

/-- R101 steps 3 to 6: points, override, OFF with a release frame, zones and the linger timer (R124). -/
def finishReset (a : Arm) (s : State) : Eff :=
  let s1 := s.modCapture a fun c => { c with latch := none, points := [], seq := 0, notQueued := false }
  let s2 := s1.modMotion a fun m => { m with override := 100, resetPending := false, holdPending := false }
  let s3 := s2.setPhase a .off
  let (s4, ts) := withdraw a .segment (s3.stopLinger a)
  (s4, ts ++ [.releaseLoose a, .clearFlags a])

end Sys2Proof.Machine
end

