-- ==== Sys2Proof/Machine/Inventory.lean ====
section
/-! DEFINITION. The identity readers (R128) and the inventory (R140 to R142), with the step to READY that the start-up
inventory ends in (R208). -/
namespace Sys2Proof.Machine

/-! ### Readers -/

/-- A reader asked for a read: at once, as a new pending read, or joining the pending one (R128). -/
def Reader.ask (r : Reader) (k : Asker) : Reader :=
  match r.inFlight, r.pending with
  | none, _ => { r with inFlight := some [k] }
  | some _, none => { r with pending := some [k] }
  | some _, some ks => { r with pending := some (ks ++ [k]) }

/-- The pending read starts when the read in flight completes (R128). -/
def Reader.next (r : Reader) : Reader := { inFlight := r.pending, pending := none }

/-- The reads one block asked give it no result: it leaves their askers (R155, R159). A pending read that so loses its last
asker stays, and starts when the read in flight completes (log 55). -/
def Reader.discard (r : Reader) (p : Asker → Bool) : Reader :=
  { inFlight := r.inFlight.map (·.filter fun k => !p k), pending := r.pending.map (·.filter fun k => !p k) }

/-- Whether an asker waits for a read. -/
def Reader.awaits (r : Reader) (k : Asker) : Bool :=
  r.inFlight.any (·.contains k) || r.pending.any (·.contains k)

def State.modReader (s : State) (a : Arm) (f : Reader → Reader) : State :=
  { s with readers := s.readers.set a (f (s.readers.get a)) }

def State.askRead (s : State) (a : Arm) (k : Asker) : State := s.modReader a (·.ask k)

/-- The result of a read from the module's answer (R128). -/
def readResult : PridAnswer → ReadResult
  | .silent => .absent
  | .garbled => .error
  | .code c => if 1 ≤ c && c ≤ 4294967294 then .present c else .error

/-! ### Inventory -/

/-- What an inventory compares to tell whether it changed anything (R140). -/
def State.judged (s : State) : List (Option Place) × List (PocketState × Bool) × PerArm Bool :=
  (s.probes.toList.map (·.map (·.place)), s.pockets.toList.map (fun p => (p.state, p.unexpected)), s.unknown)

/-- The inventory state with its mark set when something has changed since an earlier state. -/
def State.markChanged (s : State) (before : State) : State :=
  match s.inventory with
  | .idle => s
  | .running again reads changed =>
    { s with inventory := .running again reads (changed || decide (s.judged ≠ before.judged)) }

/-- R141 step 1 for one pocket. -/
def State.judgePocket (s : State) (p : PocketId) : State :=
  let k := s.pockets.get p
  match k.state with
  | .occupied n => if k.level then s else s.place n .lost
  | .empty => s.modPocket p fun k => { k with unexpected := k.level }
  | _ => s

/-- Every pocket. -/
def allPockets : List PocketId := List.finRange 12

/-- The arms whose mount the inventory reads (R141 step 2). -/
def State.readArms (s : State) : PerArm Bool := s.change.map Option.isNone

/-- An inventory starts: the record and pocket phase, then the reads are asked (R140, R141). With no arm to read, the
identity phase has nothing to wait for. -/
def startInventory (s : State) : Eff :=
  let s1 := allPockets.foldl State.judgePocket s
  let arms := s.readArms
  let s2 := { s1 with
    inventory := .running false (arms.map fun x => if x then .asked else .notAsked)
      (decide (s1.judged ≠ s.judged)) }
  let s3 := if arms.a then s2.askRead .A .inventory else s2
  let s4 := if arms.b then s3.askRead .B .inventory else s3
  (s4, if arms.a || arms.b then [] else [.resolveInventory])

/-- An inventory is asked (R140). -/
def askInventory (s : State) : Eff :=
  match s.inventory with
  | .idle => startInventory s
  | .running _ reads changed => ({ s with inventory := .running true reads changed }, [])

/-- Every record MOUNTED on an arm but one becomes LOST. -/
def State.loseMounted (s : State) (a : Arm) (keep : Option Slot) : State :=
  allSlots.foldl (fun t n =>
    if (t.probes.get n).any (fun p => decide (p.place = .mounted a)) && decide (some n ≠ keep) then t.place n .lost
    else t) s

/-- What the identity phase found on an arm: nothing, no matching record, or a matching record and its place. -/
inductive Found where
  | absent
  | stranger
  | record (n : Slot) (pl : Place)
  deriving DecidableEq, Repr

/-- The match of a read (R142); ERROR counts as ABSENT (R128). -/
def State.found (s : State) (r : ReadResult) : Found :=
  match r with
  | .present c =>
    match s.matching c with
    | some n => match s.probes.get n with
      | some p => .record n p.place
      | none => .stranger
    | none => .stranger
  | _ => .absent

/-- The resolution of one read arm (R142). -/
def State.resolveArm (s : State) (a : Arm) (f : Found) : State :=
  match f with
  | .absent => (s.loseMounted a none).setUnknown a false
  | .stranger => (s.loseMounted a none).setUnknown a true
  | .record n pl =>
    match pl with
    | .mounted b => if b = a then s.setUnknown a false else (s.loseMounted a none).setUnknown a true
    | .inTransit _ => (s.loseMounted a none).setUnknown a true
    | .stored _ => ((s.loseMounted a (some n)).place n (.mounted a)).setUnknown a false
    | .lost => ((s.loseMounted a (some n)).place n (.mounted a)).setUnknown a false

/-- The result of an arm's read, once it has completed. -/
def InvRead.result? : InvRead → Option ReadResult
  | .got r => some r
  | _ => none

/-- The identity phase's resolution of both arms from the table as it stands (R142). A record MOUNTED on one arm that the
other arm reads and its own arm's read loses becomes LOST (log 56). -/
def State.resolved (s : State) (reads : PerArm InvRead) : State :=
  let fa := reads.a.result?.map s.found
  let fb := reads.b.result?.map s.found
  match fa, fb with
  | some (.record n _), some (.record m _) =>
    if n = m then
      ((((s.place n .lost).loseMounted .A none).loseMounted .B none).setUnknown .A true).setUnknown .B true
    else (s.resolveArm .A (fa.getD .absent)).resolveArm .B (fb.getD .absent)
  | _, _ =>
    let s1 := match fa with
      | some f => s.resolveArm .A f
      | none => s
    match fb with
    | some f => s1.resolveArm .B f
    | none => s1

/-- A standing recompute for each arm whose mount or reach has changed (R106, R126): none where the value stays (log 50,
log 51), and arm A's first (log 52). -/
def remount (before after : State) : List Task :=
  (if before.mount .A ≠ after.mount .A || before.reach .A ≠ after.reach .A then [Task.recompute .A] else [])
    ++ (if before.mount .B ≠ after.mount .B || before.reach .B ≠ after.reach .B then [Task.recompute .B] else [])

/-- The resolution, the standing recomputes of changed mounts, then the end of the inventory (R142). -/
def resolveInventory (s : State) : Eff :=
  match s.inventory with
  | .idle => (s, [])
  | .running _ reads _ =>
    let s1 := (s.resolved reads).markChanged s
    (s1, remount s s1 ++ [.endInventory])

/-- The result of an inventory read; the last one resolves (R142). -/
def inventoryRead (a : Arm) (r : ReadResult) (s : State) : Eff :=
  match s.inventory with
  | .idle => (s, [])
  | .running again reads changed =>
    let reads1 := reads.set a (.got r)
    ({ s with inventory := .running again reads1 changed },
     if reads1.a = .asked || reads1.b = .asked then [] else [.resolveInventory])

/-! ### The step to READY -/

/-- A setpoint timer's next period: its length from the accumulator, which then moves on (R44); a fresh ratio starts
with the accumulator at 0 (R47). -/
def SetpointTimer.startPeriod (t : SetpointTimer) : SetpointTimer :=
  let acc := if t.fresh then 0 else t.acc
  let q := t.n / t.d
  let r := t.n - q * t.d
  { t with acc := (acc + r) % t.d, startAcc := acc, count := 0, fresh := false,
           length := if t.d ≤ acc + r then q + 1 else q }

/-- A period that starts with the accumulator at 0 (R50, R52). -/
def SetpointTimer.realign (t : SetpointTimer) : SetpointTimer := { t with acc := 0 }.startPeriod

/-- A new scan interval, of the scan interval as applied (R48). -/
def State.startScanInterval (s : State) : State := { s with scanTimer := ⟨s.scanInterval * 10000, 0⟩ }

/-- A link at READY: RETRY becomes IDLE with empty buffers; link S answers a RELOAD (R190, R208, R212). -/
def LinkState.atReady (f : LoadFaults) (l : LinkState) : LinkState :=
  if l.phase = .retry then
    { l with phase := .idle, buffer := [], request := none, work := none, response := none, overrun := false }
  else if l.work = some .reload then
    { l with phase := .ready, buffer := [], request := none, work := none,
             response := some ⟨.ok, .loadFaults f⟩ }
  else l

/-- The part becomes READY (R208). -/
def becomeReady (s : State) : Eff :=
  let s1 := { s with
    startup := .ready
    links := ⟨s.links.a.atReady s.loadFaults, s.links.b.atReady s.loadFaults, s.links.s.atReady s.loadFaults⟩
    timers := s.timers.map SetpointTimer.realign }
  ((s1.startScanInterval).raiseAll .loadDone,
   if s.rack.opened && s.rack.closed then [.sensorConflict] else [])

/-- The end of an inventory: the notice, a repeat, or READY at start-up (R140, R208). -/
def endInventory (s : State) : Eff :=
  match s.inventory with
  | .idle => (s, [])
  | .running again _ changed =>
    let s1 := if changed && s.ready then s.raise .S .pocketChanged else s
    if again then startInventory s1
    else
      let s2 := { s1 with inventory := .idle }
      if s2.startup = .inventory then becomeReady s2 else (s2, [])

end Sys2Proof.Machine
end

