-- ==== Sys2Proof/Machine/Change.lean ====
section
/-! DEFINITION. The change sequencer: opening and closing the rack, drop and pick confirmations, failures and the end of
a context (chapter 8). -/
namespace Sys2Proof.Machine

/-- The open condition (R146). -/
def Rack.isOpen (r : Rack) : Bool := r.opened && !r.closed

/-- The closed condition (R146). -/
def Rack.isClosed (r : Rack) : Bool := r.closed && !r.opened

/-- The step timer from its full length (R146). -/
def State.startStepTimer (s : State) : State :=
  s.modRack fun r => { r with stepTimer := some ⟨s.settings.stepTimeout * 10000000, 0⟩ }

/-- The sequencer asks no further read and discards the results of those it asked (R151, R155, R159), the pending one's
too (log 55). -/
def State.dropReads (s : State) (a : Arm) : State :=
  (s.modReader a (·.discard fun k => decide (k = .drop) || decide (k = .pick))).modRack
    fun r => { r with dropTimer := none }

/-- A drop read is asked, and the 50 ms to the next start (R151). -/
def State.askDropRead (s : State) (a : Arm) : State :=
  (s.askRead a .drop).modRack fun r => { r with dropTimer := some ⟨500000, 0⟩ }

/-- The arm whose context holds the RACK zone: one past WAIT_RACK (R108, R145). -/
def State.rackArm (s : State) : Option Arm :=
  let past := fun a => (s.change.get a).any fun c => decide (c.step ≠ .waitRack)
  if past .A then some .A else if past .B then some .B else none

/-- The open condition in OPENING: the step advances (R150). -/
def openCheck (a : Arm) (s : State) : Eff :=
  if decide (s.stepOf a = some .opening) && s.rack.isOpen then
    let s1 := s.modContext a fun c => { c with step := if c.drop.isSome then .awaitDrop else .awaitPick }
    (((s1.modRack fun r => { r with rackTimer := none }).startStepTimer).raise a.link .changeStep, [])
  else (s, [])

/-- The closed condition in CLOSING: the context ends (R158). -/
def closedCheck (a : Arm) (s : State) : Eff :=
  match s.change.get a with
  | some c =>
    if c.step = .closing && s.rack.isClosed then (s, [.endChange a (c.closing.getD .done)]) else (s, [])
  | none => (s, [])

/-- Entry into CLOSING (R156). -/
def enterClosing (a : Arm) (o : ChangeOutcome) (s : State) : Eff :=
  let s1 := s.modContext a fun c => { c with step := .closing, closing := some o }
  let s2 := (s1.dropReads a).modRack fun r => { r with req := false, stepTimer := none }
  ((s2.startRackTimer).raise a.link .changeStep, [.closedCheck a])

/-- Entry into FAILED_OPEN with a reason (R153, R154, R159, R162). -/
def State.failOpen (s : State) (a : Arm) (r : FailReason) : State :=
  let s1 := s.modContext a fun c => { c with step := .failedOpen, failure := some r }
  (((s1.dropReads a).modRack fun k => { k with stepTimer := none })).raise a.link .changeStep

/-! ### Drop and pick -/

/-- The confirmation of a drop (R151). The mount changes and the reach does not, and no standing recompute is made
(R106, R126, R151; log 54). -/
def confirmDrop (a : Arm) (s : State) : State :=
  match s.change.get a with
  | none => s
  | some c =>
    let s1 := match c.drop with
      | some (p, .slot n) => s.place n (.stored p)
      | some (p, .unknown) =>
        (s.modPocket p fun k =>
          if k.state = PocketState.reserved then { k with state := .empty, unexpected := true } else k).setUnknown a false
      | none => s
    let s2 := s1.modContext a fun c =>
      { c with dropConfirmed := true, step := if c.take.isSome then .awaitPick else .awaitDrop }
    let s3 := (s2.dropReads a).modRack fun r => { r with stepTimer := none }
    (if c.take.isSome then s3.startStepTimer else s3).raise a.link .changeStep

/-- The result of a drop read (R151): one that shows the module gone confirms the drop, with no standing recompute
(log 54). -/
def dropRead (a : Arm) (r : ReadResult) (s : State) : Eff :=
  match s.change.get a, r with
  | some c, .absent => (if c.step = .awaitDrop && !c.dropConfirmed then confirmDrop a s else s, [])
  | some c, .error => (if c.step = .awaitDrop && !c.dropConfirmed then confirmDrop a s else s, [])
  | _, _ => (s, [])

/-- The confirmation of a pick (R152, R143). The take pocket is RESERVED until then. -/
def confirmPick (a : Arm) (n : Slot) (p : PocketId) (s : State) : State :=
  let s0 := s.place n (.mounted a)
  let s1 := if (s0.pockets.get p).state = .reserved then s0.vacate p else s0
  let s2 := s1.modProbe n fun r => { r with mountCount := min (r.mountCount + 1) 65535, corrupt := false }
  let s3 := (s2.modContext a fun c => { c with pickConfirmed := true }).modRack fun r => { r with stepTimer := none }
  s3.raise a.link .changeStep

/-- The failure of a pick (R153). -/
def failPick (a : Arm) (n : Slot) (r : ReadResult) (s : State) : Eff :=
  let unknown := match r with
    | .present _ => true
    | _ => false
  let s1 := (s.place n .lost).setUnknown a unknown
  let s2 := s1.failOpen a .idMismatch
  (s2.report (s2.armReport .idMismatch a), remount s s2 ++ [.holdRequest a])

/-- The result of a pick read (R152, R153). -/
def pickRead (a : Arm) (r : ReadResult) (s : State) : Eff :=
  match s.change.get a with
  | none => (s, [])
  | some c =>
    match c.take with
    | none => (s, [])
    | some (p, n) =>
      if c.step = .awaitPick && !c.pickConfirmed then
        let good : Bool := match r with
          | .present code =>
            (s.probes.get n).any fun x => idMatch s.settings.matchMode x.identity code
          | _ => false
        if good then
          let s1 := confirmPick a n p s
          (s1, remount s s1)
        else failPick a n r s
      else (s, [])

/-- Drop pocket's level changes: the drop reads start or stop (R151). -/
def dropLevel (a : Arm) (level : Bool) (s : State) : State :=
  if level then s.askDropRead a else s.dropReads a

/-- A take probe is lost from its RESERVED pocket (R154). -/
def loseTake (a : Arm) (n : Slot) (s : State) : State :=
  let s1 := (s.place n .lost).raise .S .pocketChanged
  s1.report (s1.armReport .probeLost a)

/-- A presence change at a RESERVED pocket of an arm's context (R151, R152, R154). -/
def reservedChange (a : Arm) (c : Context) (p : PocketId) (level : Bool) (s : State) : Eff :=
  if decide (c.drop.map (·.1) = some p) && !c.dropConfirmed then
    match c.step with
    | .waitRack => (s, if level then [.endChange a (.failed .pocketBlocked)] else [])
    | .opening => (s, if level then [.endChange a (.failed .pocketBlocked)] else [])
    | .awaitDrop => (dropLevel a level s, [])
    | _ => (s, [])
  else
    match c.take with
    | none => (s, [])
    | some (q, n) =>
      if decide (q ≠ p) || level || c.pickConfirmed then (s, [])
      else
        match c.step with
        | .waitRack => (loseTake a n s, [.endChange a (.failed .probeLost)])
        | .opening => (loseTake a n s, [.endChange a (.failed .probeLost)])
        | .awaitDrop => ((loseTake a n s).failOpen a .probeLost, [])
        | .awaitPick => (if (s.readers.get a).awaits .pick then s else s.askRead a .pick, [])
        | _ => (s, [])

/-- Whether a context has a pocket RESERVED: its drop pocket until the drop is confirmed, its take pocket until the pick is
(R145, R151, R152). After that another context may have reserved it. -/
def Context.reserves (c : Context) (p : PocketId) : Bool :=
  (decide (c.drop.map (·.1) = some p) && !c.dropConfirmed) || (decide (c.take.map (·.1) = some p) && !c.pickConfirmed)

/-- The arm whose context has a pocket RESERVED (R145). -/
def State.reserver (s : State) (p : PocketId) : Option (Arm × Context) :=
  let of := fun (a : Arm) => match s.change.get a with
    | some c => if c.reserves p then some (a, c) else none
    | none => none
  match of .A with
  | some x => some x
  | none => of .B

/-! ### Ends and failures -/

/-- R155 step 2: what is still IN_TRANSIT is restored, and each pocket the context still has RESERVED becomes EMPTY. -/
def State.restore (s : State) (a : Arm) (c : Context) : State :=
  let inTransit := fun (t : State) (n : Slot) => (t.probes.get n).any fun p => decide (p.place = .inTransit a)
  let s1 := match c.drop with
    | some (_, .slot n) => if inTransit s n then s.place n (.mounted a) else s
    | _ => s
  let s2 := match c.take with
    | some (p, n) => if inTransit s1 n then s1.place n (.stored p) else s1
    | none => s1
  let free := fun (t : State) (p : PocketId) =>
    t.modPocket p fun k => if c.reserves p && decide (k.state = .reserved) then { k with state := .empty } else k
  let s3 := match c.drop with
    | some (p, _) => free s2 p
    | none => s2
  match c.take with
  | some (p, _) => free s3 p
  | none => s3

/-- R155 steps 1 to 3. The rack's timers and RACK-REQ serve the context past WAIT_RACK (R146). -/
def endChange (a : Arm) (o : ChangeOutcome) (s : State) : Eff :=
  match s.change.get a with
  | none => (s, [])
  | some c =>
    let s1 := if c.step = .waitRack then s
      else (s.dropReads a).modRack fun r => { r with rackTimer := none, stepTimer := none, req := false }
    let s2 := if o = .done then s1 else s1.restore a c
    if c.step = .waitRack then
      let (s3, ts) := withdraw a .change s2
      (s3, ts ++ [.removeChange a o])
    else (s2, [.releaseRack a, .removeChange a o])

/-- Whether an arm's context asks the cover open: it is in OPENING, AWAIT_DROP, AWAIT_PICK or FAILED_OPEN (R145). -/
def State.asksOpen (s : State) (a : Arm) : Bool :=
  (s.change.get a).any fun c => decide (c.step ≠ .waitRack) && decide (c.step ≠ .closing)

/-- An arm's context is removed. The RACK zone is held, and RACK-REQ asserted, only for a context that stands (R108,
R146): R155 step 3 has given up both for this one. -/
def State.dropContext (s : State) (a : Arm) : State :=
  ((s.freeRack a).setContext a none).modRack fun r => { r with req := r.req && s.asksOpen a.other }

/-- R155 steps 4 to 6. -/
def removeChange (a : Arm) (o : ChangeOutcome) (s : State) : Eff :=
  let s1 := { s.dropContext a with lastChange := s.lastChange.set a (some o) }
  (s1.raise a.link .changeEnded, .recompute a :: (if o = .done then [] else [.askInventory]))

/-- The change sequencer acts on a stop of the arm, by the context's step (R162). A contact ramp begun in OPENING may end
in AWAIT_DROP or AWAIT_PICK, where R162 expects no COLLISION: the context stays as it is (log 46). -/
def armStopped (a : Arm) (e : ArmEvent) (s : State) : Eff :=
  match s.stepOf a with
  | some .waitRack => (s, [.endChange a (if e = .halt then .aborted else .failed .arm)])
  | some .opening => (s, [.endChange a (if e = .halt then .aborted else .failed .arm)])
  | some .awaitDrop => (if e = .fault || e = .reset then s.failOpen a .arm else s, [])
  | some .awaitPick => (if e = .fault || e = .reset then s.failOpen a .arm else s, [])
  | _ => (s, [])

/-- The rack fault flag is set and RACK_FAULT raised; a context in WAIT_RACK ends first (R161). -/
def setRackFault (s : State) : Eff :=
  ((s.modRack fun r => { r with fault := true }).raise .S .rackFault,
   (if s.stepOf .A = some .waitRack then [.endChange .A (.failed .rackFault)] else [])
     ++ (if s.stepOf .B = some .waitRack then [.endChange .B (.failed .rackFault)] else []))

/-- The report of a RACK_SENSOR fault (R164). -/
def State.sensorReport (s : State) : FaultReport :=
  match s.rackArm with
  | some a => s.armReport .rackSensor a
  | none => { kind := .rackSensor, arm := none, tag := none, coords := none, epoch := s.snapshot.epoch }

/-- Both rack sensors are active (R161). -/
def sensorConflict (s : State) : Eff :=
  let (s1, ts) := setRackFault (s.report s.sensorReport)
  (s1, ts ++ match s.rackArm with
    | some a => if s.stepOf a = some .opening then [.endChange a (.failed .rackSensor)] else []
    | none => [])

/-- A change of the rack's levels: recorded, and acted on when the part is READY (R150, R158, R161, R166). -/
def rackLevels (opened closed : Bool) (s : State) : Eff :=
  let old := s.rack
  let s1 := s.modRack fun r => { r with opened := opened, closed := closed }
  if !s.ready then (s1, [])
  else if opened && closed && !(old.opened && old.closed) then (s1, [.sensorConflict])
  else if s1.rack.isOpen && !old.isOpen then (s1, [.openCheck .A, .openCheck .B])
  else if s1.rack.isClosed && !old.isClosed then (s1, [.closedCheck .A, .closedCheck .B])
  else (s1, [])

/-- The step timer expires in AWAIT_DROP or AWAIT_PICK (R159). -/
def stepTimeout (s : State) : Eff :=
  match s.rack.stepTimer, s.rackArm with
  | some _, some a =>
    if s.stepOf a = some .awaitDrop || s.stepOf a = some .awaitPick then
      let s1 := s.failOpen a .stepTimeout
      (s1.report (s1.armReport .stepTimeout a), [])
    else (s.modRack fun r => { r with stepTimer := none }, [])
  | _, _ => (s.modRack fun r => { r with stepTimer := none }, [])

/-- The rack timer expires in OPENING or CLOSING (R160). -/
def rackTimeout (s : State) : Eff :=
  match s.rack.rackTimer, s.rackArm with
  | some _, some a =>
    let s1 := s.modRack fun r => { r with rackTimer := none }
    if s.stepOf a = some .opening then
      let s2 := s1.modRack fun r => { r with req := false }
      (s2.report (s2.armReport .rackTimeout a), [.endChange a (.failed .rackTimeout)])
    else if s.stepOf a = some .closing then
      let (s2, ts) := setRackFault s1
      (s2.report (s2.armReport .rackTimeout a), ts ++ [.endChange a (.failed .rackTimeout)])
    else (s1, [])
  | _, _ => (s.modRack fun r => { r with rackTimer := none }, [])

/-- Whether an arm's context still awaits its drop with presence active at the drop pocket (R151). -/
def State.awaitsDrop (s : State) (a : Arm) : Bool :=
  (s.change.get a).any fun c =>
    decide (c.step = .awaitDrop) && !c.dropConfirmed && c.drop.any fun d => (s.pockets.get d.1).level

/-- 50 ms after a drop read, another is asked while presence stays active and the drop is unconfirmed (R151); a timer
that no context serves stops. -/
def dropRepeat (s : State) : State :=
  match s.rack.dropTimer, s.rackArm with
  | some _, some a => if s.awaitsDrop a then s.askDropRead a else s.modRack fun r => { r with dropTimer := none }
  | _, _ => s.modRack fun r => { r with dropTimer := none }

end Sys2Proof.Machine
end

