-- ==== Sys2Proof/Machine/Cascade.lean ====
section
/-! DEFINITION. The cascade of one event: the pieces of work it sets off, run depth first until none is left (log 13). -/
namespace Sys2Proof.Machine

/-- One piece of work, in the block that owns it. -/
def perform (t : Task) (s : State) : Eff :=
  match t with
  | .evaluate a => evaluate a s
  | .request a entering => request a entering s
  | .activate a => activate a s
  | .release a zs => release a zs s
  | .releaseLoose a => releaseLoose a s
  | .releaseRack a => releaseRack a s
  | .scan => scan s
  | .append a => append a s
  | .judge a => judge a s
  | .appendChange a => appendChange a s
  | .recompute a => recompute a (s.activeNeeds a) s
  | .recomputeEnd a needed => recompute a needed s
  | .recomputeOwed a => recomputeOwed a s
  | .linger a => startLinger a s
  | .settleZones a => settleZones a s
  | .segmentEnd a o => segmentEnd a o s
  | .afterEnd a o => afterEnd a o s
  | .completeReset a => completeReset a s
  | .finishReset a => finishReset a s
  | .clearFlags a => (s.modLink a.link LinkState.clearFlags, [])
  | .armStopped a e => armStopped a e s
  | .requestRack a => requestRack a s
  | .openCheck a => openCheck a s
  | .closedCheck a => closedCheck a s
  | .endChange a o => endChange a o s
  | .removeChange a o => removeChange a o s
  | .sensorConflict => sensorConflict s
  | .holdRequest a => holdRequest a s
  | .askInventory => askInventory s
  | .resolveInventory => resolveInventory s
  | .endInventory => endInventory s

/-- The pieces run one after another; what a piece sets off comes before what already waits. -/
def runTasks : Nat → List Task → State → State
  | 0, _, s => s
  | _ + 1, [], s => s
  | n + 1, t :: ts, s =>
    let r := perform t s
    runTasks n (r.2 ++ ts) r.1

/-- More pieces than one event can set off (log 13). -/
def cascadeBound : Nat := 10000

/-- The state after an event and everything it sets off. -/
def settle (e : Eff) : State := runTasks cascadeBound e.2 e.1

end Sys2Proof.Machine
end

