-- ==== Sys2Proof/Machine/Operands.lean ====
section
/-! DEFINITION. The argument checks of the requests: the ranges and relations a payload must keep (R9, R10, R13, R18,
R20, R34, R35, R46, R73, R103, R104, R125, R130, R131, R209). A stored record is judged by the same checks (R206). -/
namespace Sys2Proof.Machine

/-- Whether an Int lies outside lo to hi. -/
def outside (x lo hi : Int) : Bool := decide (x < lo) || decide (hi < x)

/-- Whether a Nat lies outside lo to hi. -/
def outsideNat (x lo hi : Nat) : Bool := decide (x < lo) || decide (hi < x)

/-- The largest bound of a soft limit or a zone box (R2). -/
def cellRange : Int := 100000000

/-- One axis of a calibration payload fails its check (R13). -/
def badAxisCal (k : AxisCal) : Bool :=
  (decide (k.sign ≠ 1) && decide (k.sign ≠ -1))
    || outside k.base (-1000000000) 1000000000 || outside k.reference (-1000000000) 1000000000
    || outside k.softMin (-cellRange) cellRange || outside k.softMax (-cellRange) cellRange
    || decide (k.softMax < k.softMin)

/-- A calibration payload fails check 3 of R13, less the arm. -/
def badCalibration (c : Calibration) : Bool :=
  c.axis.any badAxisCal || outsideNat c.vMax 1 1000000 || outsideNat c.a 1 65535 || outsideNat c.aStop 1 65535
    || decide (c.aStop < c.a) || outsideNat c.followingLimit 1 1000000 || decide (5000000 < c.envelope)

/-- A workpiece payload fails its check (R35). -/
def badWorkpiece (w : Workpiece) : Bool :=
  w.w0.any (outside · (-cellRange) cellRange) || decide (32767 < w.gradientLimit)

/-- A box fails its check (R104). -/
def badBox (b : Box) : Bool :=
  b.lo.any (outside · (-cellRange) cellRange) || b.hi.any (outside · (-cellRange) cellRange)
    || (PerAxis.of fun i => decide (b.hi.get i < b.lo.get i)).any id

/-- A zone payload fails check 3 of R104, less the zone number. -/
def badZone (e : ZoneEntry) : Bool := e.kind.isNone || badBox e.box

/-- A channel payload fails check 2 of R20, less the channel number. -/
def badChannel (e : ChannelEntry) : Bool :=
  e.role.isNone || decide (7 < e.shift) || decide (e.high < e.low) || outsideNat e.persistence 1 15

/-- A timer ratio fails check 2 of R46, less the arm. -/
def badRatio (n d : Nat) : Bool := outsideNat n 1 65535 || outsideNat d 1 255 || decide (n / d < 1000)

/-- The fields every probe record has fail their ranges (R125, R130, R131). -/
def badProbeFields (reach tau : Nat) (home : Option Nat) : Bool :=
  decide (8000000 < reach) || decide (4095 < tau) || home.any fun h => decide (11 < h)

/-- An identity outside 1 to 0xFFFFFFFE (R127). -/
def badIdentity (x : Nat) : Bool := outsideNat x 1 4294967294

/-- A location that names no pocket and no arm (R130; log 27). -/
def badPlace : PlaceEntry → Bool
  | .pocket p => decide (11 < p)
  | .arm a => a.isNone
  | .neither => true

/-- A REGISTER PROBE payload fails check 1 of R130. -/
def badRegister (e : RegisterEntry) : Bool :=
  badIdentity e.identity || badProbeFields e.reach e.tau e.home || badPlace e.place

/-- A stored probe record with a field REGISTER PROBE would refuse (R206). -/
def badStored (e : StoredProbe) : Bool :=
  badIdentity e.identity || badProbeFields e.reach e.tau e.home || badPlace e.place

/-- The segment a POST or REPLACE entry stands for, or none where check 2 of R75 refuses it BAD_ARGUMENT. A field the
kind does not use is ignored (R73). -/
def segmentOf (e : SegEntry) : Option Segment :=
  if outsideNat e.feed 1 1000000 then none
  else
    match e.kind with
    | none => none
    | some .position => some ⟨e.tag, e.feed, .position e.target⟩
    | some .rack => some ⟨e.tag, e.feed, .rack e.target⟩
    | some .probe =>
      if 1000000 < e.overtravel then none else some ⟨e.tag, e.feed, .probe e.target e.overtravel⟩
    | some .home =>
      match e.axis, e.direction with
      | some i, some d =>
        if outsideNat e.search 1 200000000 then none else some ⟨e.tag, e.feed, .home i d e.search⟩
      | _, _ => none

/-- The segments of a request, when every entry passes (R75 check 2). -/
def segmentsOf : List SegEntry → Option (List Segment)
  | [] => some []
  | e :: es =>
    match segmentOf e, segmentsOf es with
    | some x, some xs => some (x :: xs)
    | _, _ => none

/-- The soft limit test of a target (R11). -/
def withinLimits (c : Calibration) (t : Vec3) : Bool :=
  (PerAxis.of fun i =>
    let k := c.axis.get i
    decide (k.softMin < k.softMax) && decide (k.softMin ≤ t.get i) && decide (t.get i ≤ k.softMax)).every id

end Sys2Proof.Machine
end

