-- ==== Sys2Proof/Machine/Links.lean ====
section
/-! DEFINITION. The link unit: link states, the checks of length and permission, and how a request reaches its owning
block and is answered (10.1 to 10.3). -/
namespace Sys2Proof.Machine

/-- The classes of command R192 gives the links by; `event` is a row that is no request. -/
inductive CommandClass where
  | read | armOrS | qualify | arm | config | event
  deriving DecidableEq, Repr

/-- The class of a command (R192, R193). -/
def commandClass : Instr → CommandClass
  | .armStatus .. | .readSnapshot .. | .readProbe .. | .readPocket .. | .readZone .. | .readChannel ..
  | .readCalibration .. | .readTrap .. | .identify .. | .status .. => .read
  | .halt .. | .abortChange .. | .armReset .. => .armOrS
  | .qualify .. => .qualify
  | .enable .. | .disable .. | .post .. | .replace .. | .resume .. | .clear .. | .override .. | .readPoints ..
  | .requestChange .. | .changeDone .. | .verifyProbe .. => .arm
  | .writeCalibration .. | .writeWorkpiece .. | .writeZone .. | .writeChannel .. | .editScanList ..
  | .setScanInterval .. | .setTimer .. | .setSync .. | .writeSettings .. | .registerProbe .. | .writeProbe ..
  | .retireProbe .. | .setProtection .. | .freezeProtection .. | .lockProbe .. | .unlockProbe .. | .writePocket ..
  | .inventory .. | .clearRackFault .. | .clearTrap .. | .save .. | .reload .. => .config
  | .reset | .sectionLoadComplete .. | .writePeriod .. | .unassignedCommand .. | .readPeriod ..
  | .setpointExpiry .. | .scanExpiry | .conversionComplete .. | .lingerExpiry .. | .stepTimerExpiry
  | .rackTimerExpiry | .dropReadRepeat | .identityReadComplete .. | .savePageWritten .. | .quadratureCount ..
  | .illegalTransition .. | .referenceMark .. | .dfltChange .. | .csyncEdge | .triggerEdge .. | .triggerRelease ..
  | .pocketChange .. | .rackOpenChange .. | .rackClosedChange .. | .driveFrameEnd .. => .event

/-- The arm field of a QUALIFY. -/
def qualifyArm : Instr → Option Arm
  | .qualify _ e => e.arm
  | _ => none

/-- Whether a link may send a command (R192). -/
def permitted (l : Link) (c : Instr) : Bool :=
  match commandClass c with
  | .read => true
  | .armOrS => true
  | .arm => l.arm?.isSome
  | .config => l.arm?.isNone
  | .qualify =>
    match l.arm?, qualifyArm c with
    | some own, some named => decide (own = named)
    | _, _ => true
  | .event => false

/-- Whether the payload length of a command in decoded form is one R193 gives for it on this link. -/
def lengthOk (l : Link) (c : Instr) : Bool :=
  match c with
  | .post _ segs => decide (1 ≤ segs.length) && decide (segs.length ≤ 4)
  | .replace _ segs => decide (1 ≤ segs.length) && decide (segs.length ≤ 4)
  | .halt _ x => decide (x.isNone = l.arm?.isSome)
  | .abortChange _ x => decide (x.isNone = l.arm?.isSome)
  | .armReset _ x => decide (x.isNone = l.arm?.isSome)
  | .editScanList _ _ _ es => decide (es.length ≤ 32)
  | _ => true

/-- The link unit's checks of length and permission, in that order (R191). -/
def linkCheck (l : Link) (c : Instr) : Option Code :=
  if !lengthOk l c then some .badLength else if !permitted l c then some .notPermitted else none

/-- A READY or IDLE link takes a request: an unread response is dropped and the overrun mark cleared (R188, R189). -/
def LinkState.take (l : LinkState) : LinkState :=
  { l with phase := .pending, response := none, overrun := false, buffer := [], request := none,
           work := some .owner }

/-- A request at the end of its write period, under the link state (R188 to R190); `check` is what the link unit's checks
find. The Bool says that the request goes to its owning block. -/
def State.arrive (s : State) (l : Link) (check : Option Code) : State × Bool :=
  match (s.links.get l).phase with
  | .retry => (s, false)
  | .pending => (s.modLink l fun x => { x with overrun := true }, false)
  | _ =>
    let s1 := s.modLink l LinkState.take
    match check with
    | some code => (s1.respond l code, false)
    | none => (s1, true)

/-- Whether a link holds this very request and its owner has not taken it (R188). -/
def State.holdsRequest (s : State) (l : Link) (c : Instr) : Bool :=
  let x := s.links.get l
  decide (x.phase = .pending) && decide (x.work = some .owner) && decide (x.request = some c)

/-- A request row: the owner takes the request the link holds, or, where no write period has brought it, the request
arrives and its owner takes it in the same event (R188, R194; log 5). -/
def serve (l : Link) (c : Instr) (owner : State → State) (s : State) : State :=
  if s.holdsRequest l c then owner s
  else
    let r := s.arrive l (linkCheck l c)
    if r.2 then owner r.1 else r.1

/-- The owner takes the request and the link stays PENDING for the work it starts (R194). -/
def State.await (s : State) (l : Link) (w : Work) : State :=
  s.modLink l fun x => { x with request := none, work := some w }

/-- An arm command's owner: it acts on the link's own arm (R192). -/
def ownArm (l : Link) (f : Arm → State → State) (s : State) : State :=
  match l.arm? with
  | some a => f a s
  | none => s.respond l .notPermitted

/-- The owner of HALT, ABORT CHANGE and ARM RESET: the link's own arm, or the arm that link S names (R192); an arm byte
that names neither is refused BAD_ARGUMENT. -/
def namedArm (l : Link) (x : Option (Option Arm)) (f : Arm → State → State) (s : State) : State :=
  match l.arm? with
  | some a => f a s
  | none =>
    match x with
    | some (some a) => f a s
    | _ => s.respond l .badArgument

/-- The first check that fails gives the result; a request that passes all of them is accepted (R191). -/
def firstFailure (checks : List (Bool × Code)) : Option Code := (checks.find? (·.1)).map (·.2)

/-- A request with its owner's checks, in order, and its effect when all pass (R191). -/
def State.checked (s : State) (l : Link) (checks : List (Bool × Code)) (accept : State → State) : State :=
  match firstFailure checks with
  | some c => s.respond l c
  | none => accept s

/-- The link state byte (R201). -/
def stateByte (l : LinkState) : Byte :=
  let p := match l.phase with
    | .idle => 0
    | .pending => 1
    | .ready => 2
    | .retry => 3
  BitVec.ofNat 8 (p + (if l.attn then 4 else 0) + (if l.overrun then 8 else 0))

/-- The value of a result code (10, Result codes). -/
def Code.value : Code → Nat
  | .ok => 0x00
  | .badCommand => 0x01
  | .badLength => 0x02
  | .notPermitted => 0x03
  | .badArgument => 0x04
  | .wrongState => 0x05
  | .queueFull => 0x06
  | .outOfLimits => 0x07
  | .notReferenced => 0x08
  | .guarded => 0x09
  | .frozen => 0x0A
  | .saveInProgress => 0x0B
  | .notFound => 0x0C
  | .inUse => 0x0D
  | .noRack => 0x0E
  | .rackFault => 0x0F
  | .noProbe => 0x10

/-- The flag field of a point record (R202). -/
def PointFlags.value (f : PointFlags) : Nat :=
  let bit := fun (b : Bool) (k : Nat) => if b then 2 ^ k else 0
  bit f.unqualified 0 + bit f.qualStale 1 + bit f.thermStale 2 + bit f.wpFromAir 3 + bit f.wpHeld 4
    + bit f.gradient 5 + bit f.noDirection 6 + bit f.clamped 7 + bit f.uncalibrated 8 + bit f.noProbe 9

/-- A point record in 24 bytes (R202). -/
def Point.bytes (p : Point) : List Byte :=
  let kinds := (match p.kind with
    | .touch => 0
    | .contact => 1) + (if p.tag.isSome then 2 else 0) + (if p.probe.isSome then 4 else 0)
      + (if p.generation.isSome then 8 else 0)
  bytesLE 2 p.seq ++ bytesLE 1 kinds ++ bytesLE 1 ((p.probe.map (·.val)).getD 0) ++ bytesLE 2 p.flags.value
    ++ bytesLE 2 (p.tag.getD 0) ++ bytesLE 2 (p.generation.getD 0) ++ bytesLE 2 p.epoch
    ++ bytesS32 p.q.x ++ bytesS32 p.q.y ++ bytesS32 p.q.z

/-- The bytes of a response payload, at most 1,024 (R201, R202; log 7). -/
def Payload.bytes : Payload → List Byte
  | .none => []
  | .points contact left records =>
    (List.range Config.pointsHeadLength).map (Config.pointsHeadByte records.length contact left)
      ++ records.flatMap Point.bytes
  | p => (List.range (Config.payloadLength p)).map (Config.payloadByte p)

/-- The bytes of a response after the link state byte (R201). -/
def Response.bytes (r : Response) : List Byte :=
  bytesLE 1 r.code.value ++ bytesLE 2 r.payload.bytes.length ++ r.payload.bytes

/-- A frame on a DRV line in 14 bytes (R204). -/
def Frame.bytes (f : Frame) : List Byte :=
  bytesLE 1 f.count ++ bytesLE 1 (if f.enable then 1 else 0)
    ++ bytesS32 f.setpoints.x ++ bytesS32 f.setpoints.y ++ bytesS32 f.setpoints.z

/-- One byte on a DRV line as an asynchronous character: a low start bit, eight data bits least significant first, a high
stop bit (R204). -/
def charLevels (b : Byte) : List Bool := false :: (List.range 8).map (fun i => b.getLsbD i) ++ [true]

/-- The 140 levels of a frame on its line, one for each bit time, without gaps (R204). -/
def Frame.levels (f : Frame) : List Bool := f.bytes.flatMap charLevels

/-- What the part sends in a read period of n bytes (R186, R188). -/
def LinkState.readOut (l : LinkState) (n : Nat) : List Byte :=
  let bs := stateByte l :: (if l.phase = .ready then (l.response.map Response.bytes).getD [] else [])
  (bs ++ List.replicate (n - bs.length) 0#8).take n

/-- Whether a read period of n bytes has sent the whole response (R188). -/
def LinkState.readWhole (l : LinkState) (n : Nat) : Bool :=
  match l.phase, l.response with
  | .ready, some r => decide (1 + r.bytes.length ≤ n)
  | _, _ => false

/-- A link after a read period of n bytes (R186, R188). -/
def LinkState.read (n : Nat) (l : LinkState) : LinkState :=
  if n = 0 then l
  else if l.readWhole n then
    { l with dataOut := l.readOut n, phase := .idle, response := none, buffer := [], request := none,
             overrun := false }
  else { l with dataOut := l.readOut n }

end Sys2Proof.Machine
end

