-- ==== Sys2Proof/Machine/TimeBase.lean ====
section
/-! DEFINITION. The time base: SET TIMER, SET SYNC and the edge of CSYNC (chapter 3). The timers' periods stand in
Machine/Inventory.lean, where READY starts them; the expiries in Machine/Axes.lean and Machine/Thermal.lean. -/
namespace Sys2Proof.Machine

/-- Whether an arm is MOVING or STOPPING. -/
def State.inMotion (s : State) (a : Arm) : Bool :=
  decide ((s.motion.get a).phase = .moving) || decide ((s.motion.get a).phase = .stopping)

/-- The owner of SET TIMER (R46, R47). -/
def setTimer (l : Link) (arm : Option Arm) (n d : Nat) (s : State) : State :=
  match arm with
  | none => s.respond l (if s.saving then .saveInProgress else .badArgument)
  | some a =>
    s.checked l [(s.saving, .saveInProgress), (badRatio n d, .badArgument), (s.inMotion a, .wrongState)] fun s =>
      (s.modTimer a fun t => { t with n := n, d := d, fresh := true }).respond l .ok

/-- SET_TIMER (R46). -/
def execSetTimer (l : Link) (arm : Option Arm) (n d : Nat) (s : State) : Host.Outcome State Fault Refusal :=
  .next (serve l (.setTimer l arm n d) (setTimer l arm n d) s)

/-- The owner of SET SYNC: a set flag sets its enable, a clear flag leaves it (R49). -/
def setSync (l : Link) (spA spB scan : Bool) (s : State) : State :=
  let s1 := (s.modTimer .A fun t => { t with sync := t.sync || spA }).modTimer .B fun t => { t with sync := t.sync || spB }
  { s1 with scanSync := s.scanSync || scan }.respond l .ok

/-- SET_SYNC (R49). -/
def execSetSync (l : Link) (spA spB scan : Bool) (s : State) : Host.Outcome State Fault Refusal :=
  .next (serve l (.setSync l spA spB scan) (setSync l spA spB scan) s)

/-- One setpoint enable at an edge: applied and cleared while the arm is neither MOVING nor STOPPING (R50). -/
def State.syncTimer (s : State) (a : Arm) : State :=
  if (s.timers.get a).sync && !s.inMotion a then s.modTimer a fun t => { t.realign with sync := false } else s

/-- The SCAN enable at an edge (R50). -/
def State.syncScan (s : State) : State := if s.scanSync then { s.startScanInterval with scanSync := false } else s

/-- A rising edge of CSYNC (R50). Before READY no timer runs and every enable is clear (R52). -/
def csync (s : State) : State := if s.ready then ((s.syncTimer .A).syncTimer .B).syncScan else s

/-- CSYNC_EDGE (R50). -/
def execCsyncEdge (s : State) : Host.Outcome State Fault Refusal := .next (csync s)

end Sys2Proof.Machine
end

