-- ==== Sys2Proof/Machine/Axes.lean ====
section
/-! DEFINITION. The axis unit: counts, illegal transitions, reference marks, drive enable and drive fault, the following
check, setpoint frames, and the setpoint expiry that joins it to the motion unit (chapter 4, R85 to R88). -/
namespace Sys2Proof.Machine

/-! ### Encoder inputs -/

/-- The channel pair one count on, in the sense of the count (R54): forward, the first channel leads. -/
def nextPair (p : Bool × Bool) : Sense → Bool × Bool
  | .forward => (!p.2, p.1)
  | .reverse => (p.2, !p.1)

/-- One count of an axis (R54). -/
def AxisState.step (x : AxisState) (d : Sense) : AxisState :=
  { x with
    count := wrap32 (x.count + match d with
      | .forward => 1
      | .reverse => -1)
    pair := nextPair x.pair d
    sense := d }

/-- QUADRATURE_COUNT (R54). -/
def execQuadratureCount (a : Arm) (i : Axis) (d : Sense) (s : State) : Host.Outcome State Fault Refusal :=
  .next (s.modAxis a i (·.step d))

/-- An axis after an illegal transition: both channels have changed (R55). -/
def AxisState.illegal (x : AxisState) : AxisState :=
  { x with pair := (!x.pair.1, !x.pair.2), error := true, referenced := false }

/-- An illegal transition (R55, R69): the flags, the report, and FAULT from any state but FAULT. The standing recompute
is made when the axis was REFERENCED (R109). -/
def illegalTransition (a : Arm) (i : Axis) (s : State) : Eff :=
  let was := ((s.axes.get a).axis.get i).referenced
  let s1 := s.modAxis a i AxisState.illegal
  let s2 := s1.report (s1.armReport .encoder a)
  let owed := if was then [Task.recompute a] else []
  match (s2.motion.get a).phase with
  | .fault _ => (s2, owed)
  | _ =>
    let (s3, ts) := enterFault a .encoder s2
    (s3, owed ++ ts)

/-- ILLEGAL_TRANSITION (R55). -/
def execIllegalTransition (a : Arm) (i : Axis) (s : State) : Host.Outcome State Fault Refusal :=
  .next (settle (illegalTransition a i s))

/-- The sense of counts in a HOME's direction (R57). -/
def senseOf : Direction → Sense
  | .rising => .forward
  | .falling => .reverse

/-- Whether a mark on an axis is acted on (R57). -/
def State.markCounts (s : State) (a : Arm) (i : Axis) : Bool :=
  (s.motion.get a).active.any fun w =>
    match w.seg.move with
    | .home j dir _ =>
      decide (j = i) && decide (w.status = .active) && decide (((s.axes.get a).axis.get i).sense = senseOf dir)
    | _ => false

/-- The working record with its path moved by the re-base difference on one axis (R58, R89). -/
def Working.rebase (w : Working) (i : Axis) (delta : Int) : Working :=
  { w with
    rawStart := w.rawStart.set i (wrap32 (w.rawStart.get i + delta))
    rawEnd := w.rawEnd.set i (wrap32 (w.rawEnd.get i + delta)) }

/-- A reference mark acted on: the counter, the flags, the path, the standing recompute of a newly REFERENCED axis, then
the stop ramp with pending outcome DONE (R58, R59, R89, R109). -/
def referenceMark (a : Arm) (i : Axis) (s : State) : Eff :=
  if s.markCounts a i then
    let x := (s.axes.get a).axis.get i
    let ref := ((s.cal.get a).axis.get i).reference
    let delta := wrap32 (ref - x.count)
    let s1 := s.modAxis a i fun y => { y with count := ref, referenced := true, error := false, skip := true }
    let s2 := s1.modMotion a fun m => { m with active := m.active.map (·.rebase i delta) }
    let (s3, ts) := enterStop a .done s2
    (s3, (if x.referenced then [] else [.recompute a]) ++ ts)
  else (s, [])

/-- REFERENCE_MARK (R57, R58). -/
def execReferenceMark (a : Arm) (i : Axis) (s : State) : Host.Outcome State Fault Refusal :=
  .next (settle (referenceMark a i s))

/-! ### Drive enable and drive fault -/

/-- The three setpoints of an arm taken from its counts (R60, R64). -/
def AxisUnit.holdCounts (u : AxisUnit) : AxisUnit :=
  { u with axis := u.axis.map fun x => { x with standing := x.count, lastSent := x.count } }

/-- The owner of ENABLE (R64, R100). -/
def enable (l : Link) (a : Arm) (s : State) : State :=
  s.checked l
    [(decide ((s.motion.get a).phase ≠ .off) || (s.motion.get a).resetPending, .wrongState),
     ((s.axes.get a).dflt, .wrongState)] fun s =>
    settle ((((s.modAxes a AxisUnit.holdCounts).setPhase a .idle).respond l .ok), [.recompute a])

/-- ENABLE (R64). -/
def execEnable (l : Link) (s : State) : Host.Outcome State Fault Refusal :=
  .next (serve l (.enable l) (ownArm l (enable l)) s)

/-- An accepted DISABLE of an enabled arm: the flush, OFF with the release frame, the zones and the linger timer (R65,
R116). -/
def disableArm (a : Arm) (s : State) : Eff :=
  let (s1, ts) := flush a s
  ((s1.setPhase a .off).stopLinger a, ts ++ [.releaseLoose a])

/-- The owner of DISABLE (R65). -/
def disable (l : Link) (a : Arm) (s : State) : State :=
  match (s.motion.get a).phase with
  | .off => s.respond l .ok
  | .moving => s.respond l .wrongState
  | .stopping => s.respond l .wrongState
  | .fault _ => s.respond l .wrongState
  | _ =>
    s.checked l [((s.change.get a).isSome, .wrongState)] fun s =>
      let (s1, ts) := disableArm a s
      settle (s1.respond l .ok, ts)

/-- DISABLE (R65). -/
def execDisable (l : Link) (s : State) : Host.Outcome State Fault Refusal :=
  .next (serve l (.disable l) (ownArm l (disable l)) s)

/-- A change of the level of DFLT (R66). An activation that finds the arm in FAULT is no fault, also at the moment of the
fault that put it there (log 39). -/
def driveFault (a : Arm) (level : Bool) (s : State) : Eff :=
  let u := s.axes.get a
  let s1 := s.modAxes a fun u => { u with dflt := level }
  if level && !u.dflt && u.den then enterFault a .drive (s1.report (s1.armReport .drive a)) else (s1, [])

/-- DFLT_CHANGE (R66). -/
def execDfltChange (a : Arm) (level : Bool) (s : State) : Host.Outcome State Fault Refusal :=
  .next (settle (driveFault a level s))

/-! ### Setpoint expiries -/

/-- The following error of an axis (R67). -/
def AxisState.strayed (x : AxisState) : Int := wrap32 (x.count - x.lastSent)

/-- Whether the following check fails (R67), the axes skipped under R59 left out. -/
def AxisUnit.strays (u : AxisUnit) (limit : Nat) : Bool :=
  u.axis.any fun x => !x.skip && decide (limit < x.strayed.natAbs)

/-- The skip marks, spent at an expiry (R59). -/
def AxisUnit.clearSkips (u : AxisUnit) : AxisUnit := { u with axis := u.axis.map fun x => { x with skip := false } }

/-- One setpoint frame, its setpoints the last sent (R60, R61). -/
def AxisUnit.sendSetpoints (u : AxisUnit) (sp : Vec3) : AxisUnit :=
  let v := u.send true sp
  { v with axis := .of fun i => { v.axis.get i with lastSent := sp.get i } }

/-- The motion unit's step at an expiry (R85 to R88): the setpoints of the expiry's frame, the working record after the
step, and the outcome where the segment ends. -/
def State.motionStep (s : State) (a : Arm) : Vec3 × Option Working × Option Outcome :=
  let m := s.motion.get a
  let cal := s.cal.get a
  match m.active with
  | none => ((s.axes.get a).standing, none, none)
  | some w =>
    match w.status with
    | .active =>
      let w1 := w.step (w.nextVelocity cal.a m.override)
      (w1.setpoints, some w1, if w1.p = w1.len then some (endOutcome w.seg.move) else none)
    | .stopping o =>
      let w1 := w.step (w.rampVelocity cal.aStop)
      (w1.setpoints, some w1, if w1.v = 0 then some o else none)

/-- An expiry of an enabled arm whose check has passed (R61, R85, R86, R88). -/
def expiryStep (a : Arm) (s : State) : Eff :=
  let r := s.motionStep a
  let s1 := (s.modMotion a fun m => { m with active := r.2.1 }).modAxes a (·.sendSetpoints r.1)
  match r.2.2 with
  | none => (s1, [])
  | some o => (s1.setStanding a r.1, [.segmentEnd a o])

/-- A setpoint expiry (R44, R45, R47, R61, R67): the next period starts, and an enabled arm is checked and stepped. The
timers run while the part is READY (R52). No check is made in FAULT, also at the moment of the fault (log 39). -/
def setpointExpiry (a : Arm) (s : State) : Eff :=
  if !s.ready then (s, [])
  else
    let u := s.axes.get a
    let s1 := (s.modTimer a SetpointTimer.startPeriod).modAxes a AxisUnit.clearSkips
    if !u.den then (s1, [])
    else if u.strays (s.cal.get a).followingLimit then
      enterFault a .following (s1.report (s1.armReport .following a))
    else expiryStep a s1

/-- SETPOINT_EXPIRY (R45). -/
def execSetpointExpiry (a : Arm) (s : State) : Host.Outcome State Fault Refusal :=
  .next (settle (setpointExpiry a s))

/-- The level of the arm's DRV line: high between frames, else the level of the bit being sent (R204). -/
def AxisUnit.level (u : AxisUnit) : Bool :=
  match u.line with
  | [] => true
  | f :: _ => f.levels.getD u.bits true

/-- DRIVE_FRAME_END (R204): the frame on the line has been sent, and the next one starts. -/
def execDriveFrameEnd (a : Arm) (s : State) : Host.Outcome State Fault Refusal :=
  .next (s.modAxes a fun u => { u with line := u.line.tail, bits := 0 })

end Sys2Proof.Machine
end

