-- ==== Sys2Proof/Machine/Probes.lean ====
section
/-! DEFINITION. The probe table unit: the editing of the table, qualification, the guards, the pocket watch, and the
ends of identity reads (chapter 7). -/
namespace Sys2Proof.Machine

/-! ### Qualification -/

/-- The head group of an arm in a snapshot. -/
def Snapshot.headOf (t : Snapshot) (a : Arm) : Group := t.groups.head.get a

/-- The qualification status of an entry judged against a head temperature (R137). -/
def statusOf (limit : Nat) (head : Int) (q : Option Qualification) : QualStatus :=
  match q with
  | none => .unqualified
  | some q => if (head - q.temperature).natAbs ≤ limit then .qualified else .stale

/-- The status of a record for an arm, from the current snapshot (R137). -/
def State.qualStatus (s : State) (a : Arm) (p : Probe) : QualStatus :=
  statusOf s.settings.qualLimit (s.snapshot.headOf a).temp (p.qual.get a)

/-- The generation after an entry (R134). -/
def nextGeneration (q : Option Qualification) : Nat :=
  match q with
  | none => 1
  | some q => if q.generation = 65535 then 1 else q.generation + 1

/-- The entry a QUALIFY writes (R134). -/
def State.newEntry (s : State) (a : Arm) (old : Option Qualification) (e : QualifyEntry) : Qualification where
  offset := e.offset
  radius := e.radius
  temperature := (s.snapshot.headOf a).temp
  generation := nextGeneration old
  headStale := (s.snapshot.headOf a).stale

/-- The owner of QUALIFY (R134). -/
def qualify (l : Link) (e : QualifyEntry) (s : State) : State :=
  if s.saving then s.respond l .saveInProgress
  else
    match index? 32 e.slot, e.arm with
    | some n, some a =>
      match s.probes.get n with
      | none => s.respond l (if l.arm?.isSome then .noProbe else .notFound)
      | some p =>
        s.checked l
          [(l.arm?.isSome && decide (p.place ≠ .mounted a), .noProbe),
           (l.arm?.isSome && (p.guarded || p.locked), .guarded)] fun s =>
          let q := s.newEntry a (p.qual.get a) e
          (s.setProbe n (some { p with qual := p.qual.set a (some q) })).respond l .ok (.generation q.generation)
    | _, _ => s.respond l .badArgument

/-- QUALIFY (R134). -/
def execQualify (l : Link) (e : QualifyEntry) (s : State) : Host.Outcome State Fault Refusal :=
  .next (serve l (.qualify l e) (qualify l e) s)

/-! ### Editing the table -/

/-- The lowest FREE slot (R130). -/
def State.freeSlot (s : State) : Option Slot := allSlots.find? fun n => (s.probes.get n).isNone

/-- A new record (R125, R130). -/
def newRecord (e : RegisterEntry) (pl : Place) : Probe where
  place := pl
  identity := e.identity
  home := e.home.bind (index? 12)
  reach := e.reach
  tau := e.tau
  qual := .both none
  mountCount := 0
  corrupt := false
  guarded := false
  locked := false

/-- A pocket registration's effect (R130). -/
def State.registerAt (s : State) (n : Slot) (p : PocketId) (e : RegisterEntry) : State :=
  (s.setProbe n (some (newRecord e (.stored p)))).modPocket p fun k => { k with state := .occupied n, unexpected := false }

/-- The owner of REGISTER PROBE (R130). With an arm location the link stays PENDING for the identity read. -/
def registerProbe (l : Link) (e : RegisterEntry) (s : State) : State :=
  s.checked l
    [(s.saving, .saveInProgress), (s.inventoryRuns, .wrongState), (badRegister e, .badArgument),
     ((s.matching e.identity).isSome, .inUse), (s.freeSlot.isNone, .queueFull)] fun s =>
    match e.place with
    | .pocket k =>
      match index? 12 k, s.freeSlot with
      | some p, some n =>
        s.checked l
          [(decide ((s.pockets.get p).state ≠ .empty), .inUse), (!(s.pockets.get p).level, .noProbe)] fun s =>
          (s.registerAt n p e).respond l .ok (.slot n)
      | _, _ => s.respond l .badArgument
    | .arm (some a) =>
      s.checked l [((s.mountedOn a).isSome, .inUse), ((s.change.get a).isSome, .wrongState)] fun s =>
        (s.askRead a .register).await l (.register e a)
    | _ => s.respond l .badArgument

/-- REGISTER_PROBE (R130). -/
def execRegisterProbe (l : Link) (e : RegisterEntry) (s : State) : Host.Outcome State Fault Refusal :=
  .next (serve l (.registerProbe l e) (registerProbe l e) s)

/-- Whether a read answers with an identity that matches (R130). -/
def State.answers (s : State) (r : ReadResult) (identity : Nat) : Bool :=
  match r with
  | .present c => idMatch s.settings.matchMode identity c
  | _ => false

/-- The completion of a registration on an arm: checks 2, 3 and 5 again, then the read (R130). -/
def registerDone (l : Link) (e : RegisterEntry) (a : Arm) (r : ReadResult) (s : State) : Eff :=
  let checks : List (Bool × Code) :=
    [((s.matching e.identity).isSome, .inUse), (s.freeSlot.isNone, .queueFull), ((s.mountedOn a).isSome, .inUse),
     ((s.change.get a).isSome, .wrongState), (!s.answers r e.identity, .noProbe)]
  match firstFailure checks, s.freeSlot with
  | none, some n =>
    let s1 := ((s.setProbe n (some (newRecord e (.mounted a)))).setUnknown a false).respond l .ok (.slot n)
    (s1, remount s s1)
  | some c, _ => (s.respond l c, [])
  | none, none => (s.respond l .queueFull, [])

/-- The owner of WRITE PROBE (R131). A MOUNTED record's reach may change its arm's. -/
def writeProbe (l : Link) (e : ProbeEntry) (s : State) : State :=
  s.checked l [(s.saving, .saveInProgress), (badProbeFields e.reach e.tau e.home, .badArgument)] fun s =>
    match index? 32 e.slot with
    | none => s.respond l .badArgument
    | some n =>
      match s.probes.get n with
      | none => s.respond l .notFound
      | some p =>
        match p.place with
        | .inTransit _ => s.respond l .wrongState
        | _ =>
          let s1 := s.setProbe n (some { p with reach := e.reach, tau := e.tau, home := e.home.bind (index? 12) })
          settle (s1.respond l .ok, remount s s1)

/-- WRITE_PROBE (R131). -/
def execWriteProbe (l : Link) (e : ProbeEntry) (s : State) : Host.Outcome State Fault Refusal :=
  .next (serve l (.writeProbe l e) (writeProbe l e) s)

/-- A request that names a slot: BAD_ARGUMENT above 31, NOT_FOUND for a FREE slot. -/
def State.onRecord (s : State) (l : Link) (slot : Nat) (f : Slot → Probe → State) : State :=
  match index? 32 slot with
  | none => s.respond l .badArgument
  | some n =>
    match s.probes.get n with
    | none => s.respond l .notFound
    | some p => f n p

/-- The effect of an accepted retirement (R132). A presence drop taken after it finds UNEXPECTED set and clears it with
POCKET_CHANGED (log 45). -/
def State.retire (s : State) (n : Slot) (p : Probe) : State :=
  match p.place with
  | .stored k => (s.setProbe n none).vacate k
  | _ => s.setProbe n none

/-- Whether a record may be retired by its place (R132). -/
def Place.retirable : Place → Bool
  | .stored _ => true
  | .lost => true
  | _ => false

/-- The owner of RETIRE PROBE (R132). -/
def retireProbe (l : Link) (slot : Nat) (s : State) : State :=
  s.checked l [(s.saving, .saveInProgress), (s.inventoryRuns, .wrongState)] fun s =>
    s.onRecord l slot fun n p =>
      s.checked l [(p.guarded, .guarded), (!p.place.retirable, .wrongState)] fun s => (s.retire n p).respond l .ok

/-- RETIRE_PROBE (R132). -/
def execRetireProbe (l : Link) (slot : Nat) (s : State) : Host.Outcome State Fault Refusal :=
  .next (serve l (.retireProbe l slot) (retireProbe l slot) s)

/-- The owner of WRITE POCKET (R133). -/
def writePocket (l : Link) (pocket : Nat) (use : Option PocketUse) (s : State) : State :=
  s.checked l [(s.saving, .saveInProgress), (s.inventoryRuns, .wrongState)] fun s =>
    match index? 12 pocket, use with
    | some p, some u =>
      match (s.pockets.get p).state, u with
      | .empty, .disabled =>
        (s.modPocket p fun k => { k with state := .disabled, unexpected := false }).respond l .ok
      | .empty, .enabled => s.respond l .ok
      | .disabled, .disabled => s.respond l .ok
      | .disabled, .enabled => (s.vacate p).respond l .ok
      | .occupied _, _ => s.respond l .inUse
      | .reserved, _ => s.respond l .inUse
    | _, _ => s.respond l .badArgument

/-- WRITE_POCKET (R133). -/
def execWritePocket (l : Link) (pocket : Nat) (use : Option PocketUse) (s : State) :
    Host.Outcome State Fault Refusal :=
  .next (serve l (.writePocket l pocket use) (writePocket l pocket use) s)

/-! ### Guards -/

/-- The owner of SET PROTECTION (R135). -/
def setProtection (l : Link) (slot : Nat) (v : Bool) (s : State) : State :=
  s.checked l [(s.saving, .saveInProgress)] fun s =>
    s.onRecord l slot fun n p =>
      s.checked l [(s.freeze, .frozen)] fun s => (s.setProbe n (some { p with guarded := v })).respond l .ok

/-- SET_PROTECTION (R135). -/
def execSetProtection (l : Link) (slot : Nat) (v : Bool) (s : State) : Host.Outcome State Fault Refusal :=
  .next (serve l (.setProtection l slot v) (setProtection l slot v) s)

/-- The owner of FREEZE PROTECTION (R135). -/
def freezeProtection (l : Link) (s : State) : State := { s with freeze := true }.respond l .ok

/-- FREEZE_PROTECTION (R135). -/
def execFreezeProtection (l : Link) (s : State) : Host.Outcome State Fault Refusal :=
  .next (serve l (.freezeProtection l) (freezeProtection l) s)

/-- A LOCKED flag set or cleared (R136). -/
def setLock (l : Link) (slot : Nat) (v : Bool) (s : State) : State :=
  s.onRecord l slot fun n p => (s.setProbe n (some { p with locked := v })).respond l .ok

/-- LOCK_PROBE (R136). -/
def execLockProbe (l : Link) (slot : Nat) (s : State) : Host.Outcome State Fault Refusal :=
  .next (serve l (.lockProbe l slot) (setLock l slot true) s)

/-- UNLOCK_PROBE (R136). -/
def execUnlockProbe (l : Link) (slot : Nat) (s : State) : Host.Outcome State Fault Refusal :=
  .next (serve l (.unlockProbe l slot) (setLock l slot false) s)

/-! ### Inventory and reads -/

/-- The owner of INVENTORY (R140). -/
def inventoryAsked (l : Link) (s : State) : State :=
  s.checked l [(s.anyContext, .wrongState)] fun s => settle (askInventory (s.respond l .ok))

/-- INVENTORY (R140). -/
def execInventory (l : Link) (s : State) : Host.Outcome State Fault Refusal :=
  .next (serve l (.inventory l) (inventoryAsked l) s)

/-- The owner of VERIFY PROBE: the read is asked and the link stays PENDING (R129). -/
def verifyProbe (l : Link) (a : Arm) (s : State) : State := (s.askRead a .verify).await l .verify

/-- VERIFY_PROBE (R129). -/
def execVerifyProbe (l : Link) (s : State) : Host.Outcome State Fault Refusal :=
  .next (serve l (.verifyProbe l) (ownArm l (verifyProbe l)) s)

/-- The payload of a VERIFY PROBE response (R129). -/
def State.verified (s : State) (a : Arm) (r : ReadResult) : Payload :=
  .verify r (match r with
    | .present c => s.matching c
    | _ => none) (s.mount a)

/-- The end of a VERIFY PROBE, for a link that still waits for it (R129, R190). -/
def verifyDone (a : Arm) (r : ReadResult) (s : State) : Eff :=
  if (s.links.get a.link).work = some .verify then (s.respond a.link .ok (s.verified a r), []) else (s, [])

/-- The end of a registration, for the link S that waits for it (R130). -/
def registered (a : Arm) (r : ReadResult) (s : State) : Eff :=
  match s.links.s.work with
  | some (.register e b) => if b = a then registerDone .S e a r s else (s, [])
  | _ => (s, [])

/-- The result of a read given to one of its askers (R128). -/
def deliver (a : Arm) (r : ReadResult) (k : Asker) (s : State) : Eff :=
  match k with
  | .verify => verifyDone a r s
  | .register => registered a r s
  | .inventory => inventoryRead a r s
  | .drop => dropRead a r s
  | .pick => pickRead a r s

/-- A read ends: its result goes to each of its askers, in the order in which they joined (log 23), then the pending
read starts (R128). -/
def readEnds (a : Arm) (ans : PridAnswer) (s : State) : State :=
  match (s.readers.get a).inFlight with
  | none => s
  | some ks => (ks.foldl (fun t k => settle (deliver a (readResult ans) k t)) s).modReader a Reader.next

/-- IDENTITY_READ_COMPLETE (R128). With no read in flight nothing ends (log 3). -/
def execIdentityReadComplete (a : Arm) (ans : PridAnswer) (s : State) : Host.Outcome State Fault Refusal :=
  .next (readEnds a ans s)

/-! ### The pocket watch -/

/-- The report of a probe lost from its pocket (R139). -/
def State.lostReport (s : State) : FaultReport :=
  { kind := .probeLost, arm := none, tag := none, coords := none, epoch := s.snapshot.epoch }

/-- The pocket watch acts on a change of level, already recorded (R139). -/
def watch (p : PocketId) (level : Bool) (s : State) : Eff :=
  let k := s.pockets.get p
  match k.state with
  | .occupied n =>
    if level then (s, []) else (((s.place n .lost).raise .S .pocketChanged).report s.lostReport, [])
  | .empty =>
    if k.unexpected = level then (s, [])
    else ((s.modPocket p fun k => { k with unexpected := level }).raise .S .pocketChanged, [])
  | .reserved =>
    match s.reserver p with
    | some (a, c) => reservedChange a c p level s
    | none => (s, [])
  | .disabled => (s, [])

/-- A change of a presence level: recorded, and acted on when the part is READY (R139). -/
def pocketLevel (p : PocketId) (level : Bool) (s : State) : Eff :=
  if (s.pockets.get p).level = level then (s, [])
  else
    let s1 := s.modPocket p fun k => { k with level := level }
    if s.ready then watch p level s1 else (s1, [])

/-- POCKET_CHANGE (R139). -/
def execPocketChange (p : PocketId) (level : Bool) (s : State) : Host.Outcome State Fault Refusal :=
  .next (settle (pocketLevel p level s))

end Sys2Proof.Machine
end

