-- ==== Sys2Proof/Machine/Capture.lean ====
section
/-! DEFINITION. The capture unit: trigger edges, the latch, the point computation, the point queue and READ POINTS
(chapter 9). -/
namespace Sys2Proof.Machine

/-! ### The latch -/

/-- The probe data of a latch (R170). -/
def State.latchProbe (s : State) (a : Arm) : Option LatchProbe :=
  match s.mount a with
  | .record n => (s.probes.get n).map fun p => { tau := p.tau, entry := p.qual.get a, status := s.qualStatus a p }
  | _ => none

/-- The latch taken at an edge (R170). -/
def State.takeLatch (s : State) (a : Arm) (k : PointKind) : Latch where
  kind := k
  counts := (s.axes.get a).counts
  v := match (s.motion.get a).active with
    | some w => w.v
    | none => 0
  path := (s.motion.get a).active.map fun w => { tag := w.seg.tag, d := w.d, len := w.len }
  snapshot := s.snapshot
  cal := (s.cal.get a).axis
  calFault := s.loadFaults.calibration
  mount := s.mount a
  probe := s.latchProbe a
  n := (s.timers.get a).n
  d := (s.timers.get a).d

/-! ### The point computation -/

/-- The qualification entry a latch uses (R172). -/
def Latch.entry (t : Latch) : Option Qualification := t.probe.bind (·.entry)

/-- The tip centre b, stages 1 and 2 (R172). -/
def Latch.tip (t : Latch) (a : Arm) : Vec3 :=
  .of fun i =>
    (forwardExact t.cal t.snapshot a t.counts).get i + ((t.entry.map fun q => q.offset.get i).getD 0)

/-- The lag of the trigger delay (R173). -/
def Latch.lag (t : Latch) : Int := roundDiv ((t.v * (t.probe.map (·.tau)).getD 0 * t.d : Nat) : Int) t.n

/-- The surface point a, stage 3 (R173). -/
def Latch.surface (t : Latch) (a : Arm) : Vec3 :=
  match t.kind, t.path with
  | .touch, some p =>
    let k := (((t.entry.map (·.radius)).getD 0 : Nat) : Int) - t.lag
    .of fun i => (t.tip a).get i + roundDiv (k * p.d.get i) p.len
  | _, _ => t.tip a

/-- The point before its clamp, stage 4 (R174). -/
def Latch.scaledPoint (t : Latch) (a : Arm) : Vec3 :=
  let w := t.snapshot.workpiece
  .of fun i =>
    let x := (t.surface a).get i
    x - roundDiv ((x - w.w0.get i) * w.alpha * t.snapshot.wpTemp) 1000000000000

/-- Whether a group the computation used is STALE (R176). -/
def Latch.thermStale (t : Latch) (a : Arm) : Bool :=
  let g := t.snapshot.groups
  (g.scale.get a).any (·.stale) || (t.entry.isSome && (g.head.get a).stale)
    || (decide (t.snapshot.source = .held) && (g.workpiece.stale || g.air.stale))

/-- The flags of the point record (R176). -/
def Latch.flags (t : Latch) (a : Arm) : PointFlags where
  unqualified := match t.mount with
    | .record _ => t.entry.isNone
    | .unknown => true
    | .none => false
  qualStale := t.probe.any fun p => decide (p.status = .stale)
  thermStale := t.thermStale a
  wpFromAir := decide (t.snapshot.source = .air)
  wpHeld := decide (t.snapshot.source = .held)
  gradient := t.snapshot.gradientFlag
  noDirection := decide (t.kind = .contact)
  clamped := (t.scaledPoint a).any out32
  uncalibrated := t.calFault
  noProbe := decide (t.mount = .none)

/-- The point record computed from a latch (R172 to R176). -/
def Latch.point (t : Latch) (a : Arm) (seq : Nat) : Point where
  seq := seq
  kind := t.kind
  tag := t.path.map (·.tag)
  probe := match t.mount with
    | .record n => some n
    | _ => none
  generation := t.entry.map (·.generation)
  epoch := t.snapshot.epoch
  q := (t.scaledPoint a).map clamp32
  flags := t.flags a

/-! ### Edges -/

/-- The capture unit after a latch: the sequence number raised, and the record at the tail where there is room; a CONTACT
record without room is discarded (R177, R178, R182). A TOUCH record always finds room in a state a run reaches. -/
def Capture.take (c : Capture) (t : Latch) (p : Point) : Capture :=
  let c1 := { c with latch := some t, seq := p.seq }
  if c.points.length < 32 then { c1 with points := c.points ++ [p] }
  else match t.kind with
    | .contact => { c1 with notQueued := true }
    | .touch => c1

/-- The next sequence number of an arm (R177). -/
def State.nextSeq (s : State) (a : Arm) : Nat := ((s.capture.get a).seq + 1) % 65536

/-- The latch and the point of an edge, taken together (R171). -/
def State.capturePoint (s : State) (a : Arm) (k : PointKind) : State × Point :=
  let t := s.takeLatch a k
  let p := t.point a (s.nextSeq a)
  (s.modCapture a fun c => c.take t p, p)

/-- An edge classified TOUCH (R181). -/
def touchEdge (a : Arm) (s : State) : State :=
  (settle (touchStop a (s.capturePoint a .touch).1)).raise a.link .touch

/-- An edge classified CONTACT (R182). -/
def contactEdge (a : Arm) (s : State) : State :=
  let r := s.capturePoint a .contact
  let f : FaultReport :=
    { kind := .contact, arm := some a, tag := r.2.tag, coords := some r.2.q, epoch := r.2.epoch }
  (settle (contactStop a (r.1.report f))).raise a.link .contact

/-- A rising edge of TRIG, acted on in the class the arming state gives (R167, R168). With the level active already there
is no edge. -/
def triggerEdge (a : Arm) (s : State) : State :=
  if (s.capture.get a).trig then s
  else
    let s1 := s.modCapture a fun c => { c with trig := true }
    match s.arming a with
    | .touch => touchEdge a s1
    | .contact => contactEdge a s1
    | .masked => s1
    | .ignored => s1

/-- TRIGGER_EDGE (R168). -/
def execTriggerEdge (a : Arm) (s : State) : Host.Outcome State Fault Refusal := .next (triggerEdge a s)

/-- TRIGGER_RELEASE (R167). -/
def execTriggerRelease (a : Arm) (s : State) : Host.Outcome State Fault Refusal :=
  .next (s.modCapture a fun c => { c with trig := false })

/-! ### READ POINTS -/

/-- The free-space report (R179, R78). -/
def freeSpace (a : Arm) (n : Nat) (s : State) : Eff :=
  (s, if 1 ≤ n && decide ((s.motion.get a).phase = .waiting .points) then [.evaluate a] else [])

/-- The owner of READ POINTS (R179). -/
def readPoints (l : Link) (a : Arm) (s : State) : State :=
  let c := s.capture.get a
  let taken := c.points.take 6
  let left := c.points.drop 6
  let s1 := s.modCapture a fun c => { c with points := left, notQueued := false }
  settle (freeSpace a taken.length (s1.respond l .ok (.points c.notQueued left.length taken)))

/-- READ_POINTS (R179). -/
def execReadPoints (l : Link) (s : State) : Host.Outcome State Fault Refusal :=
  .next (serve l (.readPoints l) (ownArm l (readPoints l)) s)

end Sys2Proof.Machine
end

