-- ==== Sys2Proof/Machine/ChangeRequests.lean ====
section
/-! DEFINITION. The commands and events of the change sequencer: REQUEST CHANGE, CHANGE DONE, ABORT CHANGE, CLEAR RACK
FAULT, the rack sensors and the sequencer's timers (chapter 8). -/
namespace Sys2Proof.Machine

/-! ### REQUEST CHANGE -/

/-- The drop pocket of a request: the one given, or the home pocket of the mounted record (R147). -/
def State.dropPocket (s : State) (a : Arm) (e : ChangeEntry) : Option PocketId :=
  match e.dropPocket with
  | some p => index? 12 p
  | none =>
    match s.mount a with
    | .record n => (s.probes.get n).bind (·.home)
    | _ => none

/-- The STORED record a take names, with its pocket (R147). -/
def State.takeOf (s : State) (e : ChangeEntry) : Option (PocketId × Slot) :=
  (index? 32 e.takeSlot).bind fun n =>
    match s.probes.get n with
    | some p =>
      match p.place with
      | .stored k => some (k, n)
      | _ => none
    | none => none

/-- Check 4 of R147. -/
def State.badChange (s : State) (a : Arm) (e : ChangeEntry) : Bool :=
  (!e.drop && !e.take)
    || e.dropPocket.any (fun p => decide (11 < p))
    || decide (31 < e.takeSlot)
    || (e.drop && decide (s.mount a = .none))
    || (e.drop && e.dropPocket.isNone && (s.dropPocket a e).isNone)
    || (e.take && !e.drop && decide (s.mount a ≠ .none))

/-- Whether a pocket can be a drop pocket (R147 check 5). -/
def Pocket.open? (p : Pocket) : Bool := decide (p.state = .empty) && !p.unexpected && !p.level

/-- Check 5 of R147. -/
def State.changeInUse (s : State) (a : Arm) (e : ChangeEntry) : Bool :=
  (e.drop && (s.dropPocket a e).any fun p => !(s.pockets.get p).open?) || (e.take && (s.takeOf e).isNone)

/-- The module a drop takes off the arm (R148). -/
def State.droppedOf (s : State) (a : Arm) : Dropped :=
  match s.mount a with
  | .record n => .slot n
  | _ => .unknown

/-- The reach of a module (R106); an UNKNOWN one counts the largest reach a record may carry. -/
def State.moduleReach (s : State) : Dropped → Nat
  | .slot n => s.slotReach n
  | .unknown => maxReach

/-- The context of an accepted request (R145, R148). -/
def State.newContext (s : State) (a : Arm) (e : ChangeEntry) : Context where
  drop := if e.drop then (s.dropPocket a e).map fun p => (p, s.droppedOf a) else none
  take := if e.take then s.takeOf e else none
  dropReach := s.moduleReach (s.droppedOf a)
  takeReach := ((s.takeOf e).map fun x => s.slotReach x.2).getD 0
  step := .waitRack
  dropConfirmed := false
  pickConfirmed := false
  failure := none
  closing := none

/-- A pocket becomes RESERVED (R148). -/
def State.reserve (s : State) (p : PocketId) : State := s.modPocket p fun k => { k with state := .reserved }

/-- The context stands, its pockets RESERVED and its records IN_TRANSIT (R148 steps 1 to 3). -/
def State.startChange (s : State) (a : Arm) (c : Context) : State :=
  let s1 := match c.drop with
    | some (p, .slot n) => (s.reserve p).place n (.inTransit a)
    | some (p, .unknown) => s.reserve p
    | none => s
  let s2 := match c.take with
    | some (p, n) => (s1.reserve p).place n (.inTransit a)
    | none => s1
  { s2.setContext a (some c) with lastChange := s2.lastChange.set a none }

/-- The owner of REQUEST CHANGE (R147, R148). -/
def requestChange (l : Link) (e : ChangeEntry) (a : Arm) (s : State) : State :=
  let m := s.motion.get a
  s.checked l
    [(decide (m.phase ≠ .idle) || !m.queue.isEmpty || (s.change.get a).isSome || s.inventoryRuns, .wrongState),
     (s.rackZone.isNone, .noRack),
     (s.rack.fault, .rackFault),
     (s.badChange a e, .badArgument),
     (s.changeInUse a e, .inUse)] fun s =>
    settle ((s.startChange a (s.newContext a e)).respond l .ok, [.requestRack a])

/-- REQUEST_CHANGE (R147). -/
def execRequestChange (l : Link) (e : ChangeEntry) (s : State) : Host.Outcome State Fault Refusal :=
  .next (serve l (.requestChange l e) (ownArm l (requestChange l e)) s)

/-! ### CHANGE DONE and ABORT CHANGE -/

/-- The box test refuses: the standing box, or the end box of the active segment, meets the RACK zone (R156). -/
def State.inRack (s : State) (a : Arm) : Bool :=
  s.meetsRack (s.standingBox a)
    || (s.motion.get a).active.any fun w => w.geometry.any fun g => s.meetsRack (expand g.finish (s.reach a))

/-- Whether every drop and pick a context asks is confirmed (R156). -/
def Context.confirmed (c : Context) : Bool :=
  (c.drop.isNone || c.dropConfirmed) && (c.take.isNone || c.pickConfirmed)

/-- Entry into CLOSING by a request (R156). -/
def closeBy (l : Link) (a : Arm) (o : ChangeOutcome) (s : State) : State := settle (enterClosing a o (s.respond l .ok))

/-- The owner of CHANGE DONE (R156). -/
def changeDone (l : Link) (a : Arm) (s : State) : State :=
  match s.change.get a with
  | none => s.respond l .wrongState
  | some c =>
    match c.step with
    | .awaitDrop =>
      s.checked l [(s.inRack a, .wrongState), (!c.confirmed, .wrongState)] (closeBy l a .done)
    | .awaitPick =>
      s.checked l [(s.inRack a, .wrongState), (!c.confirmed, .wrongState)] (closeBy l a .done)
    | _ => s.respond l .wrongState

/-- CHANGE_DONE (R156). -/
def execChangeDone (l : Link) (s : State) : Host.Outcome State Fault Refusal :=
  .next (serve l (.changeDone l) (ownArm l (changeDone l)) s)

/-- The owner of ABORT CHANGE (R156, R157). -/
def abortChange (l : Link) (a : Arm) (s : State) : State :=
  match s.change.get a with
  | none => s.respond l .wrongState
  | some c =>
    match c.step with
    | .waitRack => settle (endChange a .aborted (s.respond l .ok))
    | .opening => settle (endChange a .aborted (s.respond l .ok))
    | .awaitDrop => s.checked l [(s.inRack a, .wrongState)] (closeBy l a .aborted)
    | .awaitPick => s.checked l [(s.inRack a, .wrongState)] (closeBy l a .aborted)
    | .failedOpen =>
      s.checked l [(s.inRack a, .wrongState)] (closeBy l a (.failed (c.failure.getD .arm)))
    | .closing => s.respond l .wrongState

/-- ABORT_CHANGE (R156). -/
def execAbortChange (l : Link) (x : Option (Option Arm)) (s : State) : Host.Outcome State Fault Refusal :=
  .next (serve l (.abortChange l x) (namedArm l x (abortChange l)) s)

/-! ### The rack -/

/-- The owner of CLEAR RACK FAULT (R161). -/
def clearRackFault (l : Link) (s : State) : State :=
  s.checked l [(s.rack.opened && s.rack.closed, .wrongState)] fun s =>
    (s.modRack fun r => { r with fault := false }).respond l .ok

/-- CLEAR_RACK_FAULT (R161). -/
def execClearRackFault (l : Link) (s : State) : Host.Outcome State Fault Refusal :=
  .next (serve l (.clearRackFault l) (clearRackFault l) s)

/-- RACK_OPEN_CHANGE (R150, R161). -/
def execRackOpenChange (level : Bool) (s : State) : Host.Outcome State Fault Refusal :=
  .next (settle (rackLevels level s.rack.closed s))

/-- RACK_CLOSED_CHANGE (R158, R161). -/
def execRackClosedChange (level : Bool) (s : State) : Host.Outcome State Fault Refusal :=
  .next (settle (rackLevels s.rack.opened level s))

/-- STEP_TIMER_EXPIRY (R159). -/
def execStepTimerExpiry (s : State) : Host.Outcome State Fault Refusal := .next (settle (stepTimeout s))

/-- RACK_TIMER_EXPIRY (R160). -/
def execRackTimerExpiry (s : State) : Host.Outcome State Fault Refusal := .next (settle (rackTimeout s))

/-- DROP_READ_REPEAT (R151). -/
def execDropReadRepeat (s : State) : Host.Outcome State Fault Refusal := .next (dropRepeat s)

end Sys2Proof.Machine
end

