-- ==== Sys2Proof/Machine/Frames.lean ====
section
/-! DEFINITION. Request frames as bytes: the command codes and payload lengths (R193), the payload fields (R203), and
the judgement of a frame at the end of its write period (R187, R191). -/
namespace Sys2Proof.Machine

/-- Fields of one byte whose values the spec does not give (log 6). -/
def armAt (p : List Byte) (i : Nat) : Option Arm := Config.armCode (u8At p i)

def flagAt (p : List Byte) (i : Nat) : Bool := Config.flagSet (u8At p i)

/-- An optional field: its given flag, then its byte (R203). -/
def givenAt (p : List Byte) (i : Nat) : Option Nat := if flagAt p i then some (u8At p (i + 1)) else none

/-- A segment entry of 29 bytes (R203). -/
def segEntryAt (p : List Byte) (i : Nat) : SegEntry where
  tag := uAt p i 2
  kind := Config.segKindCode (u8At p (i + 2))
  target := vAt p (i + 3)
  feed := uAt p (i + 15) 4
  overtravel := uAt p (i + 19) 4
  axis := Config.axisCode (u8At p (i + 23))
  direction := Config.directionCode (u8At p (i + 24))
  search := uAt p (i + 25) 4

/-- The segment entries of a POST or REPLACE payload. -/
def segEntries (p : List Byte) : List SegEntry :=
  (List.range (p.length / 29)).map fun k => segEntryAt p (29 * k)

/-- One axis of a WRITE CALIBRATION payload, 19 bytes (R203). -/
def axisCalAt (p : List Byte) (i : Nat) : AxisCal where
  sign := sAt p i 1
  base := sAt p (i + 1) 4
  reference := sAt p (i + 5) 4
  alpha := uAt p (i + 9) 2
  softMin := sAt p (i + 11) 4
  softMax := sAt p (i + 15) 4

/-- A WRITE CALIBRATION payload less its arm byte (R203). -/
def calibrationAt (p : List Byte) : Calibration where
  axis := ⟨axisCalAt p 1, axisCalAt p 20, axisCalAt p 39⟩
  vMax := uAt p 58 4
  a := uAt p 62 2
  aStop := uAt p 64 2
  followingLimit := uAt p 66 4
  envelope := uAt p 70 4

/-- A WRITE ZONE payload less its zone byte: kind, then minimum and maximum of X, Y and Z (R203), axis by axis (log 47). -/
def zoneAt (p : List Byte) : ZoneEntry where
  kind := Config.zoneKindCode (u8At p 1)
  box := ⟨⟨sAt p 2 4, sAt p 10 4, sAt p 18 4⟩, ⟨sAt p 6 4, sAt p 14 4, sAt p 22 4⟩⟩
  k := u8At p 26

/-- A WRITE CHANNEL payload less its channel byte (R203). -/
def channelAt (p : List Byte) : ChannelEntry where
  role := Config.roleCode (u8At p 1)
  gain := uAt p 2 2
  offset := sAt p 4 2
  shift := u8At p 6
  low := uAt p 7 2
  high := uAt p 9 2
  persistence := u8At p 11

/-- Each kind of a list with a bit of its own, taken out of the free ones by the implementation's choice (log 6). -/
def placeBits : List Nat → List Notice → List (Notice × Nat)
  | _, [] => []
  | free, k :: ks =>
    let b := free.getD (Config.noticeChoice k % free.length) 0
    (k, b) :: placeBits (free.erase b) ks

/-- The bit of a mask field of four bytes that stands for a kind: one bit for each kind, below 32 (R203; log 6). -/
def noticeBit (k : Notice) : Nat := ((placeBits (List.range 32) allNotices).lookup k).getD 0

/-- The kinds of a notice mask field of four bytes: those whose bit is set. -/
def maskAt (p : List Byte) (i : Nat) : List Notice :=
  allNotices.filter fun k => (uAt p i 4).testBit (noticeBit k)

/-- A WRITE SETTINGS payload (R203). -/
def settingsAt (p : List Byte) : SettingsEntry where
  matchMode := Config.matchModeCode (u8At p 0)
  startLocked := Config.switchCode (u8At p 1)
  linger := uAt p 2 2
  stepTimeout := uAt p 4 2
  rackTimeout := uAt p 6 2
  qualLimit := uAt p 8 2
  maskA := maskAt p 10
  maskB := maskAt p 14
  maskS := maskAt p 18

/-- A REGISTER PROBE payload (R203). -/
def registerAt (p : List Byte) : RegisterEntry where
  identity := uAt p 0 4
  reach := uAt p 4 4
  tau := uAt p 8 2
  home := givenAt p 10
  place := match Config.placeKindCode (u8At p 12) with
    | some true => .pocket (u8At p 13)
    | some false => .arm (armAt p 13)
    | none => .neither

/-- A WRITE PROBE payload (R203). -/
def probeAt (p : List Byte) : ProbeEntry where
  slot := u8At p 0
  reach := uAt p 1 4
  tau := uAt p 5 2
  home := givenAt p 7

/-- A REQUEST CHANGE payload (R203). -/
def changeAt (p : List Byte) : ChangeEntry where
  drop := flagAt p 0
  dropPocket := givenAt p 1
  take := flagAt p 3
  takeSlot := u8At p 4

/-- A QUALIFY payload (R203). -/
def qualifyAt (p : List Byte) : QualifyEntry where
  slot := u8At p 0
  arm := armAt p 1
  offset := vAt p 2
  radius := uAt p 14 2

/-- The arm operand of HALT, ABORT CHANGE and ARM RESET. -/
def armOperand (p : List Byte) : Option (Option Arm) := if p.isEmpty then none else some (armAt p 0)

/-- The command of an assigned code with its payload (R193, R203); none for a code the table does not assign. -/
def decodeRequest (l : Link) (code : Nat) (p : List Byte) : Option Instr :=
  match code with
  | 0x10 => some (.enable l)
  | 0x11 => some (.disable l)
  | 0x12 => some (.post l (segEntries p))
  | 0x13 => some (.replace l (segEntries p))
  | 0x14 => some (.halt l (armOperand p))
  | 0x15 => some (.resume l)
  | 0x16 => some (.clear l)
  | 0x17 => some (.override l (u8At p 0))
  | 0x18 => some (.readPoints l)
  | 0x19 => some (.requestChange l (changeAt p))
  | 0x1A => some (.changeDone l)
  | 0x1B => some (.abortChange l (armOperand p))
  | 0x1C => some (.qualify l (qualifyAt p))
  | 0x1D => some (.verifyProbe l)
  | 0x1E => some (.armReset l (armOperand p))
  | 0x40 => some (.armStatus l (armAt p 0))
  | 0x41 => some (.readSnapshot l)
  | 0x42 => some (.readProbe l (u8At p 0))
  | 0x43 => some (.readPocket l (u8At p 0))
  | 0x44 => some (.readZone l (u8At p 0))
  | 0x45 => some (.readChannel l (u8At p 0))
  | 0x46 => some (.readCalibration l (armAt p 0))
  | 0x47 => some (.readTrap l)
  | 0x48 => some (.identify l)
  | 0x49 => some (.status l)
  | 0x60 => some (.writeCalibration l (armAt p 0) (calibrationAt p))
  | 0x61 => some (.writeWorkpiece l ⟨uAt p 0 2, vAt p 2, uAt p 14 2⟩)
  | 0x62 => some (.writeZone l (u8At p 0) (zoneAt p))
  | 0x63 => some (.writeChannel l (u8At p 0) (channelAt p))
  | 0x64 => some (.editScanList l (Config.scanModeCode (u8At p 0)) (uAt p 1 2) ((p.drop 3).map (·.toNat)))
  | 0x65 => some (.setScanInterval l (uAt p 0 2))
  | 0x66 => some (.setTimer l (armAt p 0) (uAt p 1 2) (u8At p 3))
  | 0x67 => let f := Config.syncFlags (u8At p 0); some (.setSync l f.1 f.2.1 f.2.2)
  | 0x68 => some (.writeSettings l (settingsAt p))
  | 0x69 => some (.registerProbe l (registerAt p))
  | 0x6A => some (.writeProbe l (probeAt p))
  | 0x6B => some (.retireProbe l (u8At p 0))
  | 0x6C => some (.setProtection l (u8At p 0) (flagAt p 1))
  | 0x6D => some (.freezeProtection l)
  | 0x6E => some (.lockProbe l (u8At p 0))
  | 0x6F => some (.unlockProbe l (u8At p 0))
  | 0x70 => some (.writePocket l (u8At p 0) (Config.pocketUseCode (u8At p 1)))
  | 0x71 => some (.inventory l)
  | 0x72 => some (.clearRackFault l)
  | 0x73 => some (.clearTrap l)
  | 0x74 => some (.save l)
  | 0x75 => some (.reload l)
  | _ => none

/-- Whether the table assigns a code (R193). -/
def assigned (code : Nat) : Bool := (decodeRequest .S code []).isSome

/-- Whether a payload length is one R193 gives for a code on a link. -/
def payloadLengthOk (l : Link) (code n : Nat) : Bool :=
  let armLink := l.arm?.isSome
  if code = 0x12 || code = 0x13 then decide (n = 29) || decide (n = 58) || decide (n = 87) || decide (n = 116)
  else if code = 0x14 || code = 0x1B || code = 0x1E then decide (n = if armLink then 0 else 1)
  else if code = 0x17 || code = 0x40 || (decide (0x42 ≤ code) && decide (code ≤ 0x46)) then decide (n = 1)
  else if code = 0x19 then decide (n = 5)
  else if code = 0x1C then decide (n = 16)
  else if code = 0x60 then decide (n = 74)
  else if code = 0x61 then decide (n = 16)
  else if code = 0x62 then decide (n = 27)
  else if code = 0x63 then decide (n = 12)
  else if code = 0x64 then decide (3 ≤ n) && decide (n ≤ 35)
  else if code = 0x65 then decide (n = 2)
  else if code = 0x66 then decide (n = 4)
  else if code = 0x67 then decide (n = 1)
  else if code = 0x68 then decide (n = 22)
  else if code = 0x69 then decide (n = 14)
  else if code = 0x6A then decide (n = 9)
  else if code = 0x6B || code = 0x6E || code = 0x6F then decide (n = 1)
  else if code = 0x6C || code = 0x70 then decide (n = 2)
  else decide (n = 0)

/-- Whether a frame is whole (R187). -/
def wholeFrame (bytes : List Byte) : Bool :=
  let n := u8At bytes 1
  decide (2 ≤ bytes.length) && decide (n ≤ 240) && decide (bytes.length = 2 + n)

/-- The link unit's three checks of a frame, in order (R187, R191); the command where it passes. -/
def frameCheck (l : Link) (bytes : List Byte) : Except Code Instr :=
  let code := u8At bytes 0
  match decodeRequest l code (bytes.drop 2) with
  | none => .error .badCommand
  | some c =>
    if !wholeFrame bytes || !payloadLengthOk l code (bytes.length - 2) then .error .badLength
    else if !permitted l c then .error .notPermitted
    else .ok c

/-- A write period that has ended (R186 to R191). One whose select ended before the first byte was complete carries no
request, and one whose first byte is 0x00 is no write period. -/
def writePeriodEnd (l : Link) (bytes : List Byte) (s : State) : State :=
  match bytes with
  | [] => s
  | b :: rest =>
    if b = 0#8 then s
    else
      let sent := stateByte (s.links.get l) :: rest.map fun _ => 0#8
      let s0 := s.modLink l fun x => { x with dataOut := sent }
      match frameCheck l bytes with
      | .error code => (s0.arrive l (some code)).1
      | .ok c =>
        let r := s0.arrive l none
        if r.2 then r.1.modLink l fun x => { x with buffer := bytes.take 242, request := some c } else r.1

end Sys2Proof.Machine
end

