-- ==== Sys2Proof/Machine/LinkRows.lean ====
section
/-! DEFINITION. The rows of the link unit: a write period, a request with an unassigned code, a read period (R186 to
R191), and the linger expiry of the zone arbiter (R116). -/
namespace Sys2Proof.Machine

/-- WRITE_PERIOD (R186 to R191). -/
def execWritePeriod (l : Link) (bytes : List Byte) (s : State) : Host.Outcome State Fault Refusal :=
  .next (writePeriodEnd l bytes s)

/-- A request whose code the table does not assign, under the link state (R191, R193). A code that is assigned, or 0x00,
makes no such request (log 32). -/
def unassigned (l : Link) (code : Byte) (s : State) : State :=
  if assigned code.toNat || code = 0#8 then s else (s.arrive l (some .badCommand)).1

/-- UNASSIGNED_COMMAND (R191, R193). -/
def execUnassignedCommand (l : Link) (code : Byte) (s : State) : Host.Outcome State Fault Refusal :=
  .next (unassigned l code s)

/-- READ_PERIOD (R186, R188). -/
def execReadPeriod (l : Link) (n : Nat) (s : State) : Host.Outcome State Fault Refusal :=
  .next (s.modLink l (LinkState.read n))

/-- A linger expiry: every lingering zone of the arm is released (R116). A timer that is stopped does not expire. -/
def lingerEnds (a : Arm) (s : State) : Eff :=
  match s.linger.get a with
  | none => (s, [])
  | some _ => ({ s with linger := s.linger.set a none }, [.release a (s.heldFor a .linger)])

/-- LINGER_EXPIRY (R116). -/
def execLingerExpiry (a : Arm) (s : State) : Host.Outcome State Fault Refusal := .next (settle (lingerEnds a s))

end Sys2Proof.Machine
end

