-- ==== Sys2Proof/Machine/Reads.lean ====
section
/-! DEFINITION. The read commands: each answers from the state as it stands and changes nothing but its link, and STATUS
the notice flags it returns (R99, R105, R138, R15, R21, R40, R197, R199, R213). -/
namespace Sys2Proof.Machine

/-! ### ARM STATUS -/

/-- The motion fields (R99). -/
def State.motionView (s : State) (a : Arm) : MotionView :=
  let m := s.motion.get a
  let waits : Bool := match m.phase with
    | .waiting _ => true
    | _ => false
  { phase := m.phase
    resetPending := m.resetPending
    queue := m.queue.zipIdx.map fun x => (x.1.tag, x.1.move.kind, waits && decide (x.2 = 0))
    active := m.active.map fun w =>
      { tag := w.seg.tag, kind := w.seg.move.kind, status := w.status, len := w.len, p := w.p, v := w.v,
        vFeed := w.vFeed, epoch := w.epoch }
    override := m.override
    resultCount := m.resultCount
    results := m.results }

/-- The position fields (R17). -/
def State.positionView (s : State) (a : Arm) : PositionView where
  position := s.position a
  referenced := (s.axes.get a).axis.map (·.referenced)
  error := (s.axes.get a).axis.map (·.error)
  clamped := (s.positionExact a).any out32
  epoch := s.snapshot.epoch
  scaleStale := (s.snapshot.groups.scale.get a).any (·.stale)

/-- The time base fields (R53). -/
def SetpointTimer.view (t : SetpointTimer) : TimerView :=
  { n := t.n, d := t.d, length := t.length, startAcc := t.startAcc, sync := t.sync }

/-- The axis unit fields (R70). -/
def State.axisView (s : State) (a : Arm) : AxisView :=
  let u := s.axes.get a
  { counts := u.counts
    lastSent := u.lastSent
    standing := u.standing
    den := u.den
    dflt := u.dflt
    frameCount := u.frameCount
    faultReason := match (s.motion.get a).phase with
      | .fault r => some r
      | _ => none }

/-- What is left of a running timer. -/
def timerLeft (t : Timer) : Nat := t.length - t.count

/-- The zone arbiter fields (R123). -/
def State.zoneView (s : State) (a : Arm) : ZoneView where
  reach := s.reach a
  held := allZones.filterMap fun z =>
    match s.holders.get z with
    | some (b, r) => if b = a then some (z, r) else none
    | none => none
  standing := s.standing.get a
  contested := (s.standing.get a).filter fun z => !s.holds a z
  waiter := (s.entry a).map fun w => (w.purpose, w.needed, decide (s.waiters.head? ≠ some w))
  handover := (s.handover.filter fun h => decide (h.holder = a)).map fun h => (h.zone, h.count, (s.zones.get h.zone).k)
  lingerLeft := (s.linger.get a).map timerLeft

/-- The step deadline of a context: what is left of the rack or step timer that runs for it (R145). -/
def State.deadline (s : State) (c : Context) : Option Nat :=
  if c.step = .waitRack then none
  else match s.rack.stepTimer with
    | some t => some (timerLeft t)
    | none => s.rack.rackTimer.map timerLeft

/-- The change sequencer fields (R165), with the status of the mounted record (R137). -/
def State.changeView (s : State) (a : Arm) : ChangeView where
  context := (s.change.get a).map fun c =>
    { drop := c.drop, take := c.take, step := c.step, dropConfirmed := c.dropConfirmed, pickConfirmed := c.pickConfirmed,
      deadline := s.deadline c, failure := c.failure, closing := c.closing }
  last := s.lastChange.get a
  rackFault := s.rack.fault
  req := s.rack.req
  opened := s.rack.opened
  closed := s.rack.closed
  qualification := match s.mount a with
    | .record n => (s.probes.get n).map (s.qualStatus a)
    | _ => none

/-- The capture unit fields (R184). -/
def State.captureView (s : State) (a : Arm) : CaptureView :=
  let c := s.capture.get a
  { trig := c.trig
    arming := s.arming a
    held := c.points.length
    free := 32 - c.points.length
    seq := c.seq
    notQueued := c.notQueued
    latch := c.latch.map fun t =>
      { kind := t.kind, counts := t.counts, v := t.v, tag := t.path.map (·.tag), epoch := t.snapshot.epoch,
        mount := t.mount } }

/-- The response of ARM STATUS (R99). -/
def State.armStatus (s : State) (a : Arm) : ArmStatus where
  motion := s.motionView a
  position := s.positionView a
  timer := (s.timers.get a).view
  axes := s.axisView a
  zones := s.zoneView a
  change := s.changeView a
  capture := s.captureView a

/-- The owner of ARM STATUS (R99). -/
def readArm (l : Link) (arm : Option Arm) (s : State) : State :=
  match arm with
  | none => s.respond l .badArgument
  | some a => s.respond l .ok (.armStatus (s.armStatus a))

/-- ARM_STATUS (R99). -/
def execArmStatus (l : Link) (arm : Option Arm) (s : State) : Host.Outcome State Fault Refusal :=
  .next (serve l (.armStatus l arm) (readArm l arm) s)

/-! ### The other reads -/

/-- The owner of READ SNAPSHOT (R40). -/
def readSnapshot (l : Link) (s : State) : State := s.respond l .ok (.snapshot s.snapshot)

/-- READ_SNAPSHOT (R40). -/
def execReadSnapshot (l : Link) (s : State) : Host.Outcome State Fault Refusal :=
  .next (serve l (.readSnapshot l) (readSnapshot l) s)

/-- What READ PROBE shows of a slot (R138). -/
def State.probeView (s : State) (n : Slot) : Payload :=
  .probe ((s.probes.get n).map fun p =>
    (p, ⟨(s.qualStatus .A p, (s.snapshot.headOf .A).temp), (s.qualStatus .B p, (s.snapshot.headOf .B).temp)⟩))

/-- The owner of READ PROBE (R138). -/
def readProbe (l : Link) (slot : Nat) (s : State) : State :=
  match index? 32 slot with
  | none => s.respond l .badArgument
  | some n => s.respond l .ok (s.probeView n)

/-- READ_PROBE (R138). -/
def execReadProbe (l : Link) (slot : Nat) (s : State) : Host.Outcome State Fault Refusal :=
  .next (serve l (.readProbe l slot) (readProbe l slot) s)

/-- The owner of READ POCKET (R138). -/
def readPocket (l : Link) (pocket : Nat) (s : State) : State :=
  match index? 12 pocket with
  | none => s.respond l .badArgument
  | some p => s.respond l .ok (.pocket (s.pockets.get p) ⟨s.mount .A, s.mount .B⟩ s.inventory)

/-- READ_POCKET (R138). -/
def execReadPocket (l : Link) (pocket : Nat) (s : State) : Host.Outcome State Fault Refusal :=
  .next (serve l (.readPocket l pocket) (readPocket l pocket) s)

/-- The owner of READ ZONE (R105). -/
def readZone (l : Link) (zone : Nat) (s : State) : State :=
  match index? 16 zone with
  | none => s.respond l .badArgument
  | some z =>
    s.respond l .ok (.zone (s.zones.get z) (s.holders.get z) (s.standing.map fun zs => zs.contains z))

/-- READ_ZONE (R105). -/
def execReadZone (l : Link) (zone : Nat) (s : State) : Host.Outcome State Fault Refusal :=
  .next (serve l (.readZone l zone) (readZone l zone) s)

/-- The owner of READ CHANNEL (R21). -/
def readChannel (l : Link) (channel : Nat) (s : State) : State :=
  match index? 24 channel with
  | none => s.respond l .badArgument
  | some c =>
    s.respond l .ok (.channel (s.channels.get c) s.scanInterval s.scanList (s.pass.map (·.pos)) s.scanSync)

/-- READ_CHANNEL (R21). -/
def execReadChannel (l : Link) (channel : Nat) (s : State) : Host.Outcome State Fault Refusal :=
  .next (serve l (.readChannel l channel) (readChannel l channel) s)

/-- The owner of READ CALIBRATION (R15). -/
def readCalibration (l : Link) (arm : Option Arm) (s : State) : State :=
  match arm with
  | none => s.respond l .badArgument
  | some a => s.respond l .ok (.calibration (s.cal.get a) s.loadFaults.calibration)

/-- READ_CALIBRATION (R15). -/
def execReadCalibration (l : Link) (arm : Option Arm) (s : State) : Host.Outcome State Fault Refusal :=
  .next (serve l (.readCalibration l arm) (readCalibration l arm) s)

/-- The owner of READ TRAP (R199). -/
def readTrap (l : Link) (s : State) : State := s.respond l .ok (.trap s.faultCount s.trap)

/-- READ_TRAP (R199). -/
def execReadTrap (l : Link) (s : State) : Host.Outcome State Fault Refusal :=
  .next (serve l (.readTrap l) (readTrap l) s)

/-- The owner of CLEAR TRAP (R199). -/
def clearTrap (l : Link) (s : State) : State := { s with trap := none }.respond l .ok

/-- CLEAR_TRAP (R199). -/
def execClearTrap (l : Link) (s : State) : Host.Outcome State Fault Refusal :=
  .next (serve l (.clearTrap l) (clearTrap l) s)

/-- The part code of the MC-22 (R213). -/
def partCode : Nat := 0xD022

/-- The section a SAVE is writing (R213). -/
def SaveState.section : SaveState → Option Section
  | .idle => none
  | .running image _ => some image.section

/-- The owner of IDENTIFY (R213; log 9). -/
def identify (l : Link) (s : State) : State :=
  s.respond l .ok (.identify partCode Config.siliconRevision s.loadFaults s.startup s.save.section)

/-- IDENTIFY (R213). -/
def execIdentify (l : Link) (s : State) : Host.Outcome State Fault Refusal :=
  .next (serve l (.identify l) (identify l) s)

/-- The owner of STATUS: the flags taken are returned and cleared (R197). -/
def status (l : Link) (s : State) : State :=
  let x := s.links.get l
  (s.modLink l LinkState.clearFlags).respond l .ok (.notices x.flags x.mask)

/-- STATUS (R197). -/
def execStatus (l : Link) (s : State) : Host.Outcome State Fault Refusal :=
  .next (serve l (.status l) (status l) s)

end Sys2Proof.Machine
end

