-- ==== Sys2Proof/Machine/Segments.lean ====
section
/-! DEFINITION. The arm commands of the motion unit: POST, REPLACE, HALT, RESUME, CLEAR, OVERRIDE and ARM RESET
(chapter 5). -/
namespace Sys2Proof.Machine

/-! ### POST and REPLACE -/

/-- Whether POST is refused before its entries are looked at (R75 check 1). -/
def State.postBarred (s : State) (a : Arm) : Bool :=
  let m := s.motion.get a
  (match m.phase with
    | .off => true
    | .fault _ => true
    | .collision => true
    | _ => false) || m.resetPending

/-- The checks of POST and REPLACE that follow the argument check, in order (R75); `room` is the number of entries that
would be free. -/
def State.postChecks (s : State) (a : Arm) (segs : List Segment) (room : Nat) : List (Bool × Code) :=
  let moves := segs.map (·.move)
  [(moves.any (fun v => decide (v.kind = .rack)) && !s.rackOpenStep a, .wrongState),
   (moves.any (fun v => decide (v.kind ≠ .home)) && s.unreferenced a, .notReferenced),
   (moves.any (fun v => v.target?.any fun t => !withinLimits (s.cal.get a) t), .outOfLimits),
   (moves.any (fun v => decide (v.kind = .probe)) && ((s.mountedOn a).isNone || (s.change.get a).isSome), .noProbe),
   (decide (room < segs.length), .queueFull)]

/-- Segments appended at the tail of the queue (R76). -/
def State.appendSegments (s : State) (a : Arm) (segs : List Segment) : State :=
  s.modMotion a fun m => { m with queue := m.queue ++ segs }

/-- What an accepted POST does (R76). -/
def postAccepted (a : Arm) (segs : List Segment) (s : State) : Eff :=
  (s.appendSegments a segs, if (s.motion.get a).phase = .idle then [.evaluate a] else [])

/-- The owner of POST (R75, R76). -/
def post (l : Link) (es : List SegEntry) (a : Arm) (s : State) : State :=
  if s.postBarred a then s.respond l .wrongState
  else
    match segmentsOf es with
    | none => s.respond l .badArgument
    | some segs =>
      s.checked l (s.postChecks a segs (16 - (s.motion.get a).queue.length)) fun s =>
        settle (postAccepted a segs (s.respond l .ok))

/-- POST (R75). -/
def execPost (l : Link) (es : List SegEntry) (s : State) : Host.Outcome State Fault Refusal :=
  .next (serve l (.post l es) (ownArm l (post l es)) s)

/-- What an accepted REPLACE does (R77): the flush, with the withdrawal of a waiting head's entry, then the append and,
where the arm was WAITING or IDLE, the evaluation. -/
def replaceAccepted (a : Arm) (segs : List Segment) (s : State) : Eff :=
  let (s1, ts) := flush a s
  match (s.motion.get a).phase with
  | .waiting _ => (((s1.setPhase a .idle).appendSegments a segs), ts ++ [.evaluate a])
  | .idle => (s1.appendSegments a segs, ts ++ [.evaluate a])
  | _ => (s1.appendSegments a segs, ts)

/-- The owner of REPLACE: the checks of POST, the room as after the discard (R77). -/
def replace (l : Link) (es : List SegEntry) (a : Arm) (s : State) : State :=
  if s.postBarred a then s.respond l .wrongState
  else
    match segmentsOf es with
    | none => s.respond l .badArgument
    | some segs =>
      s.checked l (s.postChecks a segs 16) fun s => settle (replaceAccepted a segs (s.respond l .ok))

/-- REPLACE (R77). -/
def execReplace (l : Link) (es : List SegEntry) (s : State) : Host.Outcome State Fault Refusal :=
  .next (serve l (.replace l es) (ownArm l (replace l es)) s)

/-! ### Stops and recoveries -/

/-- The owner of HALT (R90, R162). -/
def halt (l : Link) (a : Arm) (s : State) : State := settle (haltArm a (s.respond l .ok))

/-- HALT (R90). -/
def execHalt (l : Link) (x : Option (Option Arm)) (s : State) : Host.Outcome State Fault Refusal :=
  .next (serve l (.halt l x) (namedArm l x (halt l)) s)

/-- Whether an arm is HELD. -/
def State.isHeld (s : State) (a : Arm) : Bool :=
  match (s.motion.get a).phase with
  | .held _ => true
  | _ => false

/-- The owner of RESUME (R93, R100). -/
def resume (l : Link) (a : Arm) (s : State) : State :=
  s.checked l [(!s.isHeld a || (s.motion.get a).resetPending, .wrongState)] fun s =>
    settle ((s.setPhase a .idle).respond l .ok, [.evaluate a])

/-- RESUME (R93). -/
def execResume (l : Link) (s : State) : Host.Outcome State Fault Refusal :=
  .next (serve l (.resume l) (ownArm l (resume l)) s)

/-- The owner of CLEAR (R69, R94). -/
def clear (l : Link) (a : Arm) (s : State) : State :=
  match (s.motion.get a).phase with
  | .collision => (s.setPhase a .idle).respond l .ok
  | .fault _ =>
    s.checked l [((s.axes.get a).dflt, .wrongState)] fun s => (s.setPhase a .off).respond l .ok
  | _ => s.respond l .wrongState

/-- CLEAR (R69, R94). -/
def execClear (l : Link) (s : State) : Host.Outcome State Fault Refusal :=
  .next (serve l (.clear l) (ownArm l (clear l)) s)

/-- The owner of OVERRIDE (R87). -/
def setOverride (l : Link) (v : Nat) (a : Arm) (s : State) : State :=
  (s.modMotion a fun m => { m with override := min v 150 }).respond l .ok

/-- OVERRIDE (R87). -/
def execOverride (l : Link) (v : Nat) (s : State) : Host.Outcome State Fault Refusal :=
  .next (serve l (.override l v) (ownArm l (setOverride l v)) s)

/-- What an accepted ARM RESET does (R100). -/
def resetArm (a : Arm) (s : State) : Eff :=
  let m := s.motion.get a
  if m.resetPending then (s, [])
  else
    let s1 := s.modMotion a fun m => { m with resetPending := true }
    match m.phase with
    | .moving => enterStop a .halted s1
    | .stopping => (s1, [])
    | _ => (s1, [.completeReset a])

/-- The owner of ARM RESET (R100). -/
def armReset (l : Link) (a : Arm) (s : State) : State := settle (resetArm a (s.respond l .ok))

/-- ARM_RESET (R100). -/
def execArmReset (l : Link) (x : Option (Option Arm)) (s : State) : Host.Outcome State Fault Refusal :=
  .next (serve l (.armReset l x) (namedArm l x (armReset l)) s)

end Sys2Proof.Machine
end

