-- ==== Sys2Proof/Machine/ConfigWrites.lean ====
section
/-! DEFINITION. The configuration writes of the calibration holder, the zone arbiter and the settings: WRITE CALIBRATION,
WRITE ZONE, WRITE SETTINGS (R13, R104, R209). -/
namespace Sys2Proof.Machine

/-- Whether an arm is OFF, or IDLE with an empty queue (R13). -/
def State.atRest (s : State) (a : Arm) : Bool :=
  let m := s.motion.get a
  decide (m.phase = .off) || (decide (m.phase = .idle) && m.queue.isEmpty)

/-- The owner of WRITE CALIBRATION (R13, R14). -/
def writeCalibration (l : Link) (arm : Option Arm) (e : Calibration) (s : State) : State :=
  s.checked l
    [(s.saving, .saveInProgress), (!s.atRest .A || !s.atRest .B || s.anyContext, .wrongState),
     (arm.isNone || badCalibration e, .badArgument)] fun s =>
    match arm with
    | none => s.respond l .badArgument
    | some a => settle ({ s with cal := s.cal.set a e }.respond l .ok, [.recompute a])

/-- WRITE_CALIBRATION (R13). -/
def execWriteCalibration (l : Link) (arm : Option Arm) (e : Calibration) (s : State) :
    Host.Outcome State Fault Refusal :=
  .next (serve l (.writeCalibration l arm e) (writeCalibration l arm e) s)

/-- The record a zone payload gives; K is 0 when the kind is not SHARED (R103, R104). -/
def zoneOf (e : ZoneEntry) : Zone :=
  let kind := e.kind.getD .unused
  { kind := kind, box := e.box, k := if kind = .shared then e.k else 0 }

/-- Whether another record than z is RACK (R104). -/
def State.otherRack (s : State) (z : ZoneId) : Bool :=
  allZones.any fun y => decide (y ≠ z) && decide ((s.zones.get y).kind = .rack)

/-- Whether both arms are OFF. -/
def State.bothOff (s : State) : Bool :=
  decide ((s.motion.get .A).phase = .off) && decide ((s.motion.get .B).phase = .off)

/-- No zone has a holder and no zone lingers (R104, R212). -/
def State.clearHolders (s : State) : State :=
  { s with holders := Vector.replicate 16 none, linger := .both none }

/-- The owner of WRITE ZONE (R104). -/
def writeZone (l : Link) (n : Nat) (e : ZoneEntry) (s : State) : State :=
  s.checked l
    [(s.saving, .saveInProgress), (!s.bothOff || s.anyContext, .wrongState),
     ((index? 16 n).isNone || badZone e, .badArgument)] fun s =>
    match index? 16 n with
    | none => s.respond l .badArgument
    | some z =>
      s.checked l [(decide (e.kind = some .rack) && s.otherRack z, .inUse)] fun s =>
        let s1 := { s with zones := Table.put s.zones z (zoneOf e) }.clearHolders
        settle (s1.respond l .ok, [.recompute .A, .recompute .B])

/-- WRITE_ZONE (R104). -/
def execWriteZone (l : Link) (n : Nat) (e : ZoneEntry) (s : State) : Host.Outcome State Fault Refusal :=
  .next (serve l (.writeZone l n e) (writeZone l n e) s)

/-- Whether two non-FREE records have identities that match under a mode (R209). -/
def State.duplicates (s : State) (m : MatchMode) : Bool :=
  allSlots.any fun n => allSlots.any fun k =>
    decide (n < k) && (s.probes.get n).any fun p => (s.probes.get k).any fun q => idMatch m p.identity q.identity

/-- The settings of an accepted payload, the timer lengths clamped (R209). -/
def settingsOf (e : SettingsEntry) : Settings where
  matchMode := e.matchMode.getD .full
  startLocked := e.startLocked.getD false
  linger := clampNat e.linger 0 5000
  stepTimeout := clampNat e.stepTimeout 1 300
  rackTimeout := clampNat e.rackTimeout 5 300
  qualLimit := e.qualLimit

/-- The settings and the masks in force, with the ATTN lines formed again (R196, R209). -/
def State.putSettings (s : State) (v : Settings) (maskA maskB maskS : List Notice) : State :=
  ((({ s with settings := v }.modLink .A (·.withMask .A maskA)).modLink .B (·.withMask .B maskB)).modLink .S
    (·.withMask .S maskS))

/-- The owner of WRITE SETTINGS (R209). -/
def writeSettings (l : Link) (e : SettingsEntry) (s : State) : State :=
  s.checked l
    [(s.saving, .saveInProgress),
     (e.matchMode.isNone || e.startLocked.isNone || decide (10000 < e.qualLimit), .badArgument),
     (decide (e.matchMode = some .serialOnly) && s.duplicates .serialOnly, .inUse)] fun s =>
    (s.putSettings (settingsOf e) e.maskA e.maskB e.maskS).respond l .ok

/-- WRITE_SETTINGS (R209). -/
def execWriteSettings (l : Link) (e : SettingsEntry) (s : State) : Host.Outcome State Fault Refusal :=
  .next (serve l (.writeSettings l e) (writeSettings l e) s)

end Sys2Proof.Machine
end

