-- ==== Sys2Proof/Machine/Thermal.lean ====
section
/-! DEFINITION. The thermal unit: conversions, filters, groups, the snapshot and its replacement, and the commands that
write channels, the scan list and the workpiece record (chapter 2). -/
namespace Sys2Proof.Machine

/-! ### One conversion -/

/-- Whether a code fails the fault test (R23). -/
def Channel.faulty (c : Channel) (code : Nat) : Bool := decide (code < c.low) || decide (c.high < code)

/-- The scaled temperature of a code (R24). -/
def Channel.scaled (c : Channel) (code : Nat) : Int := clamp16 (c.offset + roundDiv ((code : Int) * c.gain) 65536)

/-- The filter step (R25). -/
def filterStep (f t : Int) (k : Nat) : Int := f + truncDiv (t - f) (2 ^ k)

/-- A channel after a faulty sample, and whether SENSOR_FAULT is raised (R23). -/
def Channel.takeFaulty (c : Channel) : Channel × Bool :=
  let run := min (c.run + 1) 15
  let c1 := { c with run := run }
  match c.state with
  | .warming => if c.persistence ≤ run then ({ c1 with state := .fault }, true) else (c1, false)
  | .valid => if c.persistence ≤ run then ({ c1 with state := .fault }, true) else (c1, false)
  | _ => (c1, false)

/-- A channel after a good sample, and whether SENSOR_FAULT is raised (R24, R25). -/
def Channel.takeGood (c : Channel) (t : Int) : Channel × Bool :=
  match c.state with
  | .valid => ({ c with run := 0, f := filterStep c.f t c.shift }, false)
  | .fault => ({ c with run := 0, f := t, state := .valid }, true)
  | _ => ({ c with run := 0, f := t, state := .valid }, false)

/-- The result of a conversion applied to its channel (R22). -/
def Channel.convert (c : Channel) (code : Nat) : Channel × Bool :=
  if c.role = .unused then (c, false)
  else
    let c1 := { c with lastRaw := code }
    if c1.faulty code then c1.takeFaulty else c1.takeGood (c1.scaled code)

/-! ### Groups and the snapshot -/

/-- The filtered values of the VALID channels of a role (R32). -/
def State.validOf (s : State) (r : Role) : List Int :=
  (s.channels.toList.filter fun c => decide (c.role = r) && decide (c.state = .valid)).map (·.f)

/-- A group formed from its VALID members (R32). -/
def Group.form (old : Group) (fs : List Int) : Group :=
  if fs.isEmpty then { old with stale := true } else { temp := roundDiv fs.sum fs.length, stale := false }

/-- The ten groups at a pass end (R32). -/
def State.formGroups (s : State) : Groups :=
  let g := s.snapshot.groups
  let scale := fun (a : Arm) => PerAxis.of fun i => ((g.scale.get a).get i).form (s.validOf (.scale a i))
  { scale := ⟨scale .A, scale .B⟩
    workpiece := g.workpiece.form (s.validOf .workpiece)
    head := ⟨g.head.a.form (s.validOf (.head .A)), g.head.b.form (s.validOf (.head .B))⟩
    air := g.air.form (s.validOf .air) }

/-- The workpiece gradient of the VALID members (R33). -/
def gradientOf : List Int → Nat
  | x :: y :: rest => ((y :: rest).foldl max x - (y :: rest).foldl min x).toNat
  | _ => 0

/-- The source and the workpiece temperature in use (R37). -/
def sourceOf (g : Groups) (held : Int) : Source × Int :=
  if !g.workpiece.stale then (.workpiece, g.workpiece.temp)
  else if !g.air.stale then (.air, g.air.temp)
  else (.held, held)

/-- What R39 compares for an arm: its STALE flags and the workpiece source. -/
def Snapshot.watched (t : Snapshot) (a : Arm) : PerAxis Bool × Bool × Source :=
  ((t.groups.scale.get a).map (·.stale), (t.groups.head.get a).stale, t.source)

/-- THERMAL to the links of the arms for which two snapshots differ (R39). -/
def State.raiseThermal (s : State) (old new : Snapshot) : State :=
  let s1 := if old.watched .A ≠ new.watched .A then s.raise .A .thermal else s
  if old.watched .B ≠ new.watched .B then s1.raise .B .thermal else s1

/-- The snapshot replaced, its epoch raised by 1, and THERMAL raised (R38, R39). -/
def State.publish (s : State) (t : Snapshot) : State :=
  let new := { t with epoch := (s.snapshot.epoch + 1) % 65536 }
  { s with snapshot := new }.raiseThermal s.snapshot new

/-- The snapshot a pass end forms (R31 to R33, R37). -/
def State.passSnapshot (s : State) : Snapshot :=
  let g := s.formGroups
  let grad := gradientOf (s.validOf .workpiece)
  let src := sourceOf g s.snapshot.wpTemp
  { epoch := s.snapshot.epoch, groups := g, gradient := grad,
    gradientFlag := decide (s.workpiece.gradientLimit < grad),
    wpTemp := src.2, source := src.1, workpiece := s.workpiece }

/-- A pass end (R31). -/
def State.passEnd (s : State) : State := { s.publish s.passSnapshot with pass := none }

/-- A completed conversion: its channel, then the next entry or the pass end (R22, R30). -/
def conversion (code : Nat) (s : State) : State :=
  match s.pass with
  | none => s
  | some p =>
    match p.copy[p.pos]? with
    | none => { s with pass := none }
    | some ch =>
      let r := (s.channels.get ch).convert code
      let s1 := { s with channels := Table.put s.channels ch r.1 }
      let s2 := if r.2 then s1.raise .S .sensorFault else s1
      if p.pos + 1 < p.copy.length then { s2 with pass := some { p with pos := p.pos + 1 } } else s2.passEnd

/-- Whether a pass starts at a scan expiry (R29). With an empty list nothing is raised, also while a pass is in flight
(log 49). -/
def State.startPass (s : State) : State :=
  match s.pass with
  | some _ => if s.scanList.isEmpty then s else s.raise .S .scanOverrun
  | none => if s.scanList.isEmpty then s else { s with pass := some ⟨s.scanList, 0⟩ }

/-- A scan expiry: the next interval starts, and a pass may start (R29, R48). -/
def scanEnd (s : State) : State := if s.ready then s.startScanInterval.startPass else s

/-! ### Rows of the table -/

/-- SCAN_EXPIRY (R29, R48). -/
def execScanExpiry (s : State) : Host.Outcome State Fault Refusal := .next (scanEnd s)

/-- CONVERSION_COMPLETE (R22). A converter at rest completes nothing (log 3). -/
def execConversionComplete (code : Nat) (s : State) : Host.Outcome State Fault Refusal := .next (conversion code s)

/-- The owner of WRITE WORKPIECE (R35). -/
def writeWorkpiece (l : Link) (e : Workpiece) (s : State) : State :=
  s.checked l [(s.saving, .saveInProgress), (badWorkpiece e, .badArgument)] fun s =>
    let t := { s.snapshot with
      workpiece := e, gradientFlag := decide (e.gradientLimit < s.snapshot.gradient) }
    ({ s with workpiece := e }.publish t).respond l .ok

/-- WRITE_WORKPIECE (R35). -/
def execWriteWorkpiece (l : Link) (e : Workpiece) (s : State) : Host.Outcome State Fault Refusal :=
  .next (serve l (.writeWorkpiece l e) (writeWorkpiece l e) s)

/-- A channel with new configured fields (R20). -/
def Channel.configure (c : Channel) (e : ChannelEntry) : Channel :=
  let role := e.role.getD .unused
  { c with
    role := role, gain := e.gain, offset := e.offset, shift := e.shift, low := e.low, high := e.high,
    persistence := e.persistence, state := if role = .unused then .unused else .warming, run := 0 }

/-- The owner of WRITE CHANNEL (R20). -/
def writeChannel (l : Link) (n : Nat) (e : ChannelEntry) (s : State) : State :=
  match index? 24 n with
  | none => s.respond l (if s.saving then .saveInProgress else .badArgument)
  | some ch =>
    s.checked l [(s.saving, .saveInProgress), (badChannel e, .badArgument)] fun s =>
      { s with channels := Table.put s.channels ch ((s.channels.get ch).configure e) }.respond l .ok

/-- WRITE_CHANNEL (R20). -/
def execWriteChannel (l : Link) (n : Nat) (e : ChannelEntry) (s : State) : Host.Outcome State Fault Refusal :=
  .next (serve l (.writeChannel l n e) (writeChannel l n e) s)

/-- The channel numbers of a scan list, those above 23 dropped (R26, R206). -/
def scanEntries (es : List Nat) : List ChannelId := es.filterMap (index? 24)

/-- The list after an accepted edit (R27). -/
def editedList (mode : ScanMode) (old new : List ChannelId) : List ChannelId :=
  match mode with
  | .replace => new
  | .append => old ++ new
  | .keep => old

/-- The scan interval as applied (R28). -/
def appliedInterval (ms : Nat) : Nat := clampNat ms 10 10000

/-- The owner of EDIT SCAN LIST (R27). -/
def editScanList (l : Link) (mode : Option ScanMode) (interval : Nat) (es : List Nat) (s : State) : State :=
  match mode with
  | none => s.respond l (if s.saving then .saveInProgress else .badArgument)
  | some m =>
    s.checked l
      [(s.saving, .saveInProgress),
       (es.any (fun n => decide (23 < n)) || (decide (m = .keep) && !es.isEmpty), .badArgument),
       (decide (m = .append) && decide (32 < s.scanList.length + es.length), .queueFull)] fun s =>
      { s with
        scanList := editedList m s.scanList (scanEntries es)
        scanInterval := appliedInterval interval }.respond l .ok

/-- EDIT_SCAN_LIST (R27). -/
def execEditScanList (l : Link) (mode : Option ScanMode) (interval : Nat) (es : List Nat) (s : State) :
    Host.Outcome State Fault Refusal :=
  .next (serve l (.editScanList l mode interval es) (editScanList l mode interval es) s)

/-- The owner of SET SCAN INTERVAL (R28). -/
def setScanInterval (l : Link) (ms : Nat) (s : State) : State :=
  s.checked l [(s.saving, .saveInProgress)] fun s =>
    { s with scanInterval := appliedInterval ms }.respond l .ok

/-- SET_SCAN_INTERVAL (R28). -/
def execSetScanInterval (l : Link) (ms : Nat) (s : State) : Host.Outcome State Fault Refusal :=
  .next (serve l (.setScanInterval l ms) (setScanInterval l ms) s)

end Sys2Proof.Machine
end

