-- ==== Sys2Proof/Machine/Store.lean ====
section
/-! DEFINITION. The configuration store controller: RESET, the load of the six sections, SAVE, its pages, and RELOAD
(chapter 11, R144). -/
namespace Sys2Proof.Machine

/-! ### RESET -/

/-- The axis unit after RESET, the DFLT level and the quadrature levels as they stand (R71; log 10, log 26). A frame that
is being sent or waits on the DRV line is dropped (log 40). -/
def AxisUnit.afterReset (u : AxisUnit) : AxisUnit :=
  { axis := u.axis.map fun x => { AxisState.reset with pair := x.pair }
    den := false, dflt := u.dflt, frameCount := 0, line := [], bits := 0 }

/-- Every field at its reset value; the input lines keep their levels (R71, R166, R185; log 10), and the queue of
commands and the model's counter stay (log 1). -/
def resetPart (s : State) : State :=
  { State.reset with
    pending := s.pending
    choices := s.choices
    axes := s.axes.map AxisUnit.afterReset
    pockets := s.pockets.map fun k => { state := .empty, unexpected := false, level := k.level }
    rack := { State.reset.rack with opened := s.rack.opened, closed := s.rack.closed }
    capture := s.capture.map fun c => { trig := c.trig, latch := none, points := [], seq := 0, notQueued := false } }

/-- RESET (R41, R52, R71, R102, R124, R144, R166, R185, R200, R206). -/
def execReset (s : State) : Host.Outcome State Fault Refusal := .next (resetPart s)

/-! ### Section images -/

/-- Where a record's module is, as a SAVE stores it (R144); none for a LOST record. -/
def State.storedPlace (s : State) (n : Slot) (p : Probe) : Option PlaceEntry :=
  match p.place with
  | .stored k => some (.pocket k.val)
  | .mounted a => some (.arm (some a))
  | .lost => none
  | .inTransit a =>
    match (s.change.get a).bind (·.take) with
    | some (k, m) => if m = n then some (.pocket k.val) else some (.arm (some a))
    | none => some (.arm (some a))

/-- A record as a SAVE stores it, with a fresh check of its count (R143, R144, R205). -/
def State.storedProbe (s : State) (n : Slot) : Option StoredProbe :=
  (s.probes.get n).bind fun p =>
    (s.storedPlace n p).map fun pl =>
      { identity := p.identity, reach := p.reach, tau := p.tau, home := p.home.map (·.val), qual := p.qual,
        guarded := p.guarded, place := pl, mountCount := p.mountCount, check := countCheck p.mountCount }

/-- The content of a section as the working copy stands (R205, R210). -/
def State.imageOf (s : State) (x : Section) : Image :=
  match x with
  | .calibration => .calibration s.cal (s.timers.map fun t => (t.n, t.d)) s.workpiece
  | .zones => .zones (s.zones.map fun z => { kind := some z.kind, box := z.box, k := z.k })
  | .channels =>
    .channels (s.channels.map fun c =>
      { role := some c.role, gain := c.gain, offset := c.offset, shift := c.shift, low := c.low, high := c.high,
        persistence := c.persistence }) (s.scanList.map (·.val)) s.scanInterval
  | .probes => .probes (Table.of fun n => s.storedProbe n)
  | .pockets => .pockets (s.pockets.map fun k => decide (k.state = .disabled))
  | .settings =>
    .settings { matchMode := some s.settings.matchMode, startLocked := some s.settings.startLocked,
                linger := s.settings.linger, stepTimeout := s.settings.stepTimeout,
                rackTimeout := s.settings.rackTimeout, qualLimit := s.settings.qualLimit,
                maskA := s.links.a.mask, maskB := s.links.b.mask, maskS := s.links.s.mask }

/-- The section after another (R205). -/
def sectionAfter : Section → Option Section
  | .calibration => some .zones
  | .zones => some .channels
  | .channels => some .probes
  | .probes => some .pockets
  | .pockets => some .settings
  | .settings => none

/-! ### Loading -/

/-- The content of a section in bytes, of the length its section has (R205; log 8). -/
def contentBytes (im : Image) : List Byte :=
  (List.range (Config.contentLength im.section)).map (Config.contentByte im)

/-- The judgement of a region (R206): its content when the kind, the length and the CRC-32 agree. -/
def judgeSection (x : Section) (r : SectionRead) : Option Image :=
  match r with
  | .noAnswer => none
  | .region kind length content crc =>
    if kind = some x && content.section = x && decide (length = Config.contentLength x)
        && decide (crc = crc32 (contentBytes content))
    then some content else none

/-- The defaults of a section as an image (R206). -/
def defaultImage : Section → Image
  | .calibration => .calibration (.both defaultCalibration) (.both (5000, 1)) defaultWorkpiece
  | .zones => .zones (defaultZones.map fun z => { kind := some z.kind, box := z.box, k := z.k })
  | .channels =>
    .channels (Vector.replicate 24
      { role := some .unused, gain := 0, offset := 0, shift := 0, low := 0, high := 65535, persistence := 3 }) [] 500
  | .probes => .probes (Vector.replicate 32 none)
  | .pockets => .pockets (Vector.replicate 12 false)
  | .settings =>
    .settings { matchMode := some .full, startLocked := some false, linger := 500, stepTimeout := 60,
                rackTimeout := 80, qualLimit := 1000, maskA := allNotices, maskB := allNotices, maskS := allNotices }

/-- A stored record and whether it had to take its defaults (R206). -/
def orDefault {α : Type} (bad : Bool) (x d : α) : α × Bool := if bad then (d, true) else (x, false)

/-- CALIBRATION installed (R12, R52, R206); the Bool says that a record took its defaults. The snapshot holds the
workpiece record as loaded (R41; log 24). -/
def State.installCalibration (s : State) (cal : PerArm Calibration) (ratio : PerArm (Nat × Nat)) (w : Workpiece) :
    State × Bool :=
  let ca := orDefault (badCalibration cal.a) cal.a defaultCalibration
  let cb := orDefault (badCalibration cal.b) cal.b defaultCalibration
  let ra := orDefault (badRatio ratio.a.1 ratio.a.2) ratio.a (5000, 1)
  let rb := orDefault (badRatio ratio.b.1 ratio.b.2) ratio.b (5000, 1)
  let wp := orDefault (badWorkpiece w) w defaultWorkpiece
  ({ s with
      cal := ⟨ca.1, cb.1⟩
      timers := ⟨.stopped ra.1.1 ra.1.2, .stopped rb.1.1 rb.1.2⟩
      workpiece := wp.1
      snapshot := { s.snapshot with workpiece := wp.1 } },
   ca.2 || cb.2 || ra.2 || rb.2 || wp.2)

/-- The zone records of a stored table, from zone 0: a bad record takes its own default, a second RACK record is UNUSED
(R103, R206). -/
def loadZones (es : Table 16 ZoneEntry) : Table 16 Zone × Bool :=
  let r := allZones.foldl (fun (acc : Table 16 Zone × Bool × Bool) i =>
    let e := es.get i
    if badZone e then (Table.put acc.1 i (defaultZones.get i), true, acc.2.2)
    else if e.kind = some .rack && acc.2.2 then (Table.put acc.1 i Zone.unused, true, true)
    else (Table.put acc.1 i (zoneOf e), acc.2.1, acc.2.2 || decide (e.kind = some .rack)))
    (defaultZones, false, false)
  (r.1, r.2.1)

/-- A stored channel (R41, R206). -/
def loadChannel (e : ChannelEntry) : Channel := if badChannel e then Channel.default else Channel.default.configure e

/-- CHANNELS installed (R26, R28, R41, R206). -/
def State.installChannels (s : State) (cs : Table 24 ChannelEntry) (scan : List Nat) (interval : Nat) : State × Bool :=
  ({ s with
      channels := cs.map loadChannel
      scanList := (scanEntries scan).take 32
      scanInterval := appliedInterval interval },
   cs.toList.any badChannel || scan.any (fun n => decide (23 < n)) || decide (32 < (scanEntries scan).length))

/-- The place a stored record asks for. -/
def placeOf : PlaceEntry → Place
  | .pocket p => match index? 12 p with
    | some k => .stored k
    | none => .lost
  | .arm (some a) => .mounted a
  | .arm none => .lost
  | .neither => .lost

/-- Whether a place is taken by a record of a table: a pocket or an arm holds one module (R144). -/
def placeTaken (t : Table 32 (Option Probe)) (pl : Place) : Bool :=
  decide (pl ≠ .lost) && allSlots.any fun n => (t.get n).any fun p => decide (p.place = pl)

/-- A stored record installed (R144, R207). -/
def loadProbe (t : Table 32 (Option Probe)) (e : StoredProbe) : Probe :=
  let good := decide (e.check = countCheck e.mountCount)
  let pl := placeOf e.place
  { place := if placeTaken t pl then .lost else pl
    identity := e.identity
    home := e.home.bind (index? 12)
    reach := e.reach
    tau := e.tau
    qual := e.qual
    mountCount := if good then e.mountCount else 0
    corrupt := !good
    guarded := e.guarded
    locked := false }

/-- The probe table of a stored section, slot by slot (R206, R207). -/
def loadProbes (es : Table 32 (Option StoredProbe)) : Table 32 (Option Probe) × Bool :=
  allSlots.foldl (fun acc n =>
    match es.get n with
    | none => acc
    | some e => if badStored e then (acc.1, true) else (Table.put acc.1 n (some (loadProbe acc.1 e)), acc.2))
    (Vector.replicate 32 none, false)

/-- The slot whose record is STORED at a pocket. -/
def State.storedAt (s : State) (p : PocketId) : Option Slot := s.findProbe fun r => decide (r.place = .stored p)

/-- PROBES installed: the records, then each pocket OCCUPIED or EMPTY, UNEXPECTED and UNKNOWN clear (R144, R207). -/
def State.installProbes (s : State) (es : Table 32 (Option StoredProbe)) : State × Bool :=
  let r := loadProbes es
  let s1 := { s with probes := r.1, unknown := .both false }
  ({ s1 with
      pockets := s.pockets.mapIdx fun p k =>
        { k with
          unexpected := false
          state := match s1.storedAt p with
            | some n => .occupied n
            | none => .empty } },
   r.2)

/-- One disabled pocket; a record STORED there is loaded LOST (R207). -/
def State.disablePocket (s : State) (p : PocketId) : State :=
  let s1 := match s.storedAt p with
    | some n => s.modProbe n fun r => { r with place := .lost }
    | none => s
  s1.modPocket p fun k => { k with state := .disabled }

/-- POCKETS installed (R207). -/
def State.installPockets (s : State) (ds : Table 12 Bool) : State :=
  allPockets.foldl (fun t p => if ds.get p then t.disablePocket p else t) s

/-- Whether a lower slot holds a record whose identity matches (R207). -/
def State.lowerMatch (s : State) (n : Slot) : Bool :=
  allSlots.any fun k => decide (k < n) &&
    (s.probes.get k).any fun q => (s.probes.get n).any fun p => idMatch s.settings.matchMode q.identity p.identity

/-- A record that a lower slot matches becomes FREE, and its pocket EMPTY (R207). -/
def State.dropDuplicate (s : State) (n : Slot) : State :=
  if s.lowerMatch n then
    let s1 := s.setProbe n none
    match (s.probes.get n).map Probe.place with
    | some (Place.stored k) => s1.modPocket k fun q => { q with state := .empty }
    | _ => s1
  else s

/-- The settings of a stored section: an out-of-range field that is not clamped takes its default (R206, R209). -/
def loadSettings (e : SettingsEntry) : Settings × Bool :=
  let bad := decide (10000 < e.qualLimit)
  ({ settingsOf e with qualLimit := if bad then 1000 else e.qualLimit },
   bad || e.matchMode.isNone || e.startLocked.isNone)

/-- SETTINGS installed: the settings and masks, the records that match a lower slot's, the LOCKED flags (R207). -/
def State.installSettings (s : State) (e : SettingsEntry) : State × Bool :=
  let r := loadSettings e
  let s1 := s.putSettings r.1 e.maskA e.maskB e.maskS
  let s2 := allSlots.foldl State.dropDuplicate s1
  ({ s2 with probes := s2.probes.map fun p => p.map fun q => { q with locked := r.1.startLocked } }, r.2)

/-- A judged section installed; the Bool says that a record in it took its defaults (R206). -/
def State.install (s : State) (im : Image) : State × Bool :=
  match im with
  | .calibration cal ratio w => s.installCalibration cal ratio w
  | .zones zs => let r := loadZones zs; ({ s with zones := r.1 }, r.2)
  | .channels cs scan interval => s.installChannels cs scan interval
  | .probes es => s.installProbes es
  | .pockets ds => (s.installPockets ds, false)
  | .settings e => s.installSettings e

/-- The end of the read of a section: judged, installed, and after the sixth the end of LOADING (R206, R208). -/
def sectionEnds (x : Section) (r : SectionRead) (s : State) : Eff :=
  let judged := judgeSection x r
  let inst := s.install (judged.getD (defaultImage x))
  let s1 := { inst.1 with loadFaults := s.loadFaults.put x (judged.isNone || inst.2) }
  match sectionAfter x with
  | some y => ({ s1 with loading := some y }, [])
  | none =>
    ({ s1 with loading := none, startup := .inventory }, [.recompute .A, .recompute .B, .askInventory])

/-- SECTION_LOAD_COMPLETE (R206). With no section being read nothing ends (log 3). -/
def execSectionLoadComplete (r : SectionRead) (s : State) : Host.Outcome State Fault Refusal :=
  .next (match s.loading with
    | none => s
    | some x => settle (sectionEnds x r s))

/-! ### SAVE -/

/-- The bytes of a region: header, content and CRC-32 (R205, R210; log 8). -/
def regionBytes (im : Image) : List Byte :=
  (List.range Config.headerLength).map (Config.headerByte im.section) ++ contentBytes im
    ++ (List.range 4).map (Config.crcByte (crc32 (contentBytes im)))

/-- The size of a section's region, the same for every content (R205). -/
def regionSize (x : Section) : Nat := Config.headerLength + Config.contentLength x + 4

/-- The pages of 64 bytes a section's region is written in (R210). -/
def pageCount (x : Section) : Nat := (regionSize x + 63) / 64

/-- The owner of SAVE: the copy of the first section is taken as its write begins (R210). -/
def save (l : Link) (s : State) : State :=
  s.checked l [(s.saving, .saveInProgress)] fun s =>
    { s with save := .running (s.imageOf .calibration) 0 }.respond l .ok

/-- SAVE (R210). -/
def execSave (l : Link) (s : State) : Host.Outcome State Fault Refusal := .next (serve l (.save l) (save l) s)

/-- A page write ends, acknowledged or not (R210, R211). With no SAVE running nothing ends (log 3). -/
def pageEnds (ack : Bool) (s : State) : State :=
  match s.save with
  | .idle => s
  | .running im page =>
    if !ack then { s with save := .idle }.raise .S .saveFailed
    else if page + 1 < pageCount im.section then { s with save := .running im (page + 1) }
    else match sectionAfter im.section with
      | some x => { s with save := .running (s.imageOf x) 0 }
      | none => { s with save := .idle }.raise .S .saveDone

/-- SAVE_PAGE_WRITTEN (R210). -/
def execSavePageWritten (ack : Bool) (s : State) : Host.Outcome State Fault Refusal := .next (pageEnds ack s)

/-! ### RELOAD -/

/-- An arm link at an accepted RELOAD: RETRY, emptied (R190, R200). -/
def LinkState.abandon (l : LinkState) : LinkState :=
  { l with phase := .retry, buffer := [], request := none, work := none, response := none, overrun := false }

/-- A channel's working fields after a reset (R41). -/
def Channel.restart (c : Channel) : Channel :=
  { c with state := if c.role = .unused then .unused else .warming, lastRaw := 0, f := 0, run := 0 }

/-- The thermal unit at an accepted RELOAD (R42). -/
def State.reloadThermal (s : State) : State :=
  { s.publish (.cold 0 s.workpiece) with channels := s.channels.map Channel.restart, pass := none }

/-- Every axis UNREFERENCED (R56). -/
def AxisUnit.unreference (u : AxisUnit) : AxisUnit :=
  { u with axis := u.axis.map fun x => { x with referenced := false } }

/-- What an accepted RELOAD does in its own event (R212; log 33). -/
def startReload (l : Link) (s : State) : State :=
  let s1 := s.reloadThermal
  let s2 := { s1.clearHolders with
    timers := s.timers.map fun (t : SetpointTimer) => .stopped t.n t.d
    scanTimer := ⟨0, 0⟩
    scanSync := false
    axes := s.axes.map AxisUnit.unreference
    standing := .both []
    deferred := .both false
    waiters := []
    handover := []
    readers := .both ⟨none, none⟩
    rack := { s.rack with rackTimer := none, stepTimer := none, dropTimer := none }
    startup := .loading
    loading := some .calibration }
  ((s2.modLink .A LinkState.abandon).modLink .B LinkState.abandon).await l .reload

/-- The owner of RELOAD (R212). -/
def reload (l : Link) (s : State) : State :=
  s.checked l
    [(s.saving, .saveInProgress), (!s.bothOff || s.anyContext || s.inventoryRuns, .wrongState)] (startReload l)

/-- RELOAD (R212). -/
def execReload (l : Link) (s : State) : Host.Outcome State Fault Refusal := .next (serve l (.reload l) (reload l) s)

end Sys2Proof.Machine
end

