-- ==== Sys2Proof/Machine/Dispatch.lean ====
section
/-! DEFINITION. The meaning of each command, one arm for each constructor of Instr. -/
namespace Sys2Proof.Machine

def exec (i : Instr) (s : State) : Host.Outcome State Fault Refusal :=
  match i with
  | .reset => Sys2Proof.Machine.execReset s
  | .sectionLoadComplete r => Sys2Proof.Machine.execSectionLoadComplete r s
  | .writePeriod l bytes => Sys2Proof.Machine.execWritePeriod l bytes s
  | .unassignedCommand l code => Sys2Proof.Machine.execUnassignedCommand l code s
  | .readPeriod l n => Sys2Proof.Machine.execReadPeriod l n s
  | .enable l => Sys2Proof.Machine.execEnable l s
  | .disable l => Sys2Proof.Machine.execDisable l s
  | .post l segs => Sys2Proof.Machine.execPost l segs s
  | .replace l segs => Sys2Proof.Machine.execReplace l segs s
  | .halt l arm => Sys2Proof.Machine.execHalt l arm s
  | .resume l => Sys2Proof.Machine.execResume l s
  | .clear l => Sys2Proof.Machine.execClear l s
  | .override l value => Sys2Proof.Machine.execOverride l value s
  | .readPoints l => Sys2Proof.Machine.execReadPoints l s
  | .requestChange l e => Sys2Proof.Machine.execRequestChange l e s
  | .changeDone l => Sys2Proof.Machine.execChangeDone l s
  | .abortChange l arm => Sys2Proof.Machine.execAbortChange l arm s
  | .qualify l e => Sys2Proof.Machine.execQualify l e s
  | .verifyProbe l => Sys2Proof.Machine.execVerifyProbe l s
  | .armReset l arm => Sys2Proof.Machine.execArmReset l arm s
  | .armStatus l arm => Sys2Proof.Machine.execArmStatus l arm s
  | .readSnapshot l => Sys2Proof.Machine.execReadSnapshot l s
  | .readProbe l slot => Sys2Proof.Machine.execReadProbe l slot s
  | .readPocket l pocket => Sys2Proof.Machine.execReadPocket l pocket s
  | .readZone l zone => Sys2Proof.Machine.execReadZone l zone s
  | .readChannel l channel => Sys2Proof.Machine.execReadChannel l channel s
  | .readCalibration l arm => Sys2Proof.Machine.execReadCalibration l arm s
  | .readTrap l => Sys2Proof.Machine.execReadTrap l s
  | .identify l => Sys2Proof.Machine.execIdentify l s
  | .status l => Sys2Proof.Machine.execStatus l s
  | .writeCalibration l arm e => Sys2Proof.Machine.execWriteCalibration l arm e s
  | .writeWorkpiece l e => Sys2Proof.Machine.execWriteWorkpiece l e s
  | .writeZone l zone e => Sys2Proof.Machine.execWriteZone l zone e s
  | .writeChannel l channel e => Sys2Proof.Machine.execWriteChannel l channel e s
  | .editScanList l mode interval entries => Sys2Proof.Machine.execEditScanList l mode interval entries s
  | .setScanInterval l interval => Sys2Proof.Machine.execSetScanInterval l interval s
  | .setTimer l arm n d => Sys2Proof.Machine.execSetTimer l arm n d s
  | .setSync l spA spB scan => Sys2Proof.Machine.execSetSync l spA spB scan s
  | .writeSettings l e => Sys2Proof.Machine.execWriteSettings l e s
  | .registerProbe l e => Sys2Proof.Machine.execRegisterProbe l e s
  | .writeProbe l e => Sys2Proof.Machine.execWriteProbe l e s
  | .retireProbe l slot => Sys2Proof.Machine.execRetireProbe l slot s
  | .setProtection l slot value => Sys2Proof.Machine.execSetProtection l slot value s
  | .freezeProtection l => Sys2Proof.Machine.execFreezeProtection l s
  | .lockProbe l slot => Sys2Proof.Machine.execLockProbe l slot s
  | .unlockProbe l slot => Sys2Proof.Machine.execUnlockProbe l slot s
  | .writePocket l pocket use => Sys2Proof.Machine.execWritePocket l pocket use s
  | .inventory l => Sys2Proof.Machine.execInventory l s
  | .clearRackFault l => Sys2Proof.Machine.execClearRackFault l s
  | .clearTrap l => Sys2Proof.Machine.execClearTrap l s
  | .save l => Sys2Proof.Machine.execSave l s
  | .reload l => Sys2Proof.Machine.execReload l s
  | .setpointExpiry arm => Sys2Proof.Machine.execSetpointExpiry arm s
  | .scanExpiry => Sys2Proof.Machine.execScanExpiry s
  | .conversionComplete code => Sys2Proof.Machine.execConversionComplete code s
  | .lingerExpiry arm => Sys2Proof.Machine.execLingerExpiry arm s
  | .stepTimerExpiry => Sys2Proof.Machine.execStepTimerExpiry s
  | .rackTimerExpiry => Sys2Proof.Machine.execRackTimerExpiry s
  | .dropReadRepeat => Sys2Proof.Machine.execDropReadRepeat s
  | .identityReadComplete arm answer => Sys2Proof.Machine.execIdentityReadComplete arm answer s
  | .savePageWritten ack => Sys2Proof.Machine.execSavePageWritten ack s
  | .quadratureCount arm axis sense => Sys2Proof.Machine.execQuadratureCount arm axis sense s
  | .illegalTransition arm axis => Sys2Proof.Machine.execIllegalTransition arm axis s
  | .referenceMark arm axis => Sys2Proof.Machine.execReferenceMark arm axis s
  | .dfltChange arm level => Sys2Proof.Machine.execDfltChange arm level s
  | .csyncEdge => Sys2Proof.Machine.execCsyncEdge s
  | .triggerEdge arm => Sys2Proof.Machine.execTriggerEdge arm s
  | .triggerRelease arm => Sys2Proof.Machine.execTriggerRelease arm s
  | .pocketChange pocket level => Sys2Proof.Machine.execPocketChange pocket level s
  | .rackOpenChange level => Sys2Proof.Machine.execRackOpenChange level s
  | .rackClosedChange level => Sys2Proof.Machine.execRackClosedChange level s
  | .driveFrameEnd arm => Sys2Proof.Machine.execDriveFrameEnd arm s

end Sys2Proof.Machine
end

