-- ==== Sys2Proof/Machine/Clock.lean ====
section
/-! DEFINITION. What the block does on an empty queue (log 2): something that has fallen due is done, or one reference
period passes (R43). A request that waits for its owner is taken; an expired timer gives its expiry. -/
namespace Sys2Proof.Machine

/-- The reference periods a frame takes on a DRV line (R204). -/
def frameBits : Nat := 140

/-- Whether a running timer has reached its length. -/
def expired (t : Option Timer) : Bool := t.any fun t => decide (t.length ≤ t.count)

/-- The request a PENDING link holds for its owner (R188). -/
def LinkState.waits (l : LinkState) : List Instr :=
  if l.phase = .pending && decide (l.work = some .owner) then l.request.toList else []

/-- One command when a condition holds. -/
def dueIf (b : Bool) (c : Instr) : List Instr := if b then [c] else []

/-- Whether a setpoint timer's period has ended (R44). -/
def SetpointTimer.ended (t : SetpointTimer) : Bool := decide (0 < t.length) && decide (t.length ≤ t.count)

/-- Whether the frame being sent on a line has ended (R204). -/
def AxisUnit.frameEnded (u : AxisUnit) : Bool := !u.line.isEmpty && decide (frameBits ≤ u.bits)

/-- What has fallen due and not been taken: requests of the links, the expiries of the timers, which run while the part
is READY (R52, R116, R146), and the ends of drive frames. -/
def due (s : State) : List Instr :=
  let timed :=
    dueIf (s.timers.get .A).ended (.setpointExpiry .A) ++ dueIf (s.timers.get .B).ended (.setpointExpiry .B)
      ++ dueIf (decide (0 < s.scanTimer.length) && decide (s.scanTimer.length ≤ s.scanTimer.count)) .scanExpiry
      ++ dueIf (expired (s.linger.get .A)) (.lingerExpiry .A) ++ dueIf (expired (s.linger.get .B)) (.lingerExpiry .B)
      ++ dueIf (expired s.rack.rackTimer) .rackTimerExpiry ++ dueIf (expired s.rack.stepTimer) .stepTimerExpiry
      ++ dueIf (expired s.rack.dropTimer) .dropReadRepeat
  s.links.a.waits ++ s.links.b.waits ++ s.links.s.waits
    ++ dueIf (s.axes.get .A).frameEnded (.driveFrameEnd .A) ++ dueIf (s.axes.get .B).frameEnded (.driveFrameEnd .B)
    ++ (if s.ready then timed else [])

/-- A timer one reference period on. -/
def tickTimer (t : Timer) : Timer := { t with count := t.count + 1 }

/-- A frame one bit time on (R204). -/
def AxisUnit.tick (u : AxisUnit) : AxisUnit := if u.line.isEmpty then u else { u with bits := u.bits + 1 }

/-- The timers that run while the part is READY, one reference period on (R43, R44, R48, R116, R146). -/
def tickTimers (s : State) : State :=
  { s with
    timers := s.timers.map fun (t : SetpointTimer) => { t with count := t.count + 1 }
    scanTimer := tickTimer s.scanTimer
    linger := s.linger.map fun t => t.map tickTimer
    rack := { s.rack with
      rackTimer := s.rack.rackTimer.map tickTimer
      stepTimer := s.rack.stepTimer.map tickTimer
      dropTimer := s.rack.dropTimer.map tickTimer } }

/-- One reference period (R43). -/
def tick (s : State) : State :=
  let s1 := { s with axes := s.axes.map AxisUnit.tick }
  if s.ready then tickTimers s1 else s1

/-- The idle step (log 2). Where several things are due, which comes first is a free value, as the spec allows either
order. -/
def idle (s : State) : Host.Outcome State Fault Refusal :=
  match due s with
  | [] => .next (tick s)
  | [c] => exec c s
  | c :: d :: rest =>
    let cs := c :: d :: rest
    exec (cs.getD (Config.tieIndex s.choices % cs.length) c) { s with choices := s.choices + 1 }

end Sys2Proof.Machine
end

