-- ==== Sys2Proof/Safety.lean ====
section
/-! DEFINITION. What counts as a safe state: the bounds the spec gives its lists and counters, drive enables that follow
the arm states, attention lines that follow the notice flags, tables of records and pockets that agree, a rack held and
asked open for a change alone, and one waiter entry per arm. -/
namespace Sys2Proof.Safety
open Sys2Proof.Machine

/-- The lists and counters of one arm keep their bounds (R60, R74, R97, R177, R178). -/
def ArmBounds (s : State) (a : Arm) : Prop :=
  (s.motion.get a).queue.length ≤ 16 ∧ (s.motion.get a).results.length ≤ 8
    ∧ (s.motion.get a).resultCount < 65536 ∧ (s.capture.get a).points.length ≤ 32
    ∧ (s.capture.get a).seq < 65536 ∧ (s.axes.get a).frameCount < 256

/-- Every list and counter keeps its bounds; the fault count and the epoch too (R38, R198). -/
def Bounds (s : State) : Prop :=
  ArmBounds s .A ∧ ArmBounds s .B ∧ s.faultCount ≤ 65535 ∧ s.snapshot.epoch < 65536

/-- DEN is asserted only in IDLE, WAITING, MOVING, STOPPING, HELD and COLLISION, and always there (R63). -/
def DriveEnable (s : State) : Prop := ∀ a : Arm, (s.axes.get a).den = denOf (s.motion.get a).phase

/-- Each ATTN line is asserted while its link's flags and mask share a kind (R196). -/
def Attention (s : State) : Prop := ∀ l : Link, (s.links.get l).attn = attnOf (s.links.get l).flags (s.links.get l).mask

/-- A pocket is OCCUPIED by a record exactly while that record is STORED in it, and at most one record is MOUNTED on an
arm (R125, R126). -/
def Tables (s : State) : Prop :=
  (∀ (p : PocketId) (n : Slot),
    (s.pockets.get p).state = .occupied n ↔ ∃ r, s.probes.get n = some r ∧ r.place = .stored p)
  ∧ ∀ (a : Arm) (m n : Slot) (q r : Probe), s.probes.get m = some q → s.probes.get n = some r →
    q.place = .mounted a → r.place = .mounted a → m = n

/-- A zone is held for CHANGE by an arm only while that arm's change is past WAIT_RACK (R108), and RACK-REQ is asserted
only while a change is in OPENING, AWAIT_DROP, AWAIT_PICK or FAILED_OPEN (R146). -/
def RackHeld (s : State) : Prop :=
  (∀ (z : ZoneId) (a : Arm), s.holders.get z = some (a, .change) →
    ∃ c, s.change.get a = some c ∧ c.step ≠ .waitRack)
  ∧ (s.rack.req = true → ∃ (a : Arm) (c : Context), s.change.get a = some c
      ∧ (c.step = .opening ∨ c.step = .awaitDrop ∨ c.step = .awaitPick ∨ c.step = .failedOpen))

/-- An arm has at most one waiter entry (R114). -/
def OneEntry (s : State) : Prop := (s.waiters.map (·.arm)).Nodup

/-- A step that goes on keeps a property of states. -/
def Kept (P : State → Prop) : Prop := ∀ s t : State, P s → step s = .next t → P t

/-- A request row whose request its owner takes in this event: its link is IDLE or READY, and the row brings the request,
or its link is PENDING with this very request (R188; log 5). -/
def Takes (s : State) (l : Link) (c : Instr) : Prop :=
  ((s.links.get l).phase = .idle ∨ (s.links.get l).phase = .ready) ∨ s.holdsRequest l c = true

/-- The state with a link answered: READY with the response, the request gone. A request that arrives clears the overrun
mark, one that waited keeps it (R188, R189). -/
def answered (s : State) (l : Link) (code : Code) (p : Payload) : State :=
  s.modLink l fun x =>
    { x with
      phase := .ready, buffer := [], request := none, work := none, response := some ⟨code, p⟩,
      overrun := decide (x.phase = .pending) && x.overrun }

/-- The state with a link's request taken for the work its owner starts: PENDING, with no request and this work; a request
that arrives also drops an unread response and clears the overrun mark (R188, R189, R194). -/
def awaiting (s : State) (l : Link) (w : Work) : State :=
  s.modLink l fun x =>
    if x.phase = .pending then { x with request := none, work := some w }
    else
      { x with phase := .pending, response := none, overrun := false, buffer := [], request := none, work := some w }

/-! ### What a command does, in the words the statements use -/

/-- Command c takes state s to state t. -/
def Goes (c : Instr) (s t : State) : Prop := exec c s = .next t

/-- A request taken on link l is answered OK with a payload; all else stands as in u. -/
def Answers (c : Instr) (l : Link) (s u : State) (p : Payload := .none) : Prop := Goes c s (answered u l .ok p)

/-- A request taken on link l is refused with a code and no payload, and changes nothing but its link (R191). -/
def Refuses (c : Instr) (l : Link) (s : State) (code : Code) : Prop := Goes c s (answered s l code .none)

/-- The link a request row is written on; none for a row that is no request. -/
def linkOf : Instr → Option Link
  | .enable l | .disable l | .post l _ | .replace l _ | .halt l _ | .resume l | .clear l | .override l _
  | .readPoints l | .requestChange l _ | .changeDone l | .abortChange l _ | .qualify l _ | .verifyProbe l
  | .armReset l _ | .armStatus l _ | .readSnapshot l | .readProbe l _ | .readPocket l _ | .readZone l _
  | .readChannel l _ | .readCalibration l _ | .readTrap l | .identify l | .status l | .writeCalibration l _ _
  | .writeWorkpiece l _ | .writeZone l _ _ | .writeChannel l _ _ | .editScanList l _ _ _ | .setScanInterval l _
  | .setTimer l _ _ _ | .setSync l _ _ _ | .writeSettings l _ | .registerProbe l _ | .writeProbe l _
  | .retireProbe l _ | .setProtection l _ _ | .freezeProtection l | .lockProbe l _ | .unlockProbe l _
  | .writePocket l _ _ | .inventory l | .clearRackFault l | .clearTrap l | .save l | .reload l => some l
  | .reset | .sectionLoadComplete .. | .writePeriod .. | .unassignedCommand .. | .readPeriod ..
  | .setpointExpiry .. | .scanExpiry | .conversionComplete .. | .lingerExpiry .. | .stepTimerExpiry
  | .rackTimerExpiry | .dropReadRepeat | .identityReadComplete .. | .savePageWritten .. | .quadratureCount ..
  | .illegalTransition .. | .referenceMark .. | .dfltChange .. | .csyncEdge | .triggerEdge .. | .triggerRelease ..
  | .pocketChange .. | .rackOpenChange .. | .rackClosedChange .. | .driveFrameEnd .. => none

/-- The command code of a request row (R193); none for a row that is no request. -/
def codeOf : Instr → Option Nat
  | .enable _ => some 0x10
  | .disable _ => some 0x11
  | .post .. => some 0x12
  | .replace .. => some 0x13
  | .halt .. => some 0x14
  | .resume _ => some 0x15
  | .clear _ => some 0x16
  | .override .. => some 0x17
  | .readPoints _ => some 0x18
  | .requestChange .. => some 0x19
  | .changeDone _ => some 0x1A
  | .abortChange .. => some 0x1B
  | .qualify .. => some 0x1C
  | .verifyProbe _ => some 0x1D
  | .armReset .. => some 0x1E
  | .armStatus .. => some 0x40
  | .readSnapshot _ => some 0x41
  | .readProbe .. => some 0x42
  | .readPocket .. => some 0x43
  | .readZone .. => some 0x44
  | .readChannel .. => some 0x45
  | .readCalibration .. => some 0x46
  | .readTrap _ => some 0x47
  | .identify _ => some 0x48
  | .status _ => some 0x49
  | .writeCalibration .. => some 0x60
  | .writeWorkpiece .. => some 0x61
  | .writeZone .. => some 0x62
  | .writeChannel .. => some 0x63
  | .editScanList .. => some 0x64
  | .setScanInterval .. => some 0x65
  | .setTimer .. => some 0x66
  | .setSync .. => some 0x67
  | .writeSettings .. => some 0x68
  | .registerProbe .. => some 0x69
  | .writeProbe .. => some 0x6A
  | .retireProbe .. => some 0x6B
  | .setProtection .. => some 0x6C
  | .freezeProtection _ => some 0x6D
  | .lockProbe .. => some 0x6E
  | .unlockProbe .. => some 0x6F
  | .writePocket .. => some 0x70
  | .inventory _ => some 0x71
  | .clearRackFault _ => some 0x72
  | .clearTrap _ => some 0x73
  | .save _ => some 0x74
  | .reload _ => some 0x75
  | .reset | .sectionLoadComplete .. | .writePeriod .. | .unassignedCommand .. | .readPeriod ..
  | .setpointExpiry .. | .scanExpiry | .conversionComplete .. | .lingerExpiry .. | .stepTimerExpiry
  | .rackTimerExpiry | .dropReadRepeat | .identityReadComplete .. | .savePageWritten .. | .quadratureCount ..
  | .illegalTransition .. | .referenceMark .. | .dfltChange .. | .csyncEdge | .triggerEdge .. | .triggerRelease ..
  | .pocketChange .. | .rackOpenChange .. | .rackClosedChange .. | .driveFrameEnd .. => none

/-- The payload lengths that pass the length check for a code sent on a link (R193, R203). -/
def lengthsOf (l : Link) (code : Nat) : List Nat :=
  if code ∈ [0x12, 0x13] then [29, 58, 87, 116]
  else if code ∈ [0x14, 0x1B, 0x1E] then [if l = .S then 1 else 0]
  else if code ∈ [0x17, 0x40, 0x42, 0x43, 0x44, 0x45, 0x46, 0x67, 0x6B, 0x6E, 0x6F] then [1]
  else if code ∈ [0x65, 0x6C, 0x70] then [2]
  else if code = 0x66 then [4]
  else if code = 0x19 then [5]
  else if code = 0x6A then [9]
  else if code = 0x63 then [12]
  else if code = 0x69 then [14]
  else if code ∈ [0x1C, 0x61] then [16]
  else if code = 0x68 then [22]
  else if code = 0x62 then [27]
  else if code = 0x60 then [74]
  else if code = 0x64 then (List.range 33).map (· + 3)
  else [0]

/-- The n-byte field at a place of a list of bytes, least significant byte first (10.7). -/
def field (bs : List Byte) (i : Nat) : Nat → Nat
  | 0 => 0
  | n + 1 => (bs.getD i 0#8).toNat + 256 * field bs (i + 1) n

/-- The 24 bytes of a point record (R202): what is absent is 0 and shown by its presence bit. -/
def RecordBytes (p : Point) (bs : List Byte) : Prop :=
  let bit := fun i k : Nat => (field bs i 2).testBit k
  bs.length = 24 ∧ field bs 0 2 = p.seq % 65536 ∧ field bs 2 1 < 16
    ∧ (bit 2 0 = true ↔ p.kind = .contact) ∧ (bit 2 1 = true ↔ p.tag ≠ none) ∧ (bit 2 2 = true ↔ p.probe ≠ none)
    ∧ (bit 2 3 = true ↔ p.generation ≠ none) ∧ field bs 3 1 = (p.probe.map (·.val)).getD 0 ∧ field bs 4 2 < 1024
    ∧ bit 4 0 = p.flags.unqualified ∧ bit 4 1 = p.flags.qualStale ∧ bit 4 2 = p.flags.thermStale
    ∧ bit 4 3 = p.flags.wpFromAir ∧ bit 4 4 = p.flags.wpHeld ∧ bit 4 5 = p.flags.gradient
    ∧ bit 4 6 = p.flags.noDirection ∧ bit 4 7 = p.flags.clamped ∧ bit 4 8 = p.flags.uncalibrated
    ∧ bit 4 9 = p.flags.noProbe ∧ field bs 6 2 = p.tag.getD 0 % 65536 ∧ field bs 8 2 = p.generation.getD 0 % 65536
    ∧ field bs 10 2 = p.epoch % 65536 ∧ (field bs 12 4 : Int) = p.q.x % 4294967296
    ∧ (field bs 16 4 : Int) = p.q.y % 4294967296 ∧ (field bs 20 4 : Int) = p.q.z % 4294967296

/-- The 14 bytes of a drive frame (R204). -/
def FrameBytes (f : Frame) (bs : List Byte) : Prop :=
  bs.length = 14 ∧ field bs 0 1 = f.count % 256 ∧ field bs 1 1 = (if f.enable then 1 else 0)
    ∧ (field bs 2 4 : Int) = f.setpoints.x % 4294967296 ∧ (field bs 6 4 : Int) = f.setpoints.y % 4294967296
    ∧ (field bs 10 4 : Int) = f.setpoints.z % 4294967296

/-- How HALT, ABORT CHANGE and ARM RESET name an arm: an arm's own link with no payload, or link S with the arm's byte
(R192). -/
def Names (l : Link) (x : Option (Option Arm)) (a : Arm) : Prop :=
  (l.arm? = some a ∧ x = none) ∨ (l = .S ∧ x = some (some a))

/-- A setpoint timer after a number of period starts (R44). -/
def periodsOn : Nat → SetpointTimer → SetpointTimer
  | 0, t => t
  | k + 1, t => (periodsOn k t).startPeriod

/-- State t is state u but for what a standing recompute, a release or a linger may change while no arm waits: the
zones' holders, the standing sets, the deferred recomputes, the linger timers and the hand-over counts (R109, R116,
R117). -/
def ExceptZones (u t : State) : Prop :=
  t = { u with
    holders := t.holders, standing := t.standing, deferred := t.deferred, linger := t.linger,
    handover := t.handover }

/-- No arm waits for zones but, it may be, this arm for its head: the waiter list is empty, or holds this arm's SEGMENT
entry alone while the arm is WAITING(ZONE) with a head (R113, R114). -/
def Alone (s : State) (a : Arm) : Prop :=
  s.waiters = [] ∨ ((s.motion.get a).phase = .waiting .zone ∧ (s.motion.get a).queue ≠ []
    ∧ ∃ zs, s.waiters = [⟨a, .segment, zs⟩])

/-- The arm holds no zone for SEGMENT or LINGER (R108). -/
def NoLoose (s : State) (a : Arm) : Prop :=
  ∀ (z : ZoneId) (r : HoldWhy), s.holders.get z = some (a, r) → r ≠ .segment ∧ r ≠ .linger

/-! ### Boxes, paths and zones -/

/-- The box a point expanded by a reach makes (R107). -/
def Around (p : Vec3) (r : Int) : Box := ⟨.of fun i => p.get i - r, .of fun i => p.get i + r⟩

/-- The mount of an arm, read from the tables (R126): the record MOUNTED on it, else the dropped record of its change while
that is IN_TRANSIT with the drop not confirmed, else a module of UNKNOWN identity or none, as the UNKNOWN flag says. -/
def MountIs (s : State) (a : Arm) (m : Mount) : Prop :=
  let mounted := fun n : Slot => ∃ r, s.probes.get n = some r ∧ r.place = .mounted a
  let moving := fun n : Slot => ∃ c p r, s.change.get a = some c ∧ c.drop = some (p, .slot n) ∧ c.dropConfirmed = false
    ∧ s.probes.get n = some r ∧ r.place = .inTransit a
  (∀ n, mounted n → m = .record n) ∧ (∀ n, (∀ k, ¬ mounted k) → moving n → m = .record n)
    ∧ ((∀ k, ¬ mounted k) → (∀ k, ¬ moving k) → m = if s.unknown.get a = true then .unknown else .none)

/-- The reach of an arm (R106): the envelope margin and the reach of its mount, 8,000,000 for a module of UNKNOWN identity
and 0 for none; past WAIT_RACK the larger of the dropped and the take probe's, as the context keeps them (log 21). -/
def ReachIs (s : State) (a : Arm) (r : Int) : Prop :=
  let plus := fun x : Nat => r = ((s.cal.get a).envelope : Int) + x
  ((∀ c, s.change.get a = some c → c.step = .waitRack) →
    (∀ n p, s.mount a = .record n → s.probes.get n = some p → plus p.reach)
      ∧ (s.mount a = .unknown → plus 8000000) ∧ (s.mount a = .none → plus 0))
  ∧ ∀ c, s.change.get a = some c → c.step ≠ .waitRack →
    let dropped := if c.drop = none then 0 else c.dropReach
    (c.take = none → plus dropped)
      ∧ (c.take ≠ none → c.pickConfirmed = false → plus (max dropped c.takeReach))
      ∧ ∀ p n k, c.take = some (p, n) → c.pickConfirmed = true → s.probes.get n = some k → plus (max dropped k.reach)

/-- Two boxes meet: on no axis does one end before the other begins, and boundaries that touch meet (R107). -/
def Meets (x y : Box) : Prop := ∀ i : Axis, x.lo.get i ≤ y.hi.get i ∧ y.lo.get i ≤ x.hi.get i

/-- Stage 4's FORBIDDEN test: the swept box meets a FORBIDDEN zone, or the end box does where the start box already meets
it (R81, R107). -/
def InForbidden (s : State) (a : Arm) (g : Geometry) : Prop :=
  ∃ z : ZoneId, (s.zones.get z).kind = .forbidden
    ∧ (Meets (Around g.start (s.reach a)) (s.zones.get z).box → Meets (Around g.finish (s.reach a)) (s.zones.get z).box)
    ∧ (¬ Meets (Around g.start (s.reach a)) (s.zones.get z).box → Meets g.swept (s.zones.get z).box)

/-- Stage 4's RACK test: the swept box meets the RACK zone (R81). -/
def InRackZone (s : State) (g : Geometry) : Prop :=
  ∃ z : ZoneId, (s.zones.get z).kind = .rack ∧ Meets g.swept (s.zones.get z).box

/-- Stage 5, the hand-over check: the end box meets a needed zone whose count has reached K (R120). -/
def HandoverBars (s : State) (a : Arm) (g : Geometry) : Prop :=
  ∃ h ∈ s.handover, h.holder = a ∧ h.zone ∈ g.needed ∧ (s.zones.get h.zone).k ≤ h.count
    ∧ Meets (Around g.finish (s.reach a)) (s.zones.get h.zone).box

/-- The length isqrt(x² + y² + z²) of a displacement (R80). -/
def lengthOf (d : Vec3) : Nat := isqrt (d.x * d.x + d.y * d.y + d.z * d.z).toNat

/-- The geometry that stages 3 and 4 form for a move with a target (R80, R81, R107), and the zones it needs (R111): the
start is the forward conversion of the standing setpoints (R16), a PROBE ends beyond its target by its overtravel along the
line, d and L are the difference and its length. -/
def Formed (s : State) (a : Arm) (m : Move) (target : Vec3) (g : Geometry) : Prop :=
  let d0 : Vec3 := .of fun i => target.get i - g.start.get i
  (∀ i, let k := (s.cal.get a).axis.get i
    let c := ((s.axes.get a).axis.get i).standing
    let x := k.base + k.sign
      * (c + roundDiv (c * k.alpha * ((s.snapshot.groups.scale.get a).get i).temp) 1000000000000)
    g.start.get i = max (-2147483648) (min x 2147483647))
  ∧ (∀ i, g.finish.get i = match m with
      | .probe _ beyond => target.get i + roundDiv (beyond * d0.get i) (lengthOf d0)
      | _ => target.get i)
  ∧ (∀ i, g.d.get i = g.finish.get i - g.start.get i) ∧ g.len = lengthOf g.d
  ∧ (∀ i, g.swept.lo.get i = min (g.start.get i) (g.finish.get i) - s.reach a
      ∧ g.swept.hi.get i = max (g.start.get i) (g.finish.get i) + s.reach a)
  ∧ (∀ z : ZoneId, z ∈ g.needed ↔
      ((s.zones.get z).kind = .shared ∧ Meets g.swept (s.zones.get z).box) ∨ (m.kind = .rack ∧ s.rackZone = some z))

/-- The working record of a segment with a target, at its activation (R83, R84): d and L from stage 3, raw_end by the
inverse conversion, v_feed from the posted feed within 1 and v_lim, p and v 0, ACTIVE. -/
def PathOf (s : State) (a : Arm) (h : Segment) (g : Geometry) (w : Working) : Prop :=
  let t := s.timers.get a
  let per := fun f : Nat => roundDiv (f * t.n) (t.d * 1000000)
  let limit := if per (s.cal.get a).vMax = 0 then 1 else per (s.cal.get a).vMax
  w.seg = h ∧ w.geometry = some g ∧ w.d = g.d ∧ w.len = g.len ∧ w.epoch = s.snapshot.epoch
  ∧ w.rawStart = (s.axes.get a).axis.map (·.standing)
  ∧ (∀ i, let k := (s.cal.get a).axis.get i
    let x := k.sign * (g.finish.get i - k.base)
    w.rawEnd.get i = x - roundDiv (x * (k.alpha * ((s.snapshot.groups.scale.get a).get i).temp)) 1000000000000)
  ∧ (w.vFeed : Int) = max 1 (min (per h.feed) limit) ∧ w.p = 0 ∧ w.v = 0 ∧ w.status = .active

/-- The setpoints of a working record at its p (R86): raw_start + R((raw_end - raw_start) p, L) modulo 2^32, in the signed
range. For a HOME the difference is that modulo 2^32 in the signed range (log 19). -/
def OnPath (w : Working) (sp : Vec3) : Prop :=
  ∀ i : Axis, ∃ span : Int,
    (match w.seg.move with
      | .home _ _ _ => -2147483648 ≤ span ∧ span ≤ 2147483647
          ∧ (span - (w.rawEnd.get i - w.rawStart.get i)) % 4294967296 = 0
      | _ => span = w.rawEnd.get i - w.rawStart.get i)
    ∧ -2147483648 ≤ sp.get i ∧ sp.get i ≤ 2147483647
    ∧ (sp.get i - (w.rawStart.get i + roundDiv (span * w.p) w.len)) % 4294967296 = 0

/-- What a release of zones by an arm leaves while no arm waits (R117, R118): each goes to the other arm where it is in that
arm's standing set, for CLAIM or STANDING, and is free else; the arm's hand-over counts for them end; every other zone,
every other count and the standing sets stay. -/
def HandsOn (s t : State) (a : Arm) (zs : ZoneId → Prop) : Prop :=
  (∀ z, zs z → t.holders.get z = if z ∈ s.standing.get a.other then
      some (a.other, if s.unreferenced a.other = true then .claim else .standing) else none)
    ∧ (∀ z, ¬ zs z → t.holders.get z = s.holders.get z)
    ∧ (∀ h, h ∈ t.handover ↔ h ∈ s.handover ∧ ¬ (h.holder = a ∧ zs h.zone)) ∧ t.standing = s.standing

/-- What the wait of an arm's head starts (R113 steps 3 and 4, R118): no needed zone lingers with the other arm, and each
needed zone with K above 0 that the other arm holds has a hand-over count of 0; no other count is new. -/
def StartsCounts (s t : State) (a : Arm) (needed : List ZoneId) : Prop :=
  let counted := fun z => z ∈ needed ∧ 0 < (s.zones.get z).k ∧ ∃ why, t.holders.get z = some (a.other, why)
  (∀ z ∈ needed, t.holders.get z ≠ some (a.other, .linger))
    ∧ (∀ z, counted z → ⟨a.other, z, 0⟩ ∈ t.handover)
    ∧ (∀ h ∈ t.handover, h ∈ s.handover ∨ (counted h.zone ∧ h.holder = a.other ∧ h.count = 0))

/-- Who holds what when an arm's head has been granted its zones and started (R111, R116, R117): a needed SHARED zone stays
the arm's for STANDING or CLAIM and else is its for SEGMENT, also where it lingered with the other arm (log 44); what the arm
held for SEGMENT or LINGER and the head does not need goes to the other arm where it is in that arm's standing set, for CLAIM
or STANDING, and is free else; every other zone stays. The arm's linger timer has stopped, and so has the other arm's where
no zone lingers with it any more. -/
def Granted (s t : State) (a : Arm) (needed : List ZoneId) : Prop :=
  (∀ z : ZoneId, z ∈ needed → (s.zones.get z).kind = .shared → t.holders.get z =
      if s.holders.get z = some (a, .standing) ∨ s.holders.get z = some (a, .claim) then s.holders.get z
      else some (a, .segment))
    ∧ (∀ z : ZoneId, z ∈ needed → (s.zones.get z).kind ≠ .shared → s.holders.get z ≠ some (a, .linger) →
        t.holders.get z = s.holders.get z)
    ∧ (∀ z : ZoneId, z ∉ needed → t.holders.get z =
        if s.holders.get z = some (a, .segment) ∨ s.holders.get z = some (a, .linger) then
          (if z ∈ s.standing.get a.other then
            some (a.other, if s.unreferenced a.other = true then .claim else .standing) else none)
        else s.holders.get z)
    ∧ t.linger.get a = none ∧ t.standing = s.standing
    ∧ ((∃ z, t.holders.get z = some (a.other, .linger)) → t.linger.get a.other = s.linger.get a.other)
    ∧ ((∀ z, t.holders.get z ≠ some (a.other, .linger)) → t.linger.get a.other = none)

/-- What an activation does to the hand-over counts (R118, R119): one more for each counted zone of the arm that the segment
needs, up to K; none of the other arm stays for such a zone, since the grant has taken it. -/
def RaisesCounts (s t : State) (a : Arm) (needed : List ZoneId) : Prop :=
  (∀ h ∈ s.handover, h.holder = a → h.zone ∈ needed →
      { h with count := min (h.count + 1) (s.zones.get h.zone).k } ∈ t.handover)
    ∧ (∀ x ∈ t.handover, ∃ h ∈ s.handover, x.holder = h.holder ∧ x.zone = h.zone
        ∧ (h.zone ∈ needed → x.holder = a ∧ x.count = min (h.count + 1) (s.zones.get h.zone).k)
        ∧ (h.zone ∉ needed → x.count = h.count))

/-- What a standing recompute (R109, R110) leaves of state s in state t for an enabled arm without an active segment, while
no arm waits: a free SHARED zone of the new set is taken, one of the other arm is kept, one the arm holds outside the new
set becomes LINGER, and the linger timer starts from its full length, or stops where no zone lingers; with length 0 the zones
are released at once, to the other arm's standing set or to none (R116, R117). A zone held for CLAIM in the new set stays
CLAIM while an axis is UNREFERENCED (log 17). After a segment end it is so of the zones held for SEGMENT too (R115). The new
set is every SHARED zone that the standing box meets, or every SHARED zone while an axis is UNREFERENCED. -/
def Rests (s t : State) (a : Arm) : Prop :=
  let new := s.standingSet a
  let deemed := fun b : Arm => if s.unreferenced b = true then HoldWhy.claim else .standing
  t.standing = s.standing.set a new
    ∧ (∀ z : ZoneId, z ∈ new ↔ (s.zones.get z).kind = .shared
        ∧ (s.unreferenced a = true ∨ Meets (Around (s.position a) (s.reach a)) (s.zones.get z).box))
    ∧ (∀ (z : ZoneId) (b : Arm), (s.zones.get z).kind ≠ .shared → s.holders.get z = some (b, .change) →
        t.holders.get z = some (b, .change))
    ∧ (∀ z : ZoneId, (s.zones.get z).kind = .shared →
        (s.holders.get z = none → t.holders.get z = if z ∈ new then some (a, deemed a) else none)
        ∧ (∀ r, s.holders.get z = some (a.other, r) → t.holders.get z = some (a.other, r))
        ∧ (∀ r, s.holders.get z = some (a, r) → z ∈ new →
            t.holders.get z = some (a, if r = .claim then deemed a else .standing))
        ∧ (∀ r, s.holders.get z = some (a, r) → r ≠ .change → z ∉ new →
            t.holders.get z = if s.settings.linger ≠ 0 then some (a, .linger)
              else if z ∈ s.standing.get a.other then some (a.other, deemed a.other) else none))
    ∧ ((∃ z, t.holders.get z = some (a, .linger)) → t.linger = s.linger.set a (some ⟨s.settings.linger * 10000, 0⟩))
    ∧ ((∀ z, t.holders.get z ≠ some (a, .linger)) → t.linger = s.linger.set a none)

/-- The state with no waiter entry. -/
def unwaited (s : State) : State := { s with waiters := [] }

/-- The other arm's head h waits for zones that arm a is about to release whole: its entry is the only one, and each zone of
its geometry g is its own, or a SHARED zone outside both standing sets that is free or arm a's (R113, R117). The standing set
of arm a is the one its machine position gives (R109). -/
def Yields (s : State) (a : Arm) (h : Segment) (rest : List Segment) (g : Geometry) : Prop :=
  s.waiters = [⟨a.other, .segment, g.needed⟩] ∧ (s.motion.get a.other).queue = h :: rest
    ∧ (s.motion.get a.other).geometry = some g ∧ h.move.kind ≠ .home
    ∧ (∃ z ∈ g.needed, ∃ why, s.holders.get z = some (a, why))
    ∧ ∀ z ∈ g.needed, (∃ why, s.holders.get z = some (a.other, why))
      ∨ ((s.zones.get z).kind = .shared ∧ z ∉ s.standingSet a ∧ z ∉ s.standing.get a.other
          ∧ (s.holders.get z = none ∨ ∃ why, why ≠ .change ∧ s.holders.get z = some (a, why)))

/-- The head of arm b starts on its geometry g (R83): it has left the queue and is the active segment, and no entry waits. -/
def started (s : State) (b : Arm) (h : Segment) (rest : List Segment) (g : Geometry) : State :=
  ((unwaited s).modMotion b fun m =>
    { m with queue := rest, geometry := none, active := some (s.work b h (some g)) }).setPhase b .moving

/-- State t is state u with the head of arm b started (R83, R117): all SHARED zones it needs are the arm's, and the counts its
entry had started are gone (R118). -/
def HeadStarted (u t : State) (b : Arm) (h : Segment) (rest : List Segment) (g : Geometry) : Prop :=
  ExceptZones (started u b h rest g) t
    ∧ (∀ z ∈ g.needed, (u.zones.get z).kind = .shared → ∃ why, t.holders.get z = some (b, why))
    ∧ ∀ x ∈ t.handover, x.holder ≠ b.other

/-- What the completion of an ARM RESET leaves of state s for arm a, but for its zones and its waiter entry (R101): the queue,
the results and the points are empty, the counts 0, the override 100, the arm OFF with a release frame where DEN was asserted,
nothing is pending, and the notice flags of its link are clear. -/
def resetDone (s : State) (a : Arm) : State :=
  (((s.modMotion a fun m =>
      { phase := .off, queue := [], geometry := if m.queue = [] then m.geometry else none, active := m.active,
        override := 100, results := [], resultCount := 0, resetPending := false, holdPending := false }).modAxes a
      (·.drive false)).modCapture a fun k =>
      { trig := k.trig, latch := none, points := [], seq := 0, notQueued := false }).modLink a.link fun y =>
      { y with flags := [], attn := false }

/-- The part of a state that only the commands written for it change, never the work one event sets off in other blocks:
the queue and the tie counter, the load, the SAVE, the settings, the channels with their scan list and pass, the
workpiece record and the snapshot, the SCAN enable, the calibration records, the zone records and the protection
freeze (95). -/
structure Steady where
  pending : List Instr
  choices : Nat
  loading : Option Section
  loadFaults : LoadFaults
  save : SaveState
  settings : Settings
  channels : Table 24 Channel
  scanList : List ChannelId
  scanInterval : Nat
  pass : Option Pass
  workpiece : Workpiece
  snapshot : Snapshot
  scanSync : Bool
  cal : PerArm Calibration
  zones : Table 16 Zone
  freeze : Bool
  deriving DecidableEq, Repr

/-- The steady part of a state. -/
def steady (s : State) : Steady where
  pending := s.pending
  choices := s.choices
  loading := s.loading
  loadFaults := s.loadFaults
  save := s.save
  settings := s.settings
  channels := s.channels
  scanList := s.scanList
  scanInterval := s.scanInterval
  pass := s.pass
  workpiece := s.workpiece
  snapshot := s.snapshot
  scanSync := s.scanSync
  cal := s.cal
  zones := s.zones
  freeze := s.freeze

/-! ### A change and its ends -/

/-- The arm's change, where it has one, is in FAILED_OPEN or CLOSING, which the arm's own stops leave as they are (R162). -/
def Inert (s : State) (a : Arm) : Prop :=
  ∀ k, s.change.get a = some k → k.step = .failedOpen ∨ k.step = .closing

/-- The waiter list holds nothing but, it may be, the entry of a change in WAIT_RACK for a zone the other arm holds, with
no head deferred behind it (R112). -/
def Lonely (s : State) (a : Arm) (k : Context) : Prop :=
  s.waiters = [] ∨ (k.step = .waitRack ∧ (s.motion.get a).phase ≠ .waiting .zone
    ∧ ∃ z why, s.waiters = [⟨a, .change, [z]⟩] ∧ s.holders.get z = some (a.other, why))

/-- Arm a's context k has ended with an outcome (R155): the context is gone, the outcome stands, no zone is held for it,
no entry of its for a change waits, and past WAIT_RACK RACK-REQ is deasserted and the rack's timers are stopped. An outcome other than DONE has put a take
record still IN_TRANSIT back into its pocket, where presence is active, and a dropped one back on the arm, its pocket
EMPTY, and has asked an inventory. -/
def Ended (s t : State) (a : Arm) (k : Context) (o : ChangeOutcome) : Prop :=
  t.change = s.change.set a none ∧ t.lastChange = s.lastChange.set a (some o)
    ∧ (∀ z, t.holders.get z ≠ some (a, .change)) ∧ (∀ w ∈ t.waiters, w.arm = a → w.purpose ≠ .change)
    ∧ steady t = steady s
    ∧ (k.step ≠ .waitRack →
        t.rack.req = false ∧ t.rack.rackTimer = none ∧ t.rack.stepTimer = none ∧ t.rack.dropTimer = none)
    ∧ (o ≠ .done → t.inventory ≠ .idle
      ∧ (∀ p n r, k.take = some (p, n) → (∀ q, k.drop ≠ some (q, .slot n)) → s.probes.get n = some r →
          r.place = .inTransit a → (s.pockets.get p).level = true →
          t.probes.get n = some { r with place := .stored p } ∧ (t.pockets.get p).state = .occupied n)
      ∧ (∀ p n r, k.drop = some (p, .slot n) → (∀ q m, k.take = some (q, m) → q ≠ p ∧ m ≠ n) → k.dropConfirmed = false →
          s.probes.get n = some r → r.place = .inTransit a → (s.pockets.get p).state = .reserved →
          t.probes.get n = some { r with place := .mounted a } ∧ (t.pockets.get p).state = .empty))

/-- What arm a's own FAULT, COLLISION or ARM RESET does to its context k (R162): in WAIT_RACK and OPENING it ends
FAILED(ARM), in AWAIT_DROP and AWAIT_PICK it is left FAILED_OPEN(ARM) with its reads and timers dropped, a pending read
left without an asker (log 55). -/
def Fails (s t : State) (a : Arm) (k : Context) : Prop :=
  (k.step = .waitRack ∨ k.step = .opening → Ended s t a k (.failed .arm))
    ∧ (k.step = .awaitDrop ∨ k.step = .awaitPick →
      t.change = s.change.set a (some { k with step := .failedOpen, failure := some .arm })
      ∧ t.lastChange = s.lastChange ∧ t.probes = s.probes ∧ t.pockets = s.pockets ∧ t.inventory = s.inventory
      ∧ t.readers = s.readers.set a ((s.readers.get a).discard fun q => decide (q = .drop) || decide (q = .pick))
      ∧ t.rack = { s.rack with stepTimer := none, dropTimer := none } ∧ steady t = steady s)

end Sys2Proof.Safety
end

