-- ==== Sys2Proof/WellFormed.lean ====
section
/-! DEFINITION. Well-formed commands: every operand fits the width its frame, line or device gives it (R186, R193, R203,
R205). A command that is not well formed is one no master, line or device can give (log 32). -/
namespace Sys2Proof
open Sys2Proof.Machine

/-- A number of a given width in bits. -/
def fits (w n : Nat) : Bool := decide (n < 2 ^ w)

/-- A signed number of a given width in bits. -/
def fitsS (w : Nat) (x : Int) : Bool := decide (-(2 ^ (w - 1)) ≤ x) && decide (x < 2 ^ (w - 1))

/-- Three signed 32-bit coordinates (R1). -/
def Vec3.wf (v : Vec3) : Bool := v.every (fitsS 32)

/-- A segment entry (R203). -/
def SegEntry.wf (e : SegEntry) : Bool :=
  fits 16 e.tag && Vec3.wf e.target && fits 32 e.feed && fits 32 e.overtravel && fits 32 e.search

/-- One axis of a calibration payload (R203). -/
def AxisCal.wf (k : AxisCal) : Bool :=
  fitsS 8 k.sign && fitsS 32 k.base && fitsS 32 k.reference && fits 16 k.alpha && fitsS 32 k.softMin && fitsS 32 k.softMax

/-- A calibration payload (R203). -/
def Calibration.wf (c : Calibration) : Bool :=
  c.axis.every AxisCal.wf && fits 32 c.vMax && fits 16 c.a && fits 16 c.aStop && fits 32 c.followingLimit
    && fits 32 c.envelope

/-- A workpiece payload (R203). -/
def Workpiece.wf (w : Workpiece) : Bool := fits 16 w.alpha && Vec3.wf w.w0 && fits 16 w.gradientLimit

/-- A zone payload (R203). -/
def ZoneEntry.wf (e : ZoneEntry) : Bool := Vec3.wf e.box.lo && Vec3.wf e.box.hi && fits 8 e.k

/-- A channel payload (R203). -/
def ChannelEntry.wf (e : ChannelEntry) : Bool :=
  fits 16 e.gain && fitsS 16 e.offset && fits 8 e.shift && fits 16 e.low && fits 16 e.high && fits 8 e.persistence

/-- A settings payload (R203). -/
def SettingsEntry.wf (e : SettingsEntry) : Bool :=
  fits 16 e.linger && fits 16 e.stepTimeout && fits 16 e.rackTimeout && fits 16 e.qualLimit

/-- An optional field of one byte. -/
def byteOpt (x : Option Nat) : Bool := x.all (fits 8)

/-- A location of REGISTER PROBE (R203). -/
def PlaceEntry.wf : PlaceEntry → Bool
  | .pocket p => fits 8 p
  | .arm _ => true
  | .neither => true

/-- A REGISTER PROBE payload (R203). -/
def RegisterEntry.wf (e : RegisterEntry) : Bool :=
  fits 32 e.identity && fits 32 e.reach && fits 16 e.tau && byteOpt e.home && e.place.wf

/-- A WRITE PROBE payload (R203). -/
def ProbeEntry.wf (e : ProbeEntry) : Bool := fits 8 e.slot && fits 32 e.reach && fits 16 e.tau && byteOpt e.home

/-- A REQUEST CHANGE payload (R203). -/
def ChangeEntry.wf (e : ChangeEntry) : Bool := byteOpt e.dropPocket && fits 8 e.takeSlot

/-- A QUALIFY payload (R203). -/
def QualifyEntry.wf (e : QualifyEntry) : Bool := fits 8 e.slot && Vec3.wf e.offset && fits 16 e.radius

/-- A stored qualification entry (R134, R205). -/
def Qualification.wf (q : Qualification) : Bool :=
  Vec3.wf q.offset && fits 16 q.radius && fitsS 16 q.temperature && fits 16 q.generation

/-- A stored probe record (R205). -/
def StoredProbe.wf (e : StoredProbe) : Bool :=
  fits 32 e.identity && fits 32 e.reach && fits 16 e.tau && byteOpt e.home && e.place.wf
    && e.qual.a.all Qualification.wf && e.qual.b.all Qualification.wf && fits 16 e.mountCount && fits 8 e.check

/-- The content of a section (R205). -/
def Image.wf : Image → Bool
  | .calibration cal ratio w =>
    cal.a.wf && cal.b.wf && fits 16 ratio.a.1 && fits 8 ratio.a.2 && fits 16 ratio.b.1 && fits 8 ratio.b.2 && w.wf
  | .zones zs => zs.toList.all ZoneEntry.wf
  | .channels cs scan interval =>
    cs.toList.all ChannelEntry.wf && decide (scan.length ≤ 32) && scan.all (fits 8) && fits 16 interval
  | .probes ps => ps.toList.all fun p => p.all StoredProbe.wf
  | .pockets _ => true
  | .settings e => e.wf

/-- What a section read can give: a region read as one kind holds content of that kind (R206). -/
def SectionRead.wf : SectionRead → Bool
  | .noAnswer => true
  | .region kind length content _ => kind.all (fun k => decide (content.section = k)) && fits 16 length && content.wf

/-- The bytes of a write period: its first byte is not 0x00 (R186). -/
def writeBytes : List Byte → Bool
  | [] => false
  | b :: _ => decide (b ≠ 0#8)

/-- A code that makes a request and that the table does not assign (R193). -/
def freeCode (code : Byte) : Bool := !assigned code.toNat && decide (code ≠ 0#8)

/-- Well-formed commands. A payload has at most 240 bytes (R187), which bounds its lists. -/
def Instr.wf : Instr → Bool
  | .sectionLoadComplete r => r.wf
  | .writePeriod _ bytes => writeBytes bytes
  | .unassignedCommand _ code => freeCode code
  | .post _ segs => decide (segs.length ≤ 8) && segs.all SegEntry.wf
  | .replace _ segs => decide (segs.length ≤ 8) && segs.all SegEntry.wf
  | .override _ v => fits 8 v
  | .requestChange _ e => e.wf
  | .qualify _ e => e.wf
  | .readProbe _ n => fits 8 n
  | .readPocket _ n => fits 8 n
  | .readZone _ n => fits 8 n
  | .readChannel _ n => fits 8 n
  | .writeCalibration _ _ e => e.wf
  | .writeWorkpiece _ e => e.wf
  | .writeZone _ n e => fits 8 n && e.wf
  | .writeChannel _ n e => fits 8 n && e.wf
  | .editScanList _ _ ms es => fits 16 ms && decide (es.length ≤ 237) && es.all (fits 8)
  | .setScanInterval _ ms => fits 16 ms
  | .setTimer _ _ n d => fits 16 n && fits 8 d
  | .writeSettings _ e => e.wf
  | .registerProbe _ e => e.wf
  | .writeProbe _ e => e.wf
  | .retireProbe _ n => fits 8 n
  | .setProtection _ n _ => fits 8 n
  | .lockProbe _ n => fits 8 n
  | .unlockProbe _ n => fits 8 n
  | .writePocket _ n _ => fits 8 n
  | .conversionComplete code => fits 16 code
  | .identityReadComplete _ ans => match ans with
    | .code c => fits 32 c
    | .silent => true
    | .garbled => true
  | .reset | .readPeriod .. | .enable .. | .disable .. | .halt .. | .resume .. | .clear .. | .readPoints ..
  | .changeDone .. | .abortChange .. | .verifyProbe .. | .armReset .. | .armStatus .. | .readSnapshot ..
  | .readCalibration .. | .readTrap .. | .identify .. | .status .. | .setSync .. | .freezeProtection ..
  | .inventory .. | .clearRackFault .. | .clearTrap .. | .save .. | .reload .. | .setpointExpiry .. | .scanExpiry
  | .lingerExpiry .. | .stepTimerExpiry | .rackTimerExpiry | .dropReadRepeat | .savePageWritten ..
  | .quadratureCount .. | .illegalTransition .. | .referenceMark .. | .dfltChange .. | .csyncEdge | .triggerEdge ..
  | .triggerRelease .. | .pocketChange .. | .rackOpenChange .. | .rackClosedChange .. | .driveFrameEnd .. => true

end Sys2Proof
end

