-- ==== Sys2Proof/Certificates/Slice0/Obligations.lean ====
section
/-! DEFINITION. The statements for the provers, one definition each, in the order of the spec's chapters from the command
queue and the links to the blocks. Each docstring names the rules it formalises; where it rests on a choice of the model
it names the log entry. The words the statements use stand in Sys2Proof/Safety.lean. -/

section
open Sys2Proof Sys2Proof.Machine Sys2Proof.Safety

/-! ### The queue and the idle step -/

/-- A step takes the command at the front of the queue and is exec of it on the state with the queue's rest. -/
def Obligations.StepTakesFront : Prop :=
  ∀ (c : Instr) (rest : List Instr) (s : State), s.pending = c :: rest → step s = exec c { s with pending := rest }

/-- No command, and no idle step, stops the machine: each answers a next state (every fault of the spec is a report after
which the part goes on, R198). -/
def Obligations.NothingStops : Prop :=
  (∀ (c : Instr) (s : State), ∃ t, Goes c s t) ∧ ∀ s : State, ∃ t, step s = .next t

/-- On an empty queue (log 2, the model's choice): with nothing due one reference period passes, in which the timers
count while the part is READY; with one thing due it is done; with more, one of them, and the choice is counted. Due are
the request that a PENDING link holds for its owner, the end of a frame whose 140 bits have been sent (R204), and, while the
part is READY, the expiry of every timer whose count has reached its length (R44, R48, R116, R146), and nothing else. -/
def Obligations.IdleStep : Prop :=
  ∀ s : State, s.pending = [] →
    let reached := fun x : Option Timer => ∃ t, x = some t ∧ t.length ≤ t.count
    let on := fun x : Option Timer =>
      x.map fun t => ({ t with count := t.count + (if s.startup = .ready then 1 else 0) } : Timer)
    (∀ c, c ∈ due s ↔
      (∃ l, (s.links.get l).phase = .pending ∧ (s.links.get l).work = some .owner ∧ (s.links.get l).request = some c)
      ∨ (∃ a, c = .driveFrameEnd a ∧ (s.axes.get a).line ≠ [] ∧ 140 ≤ (s.axes.get a).bits)
      ∨ (s.startup = .ready ∧
          ((∃ a, c = .setpointExpiry a ∧ 0 < (s.timers.get a).length ∧ (s.timers.get a).length ≤ (s.timers.get a).count)
          ∨ (c = .scanExpiry ∧ 0 < s.scanTimer.length ∧ s.scanTimer.length ≤ s.scanTimer.count)
          ∨ (∃ a, c = .lingerExpiry a ∧ reached (s.linger.get a))
          ∨ (c = .rackTimerExpiry ∧ reached s.rack.rackTimer) ∨ (c = .stepTimerExpiry ∧ reached s.rack.stepTimer)
          ∨ (c = .dropReadRepeat ∧ reached s.rack.dropTimer)))) ∧
    (due s = [] → step s = .next (tick s))
    ∧ (∀ c, due s = [c] → step s = exec c s)
    ∧ (∀ c d rest, due s = c :: d :: rest → ∃ x ∈ due s, step s = exec x { s with choices := s.choices + 1 })
    ∧ (∀ a : Arm, ((tick s).timers.get a).count = (s.timers.get a).count + (if s.startup = .ready then 1 else 0))
    ∧ (tick s).scanTimer.count = s.scanTimer.count + (if s.startup = .ready then 1 else 0)
    ∧ (∀ a : Arm, ((tick s).linger.get a).map (·.count)
        = ((s.linger.get a).map fun t => t.count + (if s.startup = .ready then 1 else 0)))
    ∧ (∀ a : Arm, ((tick s).axes.get a).bits
        = ((s.axes.get a).bits + (if (s.axes.get a).line = [] then 0 else 1)))
    ∧ (tick s).rack = { s.rack with
        rackTimer := on s.rack.rackTimer, stepTimer := on s.rack.stepTimer, dropTimer := on s.rack.dropTimer }
    ∧ (tick s).links = s.links ∧ (tick s).motion = s.motion

/-! ### RESET, the load and READY -/

/-- RESET puts every field at its reset value but the queue and the counter of choices (log 1) and the levels of the
input lines: DFLT, the quadrature pairs, the presences, RACK-OPEN, RACK-CLOSED and TRIG (log 10, log 26, the model's
choices). That a frame on a DRV line is dropped is log 40, and that the working copies hold their defaults until their
sections are installed is log 37, both the model's choices. -/
def Obligations.ResetRow : Prop :=
  ∀ s : State, Goes .reset s
    { State.reset with
      pending := s.pending
      choices := s.choices
      axes := s.axes.map fun u =>
        { axis := u.axis.map fun x => { AxisState.reset with pair := x.pair }
          den := false, dflt := u.dflt, frameCount := 0, line := [], bits := 0 }
      pockets := s.pockets.map fun k => { state := .empty, unexpected := false, level := k.level }
      rack := { State.reset.rack with opened := s.rack.opened, closed := s.rack.closed }
      capture := s.capture.map fun c => { trig := c.trig, latch := none, points := [], seq := 0, notQueued := false } }

/-- What reset leaves, by the spec's tables of values after RESET; that no byte stands on a link's outgoing side (dataOut)
is the model's choice, log 30, and so is that the masks hold every kind until the SETTINGS section is installed, log 37.
-/
def Obligations.ResetValues : Prop :=
  State.reset.startup = .loading ∧ State.reset.loading = some .calibration ∧ State.reset.save = .idle
    ∧ (∀ l : Link, State.reset.links.get l =
        { phase := .retry, buffer := [], request := none, work := none, response := none, overrun := false,
          flags := [], mask := noticesOf l, attn := false, dataOut := [] })
    ∧ State.reset.trap = none ∧ State.reset.faultCount = 0
    ∧ (∀ c : ChannelId, ((State.reset.channels.get c).f, (State.reset.channels.get c).lastRaw,
        (State.reset.channels.get c).run) = (0, 0, 0))
    ∧ State.reset.pass = none ∧ State.reset.snapshot.epoch = 0 ∧ State.reset.snapshot.source = .held
    ∧ State.reset.snapshot.wpTemp = 0 ∧ State.reset.snapshot.gradient = 0 ∧ State.reset.snapshot.gradientFlag = false
    ∧ (∀ (a : Arm) (i : Axis), (State.reset.snapshot.groups.scale.get a).get i = ⟨0, true⟩)
    ∧ (∀ a : Arm, State.reset.snapshot.groups.head.get a = ⟨0, true⟩)
    ∧ State.reset.snapshot.groups.workpiece = ⟨0, true⟩ ∧ State.reset.snapshot.groups.air = ⟨0, true⟩
    ∧ State.reset.scanSync = false
    ∧ (∀ a : Arm, (State.reset.timers.get a).sync = false ∧ (State.reset.timers.get a).acc = 0
        ∧ (State.reset.timers.get a).count = 0)
    ∧ (∀ (a : Arm) (i : Axis), (((State.reset.axes.get a).axis.get i).count,
        ((State.reset.axes.get a).axis.get i).lastSent, ((State.reset.axes.get a).axis.get i).standing) = (0, 0, 0)
        ∧ ((State.reset.axes.get a).axis.get i).sense = .forward
        ∧ ((State.reset.axes.get a).axis.get i).referenced = false ∧ ((State.reset.axes.get a).axis.get i).error = false)
    ∧ (∀ a : Arm, (State.reset.axes.get a).den = false ∧ (State.reset.axes.get a).frameCount = 0
        ∧ (State.reset.axes.get a).line = [])
    ∧ (∀ a : Arm, State.reset.motion.get a =
        { phase := .off, queue := [], geometry := none, active := none, override := 100, results := [],
          resultCount := 0, resetPending := false, holdPending := false })
    ∧ (∀ z : ZoneId, State.reset.holders.get z = none) ∧ State.reset.waiters = [] ∧ State.reset.handover = []
    ∧ (∀ a : Arm, State.reset.linger.get a = none ∧ State.reset.change.get a = none
        ∧ State.reset.lastChange.get a = none ∧ State.reset.readers.get a = ⟨none, none⟩
        ∧ State.reset.unknown.get a = false)
    ∧ State.reset.freeze = false ∧ State.reset.rack.req = false ∧ State.reset.rack.fault = false
    ∧ State.reset.rack.rackTimer = none ∧ State.reset.rack.stepTimer = none
    ∧ (∀ a : Arm, (State.reset.capture.get a).latch = none ∧ (State.reset.capture.get a).points = []
        ∧ (State.reset.capture.get a).seq = 0 ∧ (State.reset.capture.get a).notQueued = false)

/-- The read of a section other than the last ends (R206): a region that names the kind, has the section's length and an
agreeing CRC-32 is installed, any other answer installs the defaults with the section's load-fault flag set, and the
next section is read. -/
def Obligations.SectionLoaded : Prop :=
  ∀ (x y : Section) (s : State), s.loading = some x → sectionAfter x = some y →
    (∀ content : Image, content.section = x →
      Goes (.sectionLoadComplete (.region (some x) (Config.contentLength x) content
          (crc32 (contentBytes content)))) s
        { (s.install content).1 with
          loadFaults := s.loadFaults.put x (s.install content).2, loading := some y })
    ∧ (∀ r : SectionRead,
        (r = .noAnswer ∨ ∃ kind length content crc, r = .region kind length content crc
          ∧ (kind ≠ some x ∨ length ≠ Config.contentLength x ∨ crc ≠ crc32 (contentBytes content))) →
        Goes (.sectionLoadComplete r) s
          { (s.install (defaultImage x)).1 with loadFaults := s.loadFaults.put x true, loading := some y })

/-- What a CALIBRATION, a CHANNELS and a ZONES section install: each record whose field the command writing it would
refuse takes its own defaults and sets the flag, every good one is installed as stored (R206). A scan list keeps its
entries in their order but those above 23, at most 32 of them, each of which sets the flag (log 25, the model's choice); the
scan interval is clamped (R28). Of two good RACK zone records the higher is loaded UNUSED and sets the flag, so at most one
record is RACK (R103, R206); a bad zone record's default is the whole envelope for zone 0 and UNUSED for the others. That
the snapshot takes the workpiece record without a new epoch is log 24. -/
def Obligations.SectionsInstalled : Prop :=
  (∀ (s : State) (cal : PerArm Calibration) (ratio : PerArm (Nat × Nat)) (w : Workpiece) (a : Arm),
    let t := s.install (.calibration cal ratio w)
    t.1.cal.get a = (if badCalibration (cal.get a) then defaultCalibration else cal.get a)
    ∧ ((t.1.timers.get a).n, (t.1.timers.get a).d)
        = (if badRatio (ratio.get a).1 (ratio.get a).2 then (5000, 1) else ratio.get a)
    ∧ t.1.workpiece = (if badWorkpiece w then defaultWorkpiece else w)
    ∧ t.1.snapshot = { s.snapshot with workpiece := t.1.workpiece }
    ∧ t.2 = (badCalibration cal.a || badCalibration cal.b || badRatio ratio.a.1 ratio.a.2
        || badRatio ratio.b.1 ratio.b.2 || badWorkpiece w))
  ∧ (∀ (s : State) (cs : Table 24 ChannelEntry) (scan : List Nat) (interval : Nat) (c : ChannelId),
    let t := s.install (.channels cs scan interval)
    t.1.channels.get c = (if badChannel (cs.get c) then Channel.default else Channel.default.configure (cs.get c))
    ∧ t.1.scanInterval = clampNat interval 10 10000 ∧ t.1.scanList.length ≤ 32
    ∧ t.1.scanList.map (·.val) = (scan.filter (· ≤ 23)).take 32
    ∧ (t.2 = true ↔ (∃ d : ChannelId, badChannel (cs.get d) = true) ∨ (∃ n ∈ scan, 23 < n)
        ∨ 32 < (scan.filter (· ≤ 23)).length))
  ∧ (∀ (s : State) (zs : Table 16 ZoneEntry) (x y : ZoneId),
    let t := s.install (.zones zs)
    let rack := fun z : ZoneId => badZone (zs.get z) = false ∧ (zs.get z).kind = some .rack
    ((t.1.zones.get x).kind = .rack → (t.1.zones.get y).kind = .rack → x = y)
    ∧ (badZone (zs.get x) = true → t.1.zones.get x = if x = 0 then Zone.whole else Zone.unused)
    ∧ (rack x → y < x → rack y → t.1.zones.get x = Zone.unused)
    ∧ (∀ kind, badZone (zs.get x) = false → (zs.get x).kind = some kind → (kind = .rack → ∀ z < x, ¬ rack z) →
        t.1.zones.get x = ⟨kind, (zs.get x).box, if kind = .shared then (zs.get x).k else 0⟩)
    ∧ (t.2 = true ↔ (∃ z, badZone (zs.get z) = true) ∨ ∃ w z, z < w ∧ rack z ∧ rack w))

/-- What a PROBES, a POCKETS and a SETTINGS section leave (R206, R207): a good stored record is loaded with its fields at
its pocket or on its arm, LOST where a lower good record asks for the same (R144); a bad one leaves its slot FREE and sets
the flag; a count that its check does not match is 0 with COUNT_CORRUPT. No two records share a pocket or an arm, each
pocket is OCCUPIED by exactly the record STORED at it. A disabled pocket becomes DISABLED and its record LOST, every other
pocket and record stays. Of records that match under the mode just loaded the one in the lowest slot is kept and the
others become FREE, their pockets EMPTY, and every record kept is LOCKED as start-locked asks and else unchanged. Pockets
and records that agree (R126) are a premise where what becomes of a pocket's record is stated. -/
def Obligations.ProbesInstalled : Prop :=
  (∀ (s : State) (es : Table 32 (Option StoredProbe)),
    let t := (s.install (.probes es)).1
    (∀ (m n : Slot) (p q : Probe), t.probes.get m = some p → t.probes.get n = some q → p.place = q.place →
      p.place ≠ .lost → m = n)
    ∧ (∀ (n : Slot) (k : PocketId), (t.pockets.get k).state = .occupied n ↔
        ∃ p, t.probes.get n = some p ∧ p.place = .stored k)
    ∧ (∀ (n : Slot) (e : StoredProbe) (p : Probe), es.get n = some e → t.probes.get n = some p →
        e.check ≠ countCheck e.mountCount → p.mountCount = 0 ∧ p.corrupt = true)
    ∧ (∀ n : Slot, (es.get n = none ∨ ∃ e, es.get n = some e ∧ badStored e = true) → t.probes.get n = none)
    ∧ ((s.install (.probes es)).2 = true ↔ ∃ n e, es.get n = some e ∧ badStored e = true)
    ∧ (∀ (n : Slot) (e : StoredProbe), es.get n = some e → badStored e = false → ∃ p, t.probes.get n = some p
        ∧ p.identity = e.identity ∧ p.home.map (·.val) = e.home ∧ p.reach = e.reach ∧ p.tau = e.tau ∧ p.qual = e.qual
        ∧ p.guarded = e.guarded
        ∧ (e.check = countCheck e.mountCount → p.mountCount = e.mountCount ∧ p.corrupt = false)
        ∧ (let taken := ∃ (m : Slot) (d : StoredProbe),
              m < n ∧ es.get m = some d ∧ badStored d = false ∧ d.place = e.place
           (taken → p.place = .lost)
           ∧ (¬ taken → (∀ k : PocketId, e.place = .pocket k.val → p.place = .stored k)
                ∧ ∀ a : Arm, e.place = .arm (some a) → p.place = .mounted a))))
  ∧ (∀ (s : State) (ds : Table 12 Bool) (k : PocketId) (n : Slot) (p : Probe),
    let t := (s.install (.pockets ds)).1
    ds.get k = true → (t.pockets.get k).state = .disabled
      ∧ ((∀ m p q, s.probes.get n = some p → s.probes.get m = some q → p.place = q.place → p.place ≠ .lost → n = m) →
        t.probes.get n = some p → p.place ≠ .stored k))
  ∧ (∀ (s : State) (ds : Table 12 Bool),
    let t := (s.install (.pockets ds)).1
    (∀ k : PocketId, ds.get k = false → t.pockets.get k = s.pockets.get k)
    ∧ (∀ n : Slot, s.probes.get n = none → t.probes.get n = none)
    ∧ (∀ (n : Slot) (p : Probe), Tables s → s.probes.get n = some p →
        ((∃ k, ds.get k = true ∧ p.place = .stored k) → t.probes.get n = some { p with place := .lost })
        ∧ ((∀ k, p.place = .stored k → ds.get k = false) → t.probes.get n = some p)))
  ∧ (∀ (s : State) (e : SettingsEntry),
    let t := (s.install (.settings e)).1
    (∀ n : Slot, s.probes.get n = none → t.probes.get n = none)
    ∧ (∀ (n : Slot) (p : Probe), s.probes.get n = some p →
        let lower := ∃ (m : Slot) (q : Probe), m < n ∧ s.probes.get m = some q
          ∧ idMatch t.settings.matchMode q.identity p.identity = true
        (¬ lower → t.probes.get n = some { p with locked := t.settings.startLocked })
        ∧ (lower → t.probes.get n = none ∧ (Tables s → ∀ k, p.place = .stored k → (t.pockets.get k).state = .empty))))
  ∧ (∀ (s : State) (e : SettingsEntry) (m n : Slot) (p q : Probe),
    let t := (s.install (.settings e)).1
    t.probes.get m = some p → t.probes.get n = some q →
      p.locked = t.settings.startLocked
      ∧ (m ≠ n → idMatch t.settings.matchMode p.identity q.identity = false)
      ∧ (∀ l : Link, (t.links.get l).attn = attnOf (t.links.get l).flags (t.links.get l).mask))

/-- The read of the sixth section, SETTINGS, ends LOADING (R206, R208, R124). Its settings, its masks and the records it
leaves are installed: the region's own where the region names the kind, has the section's length and an agreeing CRC-32,
with the load-fault flag as a bad field asks, else the defaults with the flag set. The inventory then makes a record LOST
whose pocket shows no presence (R141), and no other. With every axis UNREFERENCED, no zone held and neither arm waiting or
in a change, arm A claims every SHARED zone, each zone is contested for arm B, and the start-up inventory asks both
readers. -/
def Obligations.LoadingEnds : Prop :=
  ∀ (r : SectionRead) (s : State), s.loading = some .settings →
    (∀ a : Arm, s.unreferenced a = true ∧ s.change.get a = none ∧ denOf (s.motion.get a).phase = false
      ∧ s.readers.get a = ⟨none, none⟩) →
    s.waiters = [] → (∀ z : ZoneId, s.holders.get z = none) → s.inventory = .idle →
    let installs := fun (im : Image) (fault : Bool) (t : State) =>
      let u := (s.install im).1
      let absent := fun n : Slot => ∃ k, (u.pockets.get k).state = .occupied n ∧ (u.pockets.get k).level = false
      t.settings = u.settings ∧ t.loadFaults = s.loadFaults.put .settings fault
        ∧ (∀ l : Link, (t.links.get l).mask = (u.links.get l).mask)
        ∧ (∀ n : Slot, u.probes.get n = none → t.probes.get n = none)
        ∧ ∀ (n : Slot) (p : Probe), u.probes.get n = some p →
          (absent n → t.probes.get n = some { p with place := .lost })
            ∧ (¬ absent n → t.probes.get n = some p)
    ∃ t, Goes (.sectionLoadComplete r) s t
      ∧ (∀ content : Image, content.section = .settings →
          r = .region (some .settings) (Config.contentLength .settings) content (crc32 (contentBytes content)) →
          installs content (s.install content).2 t)
      ∧ (∀ kind length content crc, r = .region kind length content crc →
          kind ≠ some .settings ∨ length ≠ Config.contentLength .settings ∨ crc ≠ crc32 (contentBytes content) →
          installs (defaultImage .settings) true t)
      ∧ (r = .noAnswer → installs (defaultImage .settings) true t)
      ∧ t.loading = none ∧ t.startup = .inventory
      ∧ (∀ z : ZoneId, t.holders.get z = if (s.zones.get z).kind = .shared then some (.A, .claim) else none)
      ∧ (∀ (a : Arm) (z : ZoneId), z ∈ t.standing.get a ↔ (s.zones.get z).kind = .shared)
      ∧ t.inventory ≠ .idle ∧ (∀ a : Arm, t.readers.get a = ⟨some [.inventory], none⟩)
      ∧ t.motion = s.motion ∧ t.axes = s.axes ∧ t.zones = s.zones

/-- The start-up inventory ends and the part becomes READY (R208): with the last read of the identity phase, no arm
waiting, each link in RETRY becomes IDLE with empty buffers, LOAD_DONE is raised on
all three, and the timers start with acc = 0. A link PENDING for a RELOAD is answered OK with the load-fault flags (R212).
With both sensors active that is the sensor condition (R161, R166): the rack fault flag is set, RACK_FAULT raised to link S
and one fault counted. Stated for a part without a change in that case. -/
def Obligations.ReadyStarts : Prop :=
  ∀ (a : Arm) (ans : PridAnswer) (reads : PerArm InvRead) (changed : Bool) (s : State),
    s.startup = .inventory → s.inventory = .running false reads changed →
    s.readers.get a = ⟨some [.inventory], none⟩ → reads.get a = .asked → reads.get a.other ≠ .asked →
    s.waiters = [] →
    let conflict := s.rack.opened = true ∧ s.rack.closed = true
    (conflict → ∀ b, s.change.get b = none) →
    ∃ t, Goes (.identityReadComplete a ans) s t
      ∧ (conflict → t.rack = { s.rack with fault := true } ∧ .rackFault ∈ (t.links.get .S).flags
          ∧ t.faultCount = min (s.faultCount + 1) 65535)
      ∧ (¬ conflict → t.rack = s.rack ∧ t.faultCount = s.faultCount ∧ t.trap = s.trap)
      ∧ t.startup = .ready ∧ t.inventory = .idle ∧ t.readers.get a = ⟨none, none⟩
      ∧ (∀ l : Link, (s.links.get l).phase = .retry →
          (t.links.get l).phase = .idle ∧ (t.links.get l).buffer = [] ∧ (t.links.get l).request = none
            ∧ (t.links.get l).response = none ∧ (t.links.get l).overrun = false)
      ∧ (∀ l : Link, (s.links.get l).phase ≠ .retry → (s.links.get l).work = some .reload →
          (t.links.get l).phase = .ready ∧ (t.links.get l).buffer = [] ∧ (t.links.get l).request = none
            ∧ (t.links.get l).work = none ∧ (t.links.get l).response = some ⟨.ok, .loadFaults s.loadFaults⟩
            ∧ (t.links.get l).overrun = (s.links.get l).overrun)
      ∧ (∀ l : Link, .loadDone ∈ (t.links.get l).flags)
      ∧ (∀ b : Arm, (t.timers.get b).count = 0 ∧ (t.timers.get b).startAcc = 0
          ∧ ((t.timers.get b).d ≠ 0 → (t.timers.get b).length = (t.timers.get b).n / (t.timers.get b).d))
      ∧ t.scanTimer = ⟨s.scanInterval * 10000, 0⟩
      ∧ t.motion = s.motion ∧ t.axes = s.axes ∧ t.capture = s.capture ∧ steady t = steady s

/-! ### The links -/

/-- The end of a write period (R186 to R191): in RETRY the request is discarded, in PENDING it is discarded with the overrun
mark set, and in IDLE or READY it is answered with the code of the first check that fails or brings the link to PENDING
with the request and no unread response. That the byte sent is the link state byte before the step is log 35; its layout is
spelled out in ReadPeriod. -/
def Obligations.WritePeriodJudged : Prop :=
  ∀ (l : Link) (b : Byte) (rest : List Byte) (s : State), b ≠ 0#8 →
    let sent := fun x : LinkState => stateByte x :: rest.map fun _ => 0#8
    let s0 := s.modLink l fun x => { x with dataOut := sent x }
    ((s.links.get l).phase = .retry → Goes (.writePeriod l (b :: rest)) s s0)
    ∧ ((s.links.get l).phase = .pending →
        Goes (.writePeriod l (b :: rest)) s (s.modLink l fun x => { x with dataOut := sent x, overrun := true }))
    ∧ ((s.links.get l).phase = .idle ∨ (s.links.get l).phase = .ready →
        (∀ code, frameCheck l (b :: rest) = .error code →
          Goes (.writePeriod l (b :: rest)) s (answered s0 l code .none))
        ∧ (∀ c, frameCheck l (b :: rest) = .ok c →
          Goes (.writePeriod l (b :: rest)) s (s.modLink l fun x =>
            { x with
              dataOut := sent x, phase := .pending, response := none, overrun := false,
              buffer := (b :: rest).take 242, request := some c, work := some .owner })))

/-- The link unit's three checks of a frame in their order (R187, R191): the code, then the frame and its length, then the
permission. The assigned codes are 0x10 to 0x1E, 0x40 to 0x49 and 0x60 to 0x75, each decodes to the command the table gives
it, on the link it came by, and the lengths that pass are the table's (R193, R203). A request whose code the table does not
assign is discarded in RETRY, discarded with the overrun mark in PENDING, answered BAD_COMMAND in IDLE and READY. In a mask
field of four bytes each notice kind has a bit to itself (R203); which bit is free (log 6). -/
def Obligations.FrameChecks : Prop :=
  (∀ (l : Link) (bytes : List Byte),
    let code := u8At bytes 0
    let whole := 2 ≤ bytes.length ∧ u8At bytes 1 ≤ 240 ∧ bytes.length = 2 + u8At bytes 1
    (assigned code = true ↔ (0x10 ≤ code ∧ code ≤ 0x1E) ∨ (0x40 ≤ code ∧ code ≤ 0x49) ∨ (0x60 ≤ code ∧ code ≤ 0x75))
    ∧ (∀ n, assigned code = true → (payloadLengthOk l code n = true ↔ n ∈ lengthsOf l code))
    ∧ (assigned code = false → frameCheck l bytes = .error .badCommand)
    ∧ (assigned code = true → (¬ whole ∨ payloadLengthOk l code (bytes.length - 2) = false) →
        frameCheck l bytes = .error .badLength)
    ∧ (assigned code = true → ∃ c, decodeRequest l code (bytes.drop 2) = some c ∧ codeOf c = some code ∧ linkOf c = some l
        ∧ (whole → payloadLengthOk l code (bytes.length - 2) = true →
          frameCheck l bytes = if permitted l c then .ok c else .error .notPermitted)))
  ∧ (∀ (l : Link) (code : Byte) (s : State), freeCode code = true →
    ((s.links.get l).phase = .retry → Goes (.unassignedCommand l code) s s)
    ∧ ((s.links.get l).phase = .pending →
        Goes (.unassignedCommand l code) s (s.modLink l fun x => { x with overrun := true }))
    ∧ ((s.links.get l).phase = .idle ∨ (s.links.get l).phase = .ready →
        Goes (.unassignedCommand l code) s (answered s l .badCommand .none)))
  ∧ ∃ bit : Notice → Nat, (∀ k, bit k < 32) ∧ (∀ j k, bit j = bit k → j = k)
    ∧ ∀ (payload : List Byte) (i : Nat) (k : Notice), k ∈ maskAt payload i ↔ (field payload i 4).testBit (bit k) = true

/-- Every request row by its link's state (R188 to R191): in RETRY it is discarded; in PENDING, where the link does not
hold this request for its owner, it is discarded and the overrun mark set; in IDLE and READY one that fails the link
unit's check of length or permission is answered with that code and changes nothing else. -/
def Obligations.RequestByLinkState : Prop :=
  ∀ (c : Instr) (l : Link) (s : State), linkOf c = some l →
    ((s.links.get l).phase = .retry → Goes c s s)
    ∧ ((s.links.get l).phase = .pending → s.holdsRequest l c = false →
        Goes c s (s.modLink l fun x => { x with overrun := true }))
    ∧ (∀ code, (s.links.get l).phase = .idle ∨ (s.links.get l).phase = .ready → linkCheck l c = some code →
        Refuses c l s code)

/-- The links each command may be sent on (R192), by its code (R193): the reads, 0x40 to 0x49, and HALT, ABORT CHANGE and
ARM RESET, 0x14, 0x1B and 0x1E, on all three, the other arm commands of 0x10 to 0x1E on an arm's link, the configuration
writes, 0x60 to 0x75, on link S, and QUALIFY, 0x1C, from link S and from an arm's link unless it names the other arm.
Every request row has a code of these. -/
def Obligations.LinkPermissions : Prop :=
  ∀ (l : Link) (c : Instr), linkOf c = some l →
    ∃ code, codeOf c = some code
      ∧ ((0x10 ≤ code ∧ code ≤ 0x1E) ∨ (0x40 ≤ code ∧ code ≤ 0x49) ∨ (0x60 ≤ code ∧ code ≤ 0x75))
      ∧ (0x40 ≤ code → code ≤ 0x49 → permitted l c = true)
      ∧ (code ∈ [0x14, 0x1B, 0x1E] → permitted l c = true)
      ∧ (code ≤ 0x1E → code ∉ [0x14, 0x1B, 0x1C, 0x1E] → (permitted l c = true ↔ l ≠ .S))
      ∧ (0x60 ≤ code → (permitted l c = true ↔ l = .S))
      ∧ (code = 0x1C → ∃ e, c = .qualify l e
          ∧ (permitted l c = false ↔ ∃ a b : Arm, l.arm? = some a ∧ e.arm = some b ∧ a ≠ b))

/-- A read period (R186, R188): the part sends the link state byte, then in READY the response, then zeros; when the
response's last byte has been sent the link becomes IDLE, emptied, with the overrun mark clear; in every other case the
link keeps all it holds. A period without a byte does nothing. A response is its code, the length of its payload in two
bytes, least significant first, and the payload, which keeps to 1,024 bytes: READ POINTS returns at most six records (R179,
R201). The link state byte holds the state in bits 1 and 0, the level of ATTN in bit 2, the overrun mark in bit 3 and zeros
above (R201). -/
def Obligations.ReadPeriod : Prop :=
  ∀ (l : Link) (n : Nat) (s : State),
    let x := s.links.get l
    let sent := fun bs : List Byte => (bs ++ List.replicate (n - bs.length) 0#8).take n
    (n = 0 → Goes (.readPeriod l n) s s)
    ∧ (0 < n → x.phase ≠ .ready →
        Goes (.readPeriod l n) s (s.modLink l fun x => { x with dataOut := sent [stateByte x] }))
    ∧ (∀ r : Response, x.phase = .ready → x.response = some r → 0 < n → n < 1 + r.bytes.length →
        Goes (.readPeriod l n) s (s.modLink l fun x => { x with dataOut := sent (stateByte x :: r.bytes) }))
    ∧ (∀ r : Response, x.phase = .ready → x.response = some r → 1 + r.bytes.length ≤ n →
        Goes (.readPeriod l n) s (s.modLink l fun x =>
          { x with
            dataOut := sent (stateByte x :: r.bytes), phase := .idle, response := none, buffer := [], request := none,
            overrun := false }))
    ∧ (∀ r : Response, (∀ contact left ps, r.payload = .points contact left ps → ps.length ≤ 6) →
        ∃ n0 n1 : Byte, r.bytes = BitVec.ofNat 8 r.code.value :: n0 :: n1 :: r.payload.bytes
          ∧ n0.toNat + 256 * n1.toNat = r.payload.bytes.length ∧ r.payload.bytes.length ≤ 1024)
    ∧ (∀ y : LinkState, (stateByte y).toNat = (match y.phase with
          | .idle => 0
          | .pending => 1
          | .ready => 2
          | .retry => 3) + (if y.attn then 4 else 0) + (if y.overrun then 8 else 0))

/-- STATUS (R197): it answers with the flags taken and the mask, clears exactly those flags and forms ATTN again. A raise
taken before it is among the flags returned; one taken after it is set for the next STATUS. -/
def Obligations.StatusReturnsAndClears : Prop :=
  ∀ (l : Link) (k : Notice) (s : State),
    (Takes s l (.status l) →
      Answers (.status l) l s (s.modLink l fun x => { x with flags := [], attn := false })
        (.notices (s.links.get l).flags (s.links.get l).mask))
    ∧ k ∈ ((s.raise l k).links.get l).flags
    ∧ (∀ j ∈ ((s.raise l k).links.get l).flags, j = k ∨ j ∈ (s.links.get l).flags)
    ∧ ((s.links.get l).flags = [] → ((s.raise l k).links.get l).flags = [k])

/-- READ TRAP returns the count and the trap and changes nothing; CLEAR TRAP empties the trap and keeps the count (R199).
A fault reported to an empty trap fills it and raises TRAP_SET; CLEAR TRAP taken after it empties the trap again. -/
def Obligations.TrapReadAndCleared : Prop :=
  ∀ (l : Link) (r : FaultReport) (s : State),
    (Takes s l (.readTrap l) → Answers (.readTrap l) l s s (.trap s.faultCount s.trap))
    ∧ (Takes s .S (.clearTrap .S) → Answers (.clearTrap .S) .S s { s with trap := none })
    ∧ (s.trap = none →
        (s.report r).trap = some ⟨r, min (s.faultCount + 1) 65535⟩
        ∧ .trapSet ∈ ((s.report r).links.get .S).flags
        ∧ (Takes (s.report r) .S (.clearTrap .S) →
            Answers (.clearTrap .S) .S (s.report r) { s.report r with trap := none }))

/-- A fault report (R198): the count rises by 1 and stops at 65,535; an empty trap takes the record, numbered by the
count, and TRAP_SET is raised; a full trap and the notices stay as they are. Nothing else changes. -/
def Obligations.FaultReported : Prop :=
  ∀ (s : State) (r : FaultReport),
    (s.trap = none →
      s.report r = State.raise { s with
        faultCount := min (s.faultCount + 1) 65535, trap := some ⟨r, min (s.faultCount + 1) 65535⟩ } .S .trapSet)
    ∧ (∀ t, s.trap = some t → s.report r = { s with faultCount := min (s.faultCount + 1) 65535 })

/-- The reads answer from the state as it stands, on every link, and change nothing but their link: one record of a table
(a number above the table's end, or an arm byte that names neither arm, is refused BAD_ARGUMENT), the current snapshot
whole (R40), a pocket with the mount of each arm (R126), and for IDENTIFY the part code, the revision number, which is
free (log 9), the load-fault flags, the start-up state and the section a SAVE writes (R213). -/
def Obligations.RecordReads : Prop :=
  ∀ (l : Link) (n : Nat) (a : Arm) (s : State),
    (Takes s l (.readZone l n) →
      (15 < n → Refuses (.readZone l n) l s .badArgument)
      ∧ (∀ h : n < 16, Answers (.readZone l n) l s s
          (.zone (s.zones.get ⟨n, h⟩) (s.holders.get ⟨n, h⟩)
            ⟨(s.standing.get .A).contains ⟨n, h⟩, (s.standing.get .B).contains ⟨n, h⟩⟩)))
    ∧ (Takes s l (.readProbe l n) →
      (31 < n → Refuses (.readProbe l n) l s .badArgument)
      ∧ (∀ h : n < 32, Answers (.readProbe l n) l s s
          (.probe ((s.probes.get ⟨n, h⟩).map fun p =>
            (p, ⟨(s.qualStatus .A p, (s.snapshot.groups.head.get .A).temp),
              (s.qualStatus .B p, (s.snapshot.groups.head.get .B).temp)⟩)))))
    ∧ (Takes s l (.readPocket l n) →
      (11 < n → Refuses (.readPocket l n) l s .badArgument)
      ∧ (∀ h : n < 12, Answers (.readPocket l n) l s s
          (.pocket (s.pockets.get ⟨n, h⟩) ⟨s.mount .A, s.mount .B⟩ s.inventory)))
    ∧ (Tables s → MountIs s a (s.mount a))
    ∧ (Takes s l (.readChannel l n) →
      (23 < n → Refuses (.readChannel l n) l s .badArgument)
      ∧ (∀ h : n < 24, Answers (.readChannel l n) l s s
          (.channel (s.channels.get ⟨n, h⟩) s.scanInterval s.scanList (s.pass.map (·.pos)) s.scanSync)))
    ∧ (Takes s l (.readCalibration l none) → Refuses (.readCalibration l none) l s .badArgument)
    ∧ (Takes s l (.readCalibration l (some a)) →
      Answers (.readCalibration l (some a)) l s s (.calibration (s.cal.get a) s.loadFaults.calibration))
    ∧ (Takes s l (.readSnapshot l) → Answers (.readSnapshot l) l s s (.snapshot s.snapshot))
    ∧ (Takes s l (.identify l) →
      Answers (.identify l) l s s (.identify 0xD022 Config.siliconRevision s.loadFaults s.startup
        (match s.save with
          | .idle => none
          | .running im _ => some im.section)))

/-- ARM STATUS (R16, R17, R53, R70, R99, R106, R123, R137, R165, R168, R184): it answers on every link for either arm with
the fields as they stand, changes nothing but its link, and refuses BAD_ARGUMENT a byte that names neither arm. The head
of the queue is WAITING while the arm is, every other queued segment QUEUED; POSITION_CLAMPED says that a coordinate of
the exact position left the 32-bit range; the reach counts the mount, or past WAIT_RACK both modules of the change (log
21); a waiter entry is the newer one where the other arm's stands before it; the step deadline of a context is what is
left of the timer that runs for it, none in WAIT_RACK; the trigger arming state is the first of R168's table that applies;
the qualification status is judged at the head group's temperature for the mounted record. -/
def Obligations.ArmStatusFields : Prop :=
  ∀ (l : Link) (a : Arm) (s : State),
    let exact := fun i : Axis =>
      let k := (s.cal.get a).axis.get i
      let c := ((s.axes.get a).axis.get i).count
      k.base + k.sign * (c + roundDiv (c * k.alpha * ((s.snapshot.groups.scale.get a).get i).temp) 1000000000000)
    let powered := (s.motion.get a).phase ≠ .off ∧ ∀ r, (s.motion.get a).phase ≠ .fault r
    let masked := (∃ c, s.change.get a = some c
        ∧ (c.step = .awaitDrop ∨ c.step = .awaitPick ∨ c.step = .failedOpen ∨ c.step = .closing))
      ∨ ∃ w, (s.motion.get a).active = some w ∧ w.seg.move.kind = .rack
    let probing := ∃ w, (s.motion.get a).active = some w ∧ w.seg.move.kind = .probe ∧ w.status = .active
    let settled := (s.motion.get a).phase = .collision ∨ ∃ w o, (s.motion.get a).active = some w
      ∧ w.status = .stopping o ∧ (o = .touched ∨ o = .contact)
    (Takes s l (.armStatus l none) → Refuses (.armStatus l none) l s .badArgument)
    ∧ (Takes s l (.armStatus l (some a)) → ∃ v : ArmStatus,
      Answers (.armStatus l (some a)) l s s (.armStatus v)
      ∧ v.motion.phase = (s.motion.get a).phase ∧ v.motion.resetPending = (s.motion.get a).resetPending
      ∧ v.motion.queue.length = (s.motion.get a).queue.length
      ∧ v.motion.queue.map (fun x => (x.1, x.2.1)) = (s.motion.get a).queue.map (fun x => (x.tag, x.move.kind))
      ∧ (∀ (i : Nat) x, v.motion.queue[i]? = some x →
          (x.2.2 = true ↔ i = 0 ∧ ∃ r, (s.motion.get a).phase = .waiting r))
      ∧ v.motion.active = (s.motion.get a).active.map (fun w =>
          ⟨w.seg.tag, w.seg.move.kind, w.status, w.len, w.p, w.v, w.vFeed, w.epoch⟩)
      ∧ v.motion.override = (s.motion.get a).override ∧ v.motion.resultCount = (s.motion.get a).resultCount
      ∧ v.motion.results = (s.motion.get a).results
      ∧ (∀ i, v.position.position.get i = max (-2147483648) (min (exact i) 2147483647))
      ∧ (∀ i, v.position.referenced.get i = ((s.axes.get a).axis.get i).referenced
          ∧ v.position.error.get i = ((s.axes.get a).axis.get i).error)
      ∧ (v.position.clamped = true ↔ ∃ i : Axis, exact i < -2147483648 ∨ 2147483647 < exact i)
      ∧ v.position.epoch = s.snapshot.epoch
      ∧ (v.position.scaleStale = true ↔ ∃ i, ((s.snapshot.groups.scale.get a).get i).stale = true)
      ∧ v.timer = ⟨(s.timers.get a).n, (s.timers.get a).d, (s.timers.get a).length, (s.timers.get a).startAcc,
          (s.timers.get a).sync⟩
      ∧ (∀ i, v.axes.counts.get i = ((s.axes.get a).axis.get i).count
          ∧ v.axes.lastSent.get i = ((s.axes.get a).axis.get i).lastSent
          ∧ v.axes.standing.get i = ((s.axes.get a).axis.get i).standing)
      ∧ v.axes.den = (s.axes.get a).den ∧ v.axes.dflt = (s.axes.get a).dflt
      ∧ v.axes.frameCount = (s.axes.get a).frameCount
      ∧ (∀ r, v.axes.faultReason = some r ↔ (s.motion.get a).phase = .fault r)
      ∧ ReachIs s a v.zones.reach ∧ v.zones.standing = s.standing.get a
      ∧ (∀ z r, (z, r) ∈ v.zones.held ↔ s.holders.get z = some (a, r))
      ∧ (∀ z, z ∈ v.zones.contested ↔ z ∈ s.standing.get a ∧ ∀ r, s.holders.get z ≠ some (a, r))
      ∧ (∀ w rest, s.waiters = w :: rest → w.arm = a → v.zones.waiter = some (w.purpose, w.needed, false))
      ∧ (∀ w x rest, s.waiters = w :: x :: rest → w.arm ≠ a → x.arm = a →
          v.zones.waiter = some (x.purpose, x.needed, true))
      ∧ ((∀ w ∈ s.waiters, w.arm ≠ a) → v.zones.waiter = none)
      ∧ v.zones.handover = (s.handover.filter (·.holder = a)).map (fun h => (h.zone, h.count, (s.zones.get h.zone).k))
      ∧ v.zones.lingerLeft = (s.linger.get a).map (fun t => t.length - t.count)
      ∧ (s.change.get a = none → v.change.context = none)
      ∧ (∀ c, s.change.get a = some c → ∃ d,
          v.change.context = some ⟨c.drop, c.take, c.step, c.dropConfirmed, c.pickConfirmed, d, c.failure, c.closing⟩
          ∧ (c.step = .waitRack → d = none)
          ∧ (∀ t, c.step ≠ .waitRack → s.rack.stepTimer = some t → d = some (t.length - t.count))
          ∧ (c.step ≠ .waitRack → s.rack.stepTimer = none →
              d = s.rack.rackTimer.map fun t => t.length - t.count))
      ∧ v.change.last = s.lastChange.get a
      ∧ ((∀ n, s.mount a ≠ .record n) → v.change.qualification = none)
      ∧ (∀ n p, s.mount a = .record n → s.probes.get n = some p →
          (p.qual.get a = none → v.change.qualification = some .unqualified)
          ∧ ∀ q, p.qual.get a = some q → v.change.qualification = some
              (if ((s.snapshot.groups.head.get a).temp - q.temperature).natAbs ≤ s.settings.qualLimit then .qualified
               else .stale))
      ∧ v.change.rackFault = s.rack.fault ∧ v.change.req = s.rack.req ∧ v.change.opened = s.rack.opened
      ∧ v.change.closed = s.rack.closed
      ∧ v.capture.trig = (s.capture.get a).trig ∧ (¬ powered → v.capture.arming = .ignored)
      ∧ (powered → masked → v.capture.arming = .masked) ∧ (powered → ¬ masked → settled → v.capture.arming = .ignored)
      ∧ (powered → ¬ masked → ¬ settled → probing → v.capture.arming = .touch)
      ∧ (powered → ¬ masked → ¬ settled → ¬ probing → v.capture.arming = .contact)
      ∧ v.capture.held = (s.capture.get a).points.length ∧ v.capture.free = 32 - (s.capture.get a).points.length
      ∧ v.capture.seq = (s.capture.get a).seq ∧ v.capture.notQueued = (s.capture.get a).notQueued
      ∧ v.capture.latch = (s.capture.get a).latch.map (fun t =>
          ⟨t.kind, t.counts, t.v, t.path.map (·.tag), t.snapshot.epoch, t.mount⟩))

/-! ### Integer arithmetic, the thermal unit -/

/-- R(x, y) is the quotient rounded to the nearest integer, halves away from zero, whatever the sign of the divisor (R6),
and isqrt(n) is the largest integer whose square does not exceed n (R7). -/
def Obligations.IntegerArithmetic : Prop :=
  (∀ x y : Int, y ≠ 0 →
    2 * (x - roundDiv x y * y).natAbs ≤ y.natAbs
    ∧ (2 * (x - roundDiv x y * y).natAbs = y.natAbs → x.natAbs < (roundDiv x y * y).natAbs)
    ∧ roundDiv (-x) y = -roundDiv x y ∧ roundDiv x (-y) = -roundDiv x y)
  ∧ ∀ n : Nat, isqrt n * isqrt n ≤ n ∧ n < (isqrt n + 1) * (isqrt n + 1)

/-- A conversion that is not the last of its pass (R22 to R25, R30). A channel of role UNUSED keeps every field. A code
outside the limits leaves f, adds 1 to the run up to 15, and makes a WARMING or VALID channel FAULT when the run has
reached the persistence. A good code sets the run to 0 and takes the scaled, clamped temperature into f, through the
filter when the channel is VALID. SENSOR_FAULT is raised on becoming FAULT and on leaving FAULT only, and the position
advances. -/
def Obligations.ConversionStages : Prop :=
  ∀ (code : Nat) (p : Pass) (ch : ChannelId) (s : State),
    s.pass = some p → p.copy[p.pos]? = some ch → p.pos + 1 < p.copy.length →
    let c := s.channels.get ch
    let temp := clamp (c.offset + roundDiv ((code : Int) * c.gain) 65536) (-32768) 32767
    let run := min (c.run + 1) 15
    let faulty := code < c.low ∨ c.high < code
    let on := { s with pass := some { p with pos := p.pos + 1 } }
    let put := fun c' : Channel => { on with channels := Table.put s.channels ch c' }
    (c.role = .unused → Goes (.conversionComplete code) s (put c))
    ∧ (c.role ≠ .unused → faulty →
        (run < c.persistence ∨ c.state = .fault →
          Goes (.conversionComplete code) s (put { c with lastRaw := code, run := run }))
        ∧ (c.persistence ≤ run → c.state = .warming ∨ c.state = .valid →
          Goes (.conversionComplete code) s
            ((put { c with lastRaw := code, run := run, state := .fault }).raise .S .sensorFault)))
    ∧ (c.role ≠ .unused → ¬ faulty →
        (c.state = .valid → Goes (.conversionComplete code) s
          (put { c with lastRaw := code, run := 0, f := c.f + (temp - c.f).tdiv (2 ^ c.shift) }))
        ∧ (c.state = .warming → Goes (.conversionComplete code) s
          (put { c with lastRaw := code, run := 0, f := temp, state := .valid }))
        ∧ (c.state = .fault → Goes (.conversionComplete code) s
          ((put { c with lastRaw := code, run := 0, f := temp, state := .valid }).raise .S .sensorFault)))

/-- The last conversion of a pass ends it (R31 to R33, R37 to R39): its channel is converted as any other, the snapshot is
replaced by one formed from the VALID channels with its epoch raised by 1 modulo 65,536, THERMAL is raised on an arm's
link when its STALE flags or the source differ, and no pass is in flight. -/
def Obligations.PassEnds : Prop :=
  ∀ (code : Nat) (p : Pass) (ch : ChannelId) (s : State),
    s.pass = some p → p.copy[p.pos]? = some ch → p.pos + 1 = p.copy.length →
    let cs := Table.put s.channels ch ((s.channels.get ch).convert code).1
    let valid := fun r : Role => (cs.toList.filter fun c => decide (c.role = r) && decide (c.state = .valid)).map (·.f)
    let mean := fun (old : Group) (fs : List Int) =>
      if fs = [] then { old with stale := true } else ({ temp := roundDiv fs.sum fs.length, stale := false } : Group)
    ∃ t, Goes (.conversionComplete code) s t
      ∧ t.channels = cs ∧ t.pass = none ∧ t.snapshot.epoch = (s.snapshot.epoch + 1) % 65536
      ∧ (∀ (a : Arm) (i : Axis), (t.snapshot.groups.scale.get a).get i
          = mean ((s.snapshot.groups.scale.get a).get i) (valid (.scale a i)))
      ∧ (∀ a : Arm, t.snapshot.groups.head.get a = mean (s.snapshot.groups.head.get a) (valid (.head a)))
      ∧ t.snapshot.groups.workpiece = mean s.snapshot.groups.workpiece (valid .workpiece)
      ∧ t.snapshot.groups.air = mean s.snapshot.groups.air (valid .air)
      ∧ (∀ x y, x ∈ valid .workpiece → y ∈ valid .workpiece → x - y ≤ t.snapshot.gradient)
      ∧ ((valid .workpiece).length < 2 → t.snapshot.gradient = 0)
      ∧ (2 ≤ (valid .workpiece).length →
          ∃ x ∈ valid .workpiece, ∃ y ∈ valid .workpiece, (t.snapshot.gradient : Int) = x - y)
      ∧ (t.snapshot.gradientFlag = true ↔ s.workpiece.gradientLimit < t.snapshot.gradient)
      ∧ (t.snapshot.source, t.snapshot.wpTemp)
          = (if t.snapshot.groups.workpiece.stale = false then (.workpiece, t.snapshot.groups.workpiece.temp)
             else if t.snapshot.groups.air.stale = false then (.air, t.snapshot.groups.air.temp)
             else (.held, s.snapshot.wpTemp))
      ∧ t.snapshot.workpiece = s.workpiece
      ∧ (∀ a : Arm, .thermal ∈ (t.links.get a.link).flags ↔
          (.thermal ∈ (s.links.get a.link).flags
            ∨ (∃ i, ((t.snapshot.groups.scale.get a).get i).stale ≠ ((s.snapshot.groups.scale.get a).get i).stale)
            ∨ (t.snapshot.groups.head.get a).stale ≠ (s.snapshot.groups.head.get a).stale
            ∨ t.snapshot.source ≠ s.snapshot.source))
      ∧ t.motion = s.motion ∧ t.axes = s.axes ∧ t.capture = s.capture ∧ t.trap = s.trap
      ∧ t.faultCount = s.faultCount ∧ t.scanList = s.scanList ∧ t.workpiece = s.workpiece

/-- A group's mean lies from its smallest to its largest member (R32), and a filter step never passes the sample: f
moves toward t and stays between the two (R25). -/
def Obligations.MeansAndFiltersStayWithin : Prop :=
  (∀ (fs : List Int) (lo hi : Int), fs ≠ [] → (∀ f ∈ fs, lo ≤ f ∧ f ≤ hi) →
    lo ≤ roundDiv fs.sum fs.length ∧ roundDiv fs.sum fs.length ≤ hi)
  ∧ (∀ (f t : Int) (k : Nat), (f ≤ t → f ≤ filterStep f t k ∧ filterStep f t k ≤ t)
      ∧ (t ≤ f → t ≤ filterStep f t k ∧ filterStep f t k ≤ f)
      ∧ filterStep f t 0 = t
      ∧ (filterStep f t k = f ↔ (t - f).natAbs < 2 ^ k))

/-- A scan expiry while the part is READY (R29, R48): the next interval starts with the length of the interval as applied;
with an empty list nothing else happens, and that this holds of a list emptied during a pass too, which goes on without
SCAN_OVERRUN, is log 49, the model's choice; with a pass in flight and a list SCAN_OVERRUN is raised; else a pass starts
on a copy of the list from position 0. -/
def Obligations.ScanExpiry : Prop :=
  ∀ s : State, s.startup = .ready →
    let on := { s with scanTimer := ⟨s.scanInterval * 10000, 0⟩ }
    (s.scanList = [] → Goes .scanExpiry s on)
    ∧ (s.scanList ≠ [] → s.pass ≠ none → Goes .scanExpiry s (on.raise .S .scanOverrun))
    ∧ (s.scanList ≠ [] → s.pass = none → Goes .scanExpiry s { on with pass := some ⟨s.scanList, 0⟩ })

/-- WRITE WORKPIECE (R35): the first of SAVE_IN_PROGRESS and BAD_ARGUMENT that applies refuses it; an accepted one
replaces the record and the snapshot, which carries the new record, the GRADIENT flag formed against the new limit and
everything else of the current one, with the epoch raised by 1 modulo 65,536. -/
def Obligations.WorkpieceWritten : Prop :=
  ∀ (e : Workpiece) (s : State), Takes s .S (.writeWorkpiece .S e) →
    let bad := (∃ i, e.w0.get i < -100000000 ∨ 100000000 < e.w0.get i) ∨ 32767 < e.gradientLimit
    (s.save ≠ .idle → Refuses (.writeWorkpiece .S e) .S s .saveInProgress)
    ∧ (s.save = .idle → bad → Refuses (.writeWorkpiece .S e) .S s .badArgument)
    ∧ (s.save = .idle → ¬ bad → Answers (.writeWorkpiece .S e) .S s
        { s with
          workpiece := e
          snapshot := { s.snapshot with
            workpiece := e, gradientFlag := decide (e.gradientLimit < s.snapshot.gradient),
            epoch := (s.snapshot.epoch + 1) % 65536 } })

/-- WRITE CHANNEL, EDIT SCAN LIST and SET SCAN INTERVAL (R20, R27, R28): the checks in their order, and what an accepted
one changes: the channel's configured fields with its state WARMING (or UNUSED) and its run 0, the list by its mode with
the clamped interval, the clamped interval alone. -/
def Obligations.ChannelsAndScanWritten : Prop :=
  ∀ (n : Nat) (e : ChannelEntry) (mode : Option ScanMode) (ms : Nat) (es : List Nat) (s : State),
    (Takes s .S (.writeChannel .S n e) →
      let bad := 23 < n ∨ e.role = none ∨ 7 < e.shift ∨ e.high < e.low ∨ e.persistence < 1 ∨ 15 < e.persistence
      (s.save ≠ .idle → Refuses (.writeChannel .S n e) .S s .saveInProgress)
      ∧ (s.save = .idle → bad → Refuses (.writeChannel .S n e) .S s .badArgument)
      ∧ (∀ (h : n < 24) (r : Role), s.save = .idle → ¬ bad → e.role = some r →
          Answers (.writeChannel .S n e) .S s
            { s with channels := Table.put s.channels ⟨n, h⟩ (
                { s.channels.get ⟨n, h⟩ with
                  role := r, gain := e.gain, offset := e.offset, shift := e.shift, low := e.low, high := e.high,
                  persistence := e.persistence, state := if r = .unused then .unused else .warming, run := 0 }) }))
    ∧ (Takes s .S (.editScanList .S mode ms es) → es.length ≤ 32 →
      let bad := mode = none ∨ (∃ x ∈ es, 23 < x) ∨ (mode = some .keep ∧ es ≠ [])
      let full := mode = some .append ∧ 32 < s.scanList.length + es.length
      (s.save ≠ .idle → Refuses (.editScanList .S mode ms es) .S s .saveInProgress)
      ∧ (s.save = .idle → bad → Refuses (.editScanList .S mode ms es) .S s .badArgument)
      ∧ (s.save = .idle → ¬ bad → full → Refuses (.editScanList .S mode ms es) .S s .queueFull)
      ∧ (s.save = .idle → ¬ bad → ¬ full → ∃ list : List ChannelId,
          Answers (.editScanList .S mode ms es) .S s { s with scanList := list, scanInterval := clampNat ms 10 10000 }
          ∧ (mode = some .replace → list.map (·.val) = es)
          ∧ (mode = some .append → list.map (·.val) = s.scanList.map (·.val) ++ es)
          ∧ (mode = some .keep → list = s.scanList)))
    ∧ (Takes s .S (.setScanInterval .S ms) →
      (s.save ≠ .idle → Refuses (.setScanInterval .S ms) .S s .saveInProgress)
      ∧ (s.save = .idle → Answers (.setScanInterval .S ms) .S s { s with scanInterval := clampNat ms 10 10000 }))

/-! ### The time base -/

/-- SET TIMER and SET SYNC (R46, R47, R49). SET TIMER refuses in the order of its checks; an accepted one makes N and D the
ratio in use, keeps the period in flight and marks the next period to start with the accumulator at 0. SET SYNC sets the
enables whose flag is set and leaves the others. An edge of CSYNC while the part is READY (R50) starts a new period with
acc = 0 and clears the enable for each arm whose enable is set and that is neither MOVING nor STOPPING, leaves the other
arm's timer, and starts a new scan interval where SCAN is set; before READY it does nothing (R52). The period that follows
an accepted SET TIMER starts, at the expiry that ends the one in flight, with the accumulator at 0 and lasts floor(N / D)
reference periods, and it spends the mark. -/
def Obligations.TimersSet : Prop :=
  ∀ (arm : Option Arm) (n d : Nat) (spA spB scan : Bool) (s : State),
    (Takes s .S (.setTimer .S arm n d) →
      let bad := arm = none ∨ n < 1 ∨ 65535 < n ∨ d < 1 ∨ 255 < d ∨ n / d < 1000
      (s.save ≠ .idle → Refuses (.setTimer .S arm n d) .S s .saveInProgress)
      ∧ (s.save = .idle → bad → Refuses (.setTimer .S arm n d) .S s .badArgument)
      ∧ (∀ a : Arm, arm = some a → s.save = .idle → ¬ bad →
          ((s.motion.get a).phase = .moving ∨ (s.motion.get a).phase = .stopping →
            Refuses (.setTimer .S arm n d) .S s .wrongState)
          ∧ ((s.motion.get a).phase ≠ .moving → (s.motion.get a).phase ≠ .stopping →
            Answers (.setTimer .S arm n d) .S s (s.modTimer a fun t => { t with n := n, d := d, fresh := true }))))
    ∧ (Takes s .S (.setSync .S spA spB scan) → Answers (.setSync .S spA spB scan) .S s
      { s with
        timers :=
          ⟨{ s.timers.a with sync := s.timers.a.sync || spA },
           { s.timers.b with sync := s.timers.b.sync || spB }⟩
        scanSync := s.scanSync || scan })
    ∧ (s.startup ≠ .ready → Goes .csyncEdge s s)
    ∧ (s.startup = .ready → ∃ t, Goes .csyncEdge s t
        ∧ t = { s with timers := t.timers, scanTimer := t.scanTimer, scanSync := t.scanSync }
        ∧ (∀ a : Arm, (s.timers.get a).sync = true → (s.motion.get a).phase ≠ .moving →
            (s.motion.get a).phase ≠ .stopping →
            (t.timers.get a).sync = false ∧ (t.timers.get a).count = 0 ∧ (t.timers.get a).startAcc = 0
              ∧ ((s.timers.get a).d ≠ 0 → (t.timers.get a).length = (s.timers.get a).n / (s.timers.get a).d)
              ∧ (t.timers.get a).n = (s.timers.get a).n ∧ (t.timers.get a).d = (s.timers.get a).d)
        ∧ (∀ a : Arm, (s.timers.get a).sync = false ∨ (s.motion.get a).phase = .moving
            ∨ (s.motion.get a).phase = .stopping → t.timers.get a = s.timers.get a)
        ∧ (t.scanTimer, t.scanSync)
            = (if s.scanSync then (⟨s.scanInterval * 10000, 0⟩, false) else (s.scanTimer, false)))
    ∧ (∀ a : Arm, s.startup = .ready → (s.axes.get a).den = false → 0 < (s.timers.get a).d →
        (s.timers.get a).fresh = true → Goes (.setpointExpiry a) s ((s.modTimer a fun t =>
          { t with acc := t.n % t.d, startAcc := 0, count := 0, fresh := false, length := t.n / t.d }).modAxes a fun u =>
          { u with axis := u.axis.map fun x => { x with skip := false } }))
    ∧ (∀ t : SetpointTimer, 0 < t.d → t.fresh = true →
        t.startPeriod = { t with acc := t.n % t.d, startAcc := 0, count := 0, fresh := false, length := t.n / t.d })

/-- Over any D consecutive periods without a realignment or a change of ratio the lengths add up to N and the accumulator
returns to where it began; each period lasts floor(N / D) or one more (R44). -/
def Obligations.PeriodsSumToRatio : Prop :=
  ∀ t : SetpointTimer, 0 < t.d → t.acc < t.d → t.fresh = false →
    ((List.range t.d).map fun k => (periodsOn (k + 1) t).length).sum = t.n
    ∧ (periodsOn t.d t).acc = t.acc
    ∧ (∀ k, (periodsOn (k + 1) t).length = t.n / t.d
        ∨ (periodsOn (k + 1) t).length = t.n / t.d + 1)

/-! ### The axis unit -/

/-- One count (R54): 1 is added for a forward and subtracted for a reverse count, modulo 2^32 in the signed range, exactly
one channel of the pair changes, and the sense is recorded. Forward, the first channel leads the second: the pair passes
through 00, 10, 11, 01 and 00 again; a reverse count takes it one step back in that order. Nothing else changes. -/
def Obligations.QuadratureCount : Prop :=
  ∀ (a : Arm) (i : Axis) (d : Sense) (s : State),
    let x := (s.axes.get a).axis.get i
    let one : Int := if d = .forward then 1 else -1
    ∃ (c : Int) (p : Bool × Bool),
      Goes (.quadratureCount a i d) s (s.modAxis a i fun y => { y with count := c, pair := p, sense := d })
      ∧ -2147483648 ≤ c ∧ c ≤ 2147483647 ∧ (c - (x.count + one)) % 4294967296 = 0
      ∧ (-2147483648 ≤ x.count + one → x.count + one ≤ 2147483647 → c = x.count + one)
      ∧ (p.1 = x.pair.1 ↔ p.2 ≠ x.pair.2)
      ∧ let ahead := fun q : Bool × Bool => match q with
          | (false, false) => (true, false)
          | (true, false) => (true, true)
          | (true, true) => (false, true)
          | (false, true) => (false, false)
        (d = .forward → p = ahead x.pair) ∧ (d = .reverse → x.pair = ahead p)

/-- A reference mark (R57 to R59, R89). Unless the active segment is a HOME of this axis, ACTIVE, with the axis's last
count in its direction, it changes nothing. Acted on, it loads the counter, makes the axis REFERENCED with ERROR clear,
skips the axis's next following check, moves the path by the re-base difference and enters the stop ramp with pending
outcome DONE, which at v = 0 ends the HOME DONE at once (R88); the standing recompute of a newly REFERENCED axis changes
zone fields only while no arm waits. -/
def Obligations.ReferenceMark : Prop :=
  ∀ (a : Arm) (i : Axis) (s : State),
    let x := (s.axes.get a).axis.get i
    let acted := fun (w : Working) => ∃ dir search, (s.motion.get a).active = some w
      ∧ w.seg.move = .home i dir search ∧ w.status = .active
      ∧ x.sense = (match dir with
          | .rising => .forward
          | .falling => .reverse)
    ((¬ ∃ w, acted w) → Goes (.referenceMark a i) s s)
    ∧ (∀ w, acted w → 0 < w.v →
        let ref := ((s.cal.get a).axis.get i).reference
        let delta := wrap32 (ref - x.count)
        let u := ((s.modAxis a i fun y => { y with count := ref, referenced := true, error := false, skip := true }).modMotion
          a fun m => { m with active := some { w with
            rawStart := w.rawStart.set i (wrap32 (w.rawStart.get i + delta))
            rawEnd := w.rawEnd.set i (wrap32 (w.rawEnd.get i + delta))
            status := .stopping .done } }).setPhase a .stopping
        (x.referenced = true → Goes (.referenceMark a i) s u)
        ∧ (s.waiters = [] → ∃ t, Goes (.referenceMark a i) s t ∧ ExceptZones u t))
    ∧ (∀ w, acted w → w.v = 0 → (s.motion.get a).queue = [] → (s.motion.get a).resetPending = false →
        (s.motion.get a).holdPending = false → s.waiters = [] →
        let ref := ((s.cal.get a).axis.get i).reference
        let delta := wrap32 (ref - x.count)
        let w' := { w with
          rawStart := w.rawStart.set i (wrap32 (w.rawStart.get i + delta))
          rawEnd := w.rawEnd.set i (wrap32 (w.rawEnd.get i + delta)) }
        ∃ t, Goes (.referenceMark a i) s t
          ∧ ExceptZones ((((s.modAxis a i fun y =>
              { y with count := ref, referenced := true, error := false, skip := true }).modAxes a fun u =>
              { u with axis := .of fun j => { u.axis.get j with standing := w'.setpoints.get j } }).modMotion a fun m =>
              { m with active := none }).addResult a w.seg.tag .done |>.setPhase a .idle) t)

/-- A change of arm state (R62, R63): DEN follows it in the same step, and one release frame, with the count raised by 1
modulo 256, the enable flag clear and the last setpoints sent, goes out exactly when DEN falls. At the end of a drive
frame the line takes the next frame that waits (R204); that frames wait in order is log 20. The line idles high; each byte
of the frame is sent in ten bit times without a gap: a low start bit, eight data bits least significant first, a high stop
bit. The 14 bytes are the count, the enable flag and the three setpoints (R204). -/
def Obligations.PhaseDrivesEnable : Prop :=
  (∀ (a : Arm) (s : State),
    Goes (.driveFrameEnd a) s (s.modAxes a fun u => { u with line := u.line.tail, bits := 0 }))
  ∧ (∀ u : AxisUnit, (u.line = [] → u.level = true)
    ∧ ∀ f rest, u.line = f :: rest → FrameBytes f f.bytes
      ∧ ∀ (k : Nat) (b : Byte), f.bytes[k]? = some b →
        (u.bits = 10 * k → u.level = false)
        ∧ (∀ i, i < 8 → u.bits = 10 * k + 1 + i → u.level = b.getLsbD i)
        ∧ (u.bits = 10 * k + 9 → u.level = true))
  ∧ ∀ (s : State) (a : Arm) (p : Phase),
    let u := s.axes.get a
    let t := s.setPhase a p
    let off := p = .off ∨ ∃ r, p = .fault r
    (t.motion.get a = { s.motion.get a with phase := p })
    ∧ (u.den = true → off → t.axes.get a = { u with
        den := false, frameCount := (u.frameCount + 1) % 256,
        line := u.line ++ [⟨(u.frameCount + 1) % 256, false, u.axis.map (·.lastSent)⟩] })
    ∧ (u.den = false → off → t.axes.get a = u)
    ∧ (¬ off → t.axes.get a = { u with den := true })
    ∧ t = { s with motion := t.motion, axes := t.axes } ∧ t.motion.get a.other = s.motion.get a.other
    ∧ t.axes.get a.other = s.axes.get a.other

/-- An illegal transition and a drive fault (R55, R66, R68, R69). The axis takes ERROR and becomes UNREFERENCED and the
fault is reported; an arm in FAULT stays as it is. From any other state the arm enters FAULT: the active segment ends
FAULTED, the queue is flushed after it, the entry of a waiting head goes, DEN falls with a release frame, ARM_FAULT is
raised to the arm's link and to link S, and no zone stays held for SEGMENT or LINGER. A change context fails with its arm
by its step (R162), and one in FAILED_OPEN or CLOSING stays. A change of DFLT to inactive, or with DEN deasserted, or to
the level it has, records the level alone. Where an ARM RESET is pending it completes at once from FAULT: the arm is OFF,
its queue, results and points are empty and its link's flags clear, with ARM_FAULT still on link S (R100, R101). In FAULT
an axis that was REFERENCED is UNREFERENCED too, and the standing recompute takes every free SHARED zone for CLAIM (R55,
R109, R110). The tag the report carries is log 18, and that a pending read which the change leaves without an asker stays
is log 55, both the model's choices. Stated while the other arm does not wait, and for a drive fault of an arm in motion
also where the other arm's head waits for the zones that the entry releases: it is granted them and starts (R68, R117). -/
def Obligations.FaultEntries : Prop :=
  ∀ (a : Arm) (i : Axis) (level : Bool) (s : State),
    let ended := fun s : State => match (s.motion.get a).active with
      | some w => (s.modMotion a fun m => { m with active := none }).addResult a w.seg.tag .faulted
      | none => s
    let entered := fun (r : FaultReason) (s : State) =>
      ((((unwaited (flush a (ended s)).1).modMotion a fun m => { m with holdPending := false }).setPhase a (.fault r)).raise
        a.link .armFault).raise .S .armFault
    let pending := (s.motion.get a).resetPending
    let left := fun u : State => if pending = true then resetDone u a else u
    let x := s.modAxis a i fun y =>
      { y with pair := (!y.pair.1, !y.pair.2), error := true, referenced := false }
    let y := s.modAxes a fun u => { u with dflt := level }
    (∀ r, (s.motion.get a).phase = .fault r → ((s.axes.get a).axis.get i).referenced = false →
      Goes (.illegalTransition a i) s (x.report (x.armReport .encoder a)))
    ∧ (∀ r, (s.motion.get a).phase = .fault r → ((s.axes.get a).axis.get i).referenced = true → s.waiters = [] →
      ∃ t, Goes (.illegalTransition a i) s t ∧ ExceptZones (x.report (x.armReport .encoder a)) t
        ∧ (s.startup ≠ .loading → (∀ z : ZoneId, z ∈ t.standing.get a ↔ (s.zones.get z).kind = .shared)
          ∧ ∀ z : ZoneId, (s.zones.get z).kind = .shared → (s.holders.get z = none → t.holders.get z = some (a, .claim))
            ∧ ∀ why, s.holders.get z = some (a.other, why) → t.holders.get z = some (a.other, why)))
    ∧ ((∀ r, (s.motion.get a).phase ≠ .fault r) → Inert s a → Alone s a →
      ∃ t, Goes (.illegalTransition a i) s t ∧ NoLoose t a
        ∧ ExceptZones (left (entered .encoder (x.report (x.armReport .encoder a)))) t)
    ∧ (level = false ∨ (s.axes.get a).dflt = true ∨ (s.axes.get a).den = false → Goes (.dfltChange a level) s y)
    ∧ (level = true → (s.axes.get a).dflt = false → (s.axes.get a).den = true → Inert s a → Alone s a →
      ∃ t, Goes (.dfltChange a level) s t ∧ NoLoose t a
        ∧ ExceptZones (left (entered .drive (y.report (y.armReport .drive a)))) t)
    ∧ (∀ h rest g, level = true → (s.axes.get a).dflt = false → (s.axes.get a).den = true → Inert s a →
      (s.motion.get a).phase = .moving ∨ (s.motion.get a).phase = .stopping →
      (s.motion.get a).active ≠ none → Yields s a h rest g → ∃ t, Goes (.dfltChange a level) s t ∧ NoLoose t a
        ∧ HeadStarted (left (entered .drive (y.report (y.armReport .drive a)))) t a.other h rest g)
    ∧ (∀ k, s.change.get a = some k → k.step ≠ .failedOpen → k.step ≠ .closing → (∀ r, (s.motion.get a).phase ≠ .fault r) →
      Lonely s a k → Tables s →
      let failed := fun (r : FaultReason) (t : State) => Fails s t a k
        ∧ (if pending = true then (t.motion.get a).phase = .off ∧ (t.motion.get a).results = []
            ∧ (t.links.get a.link).flags = [] ∧ (t.motion.get a).resetPending = false
          else (t.motion.get a).phase = .fault r ∧ .armFault ∈ (t.links.get a.link).flags
            ∧ (if k.step = .waitRack ∨ k.step = .opening then Notice.changeEnded else .changeStep)
              ∈ (t.links.get a.link).flags)
        ∧ (t.motion.get a).queue = [] ∧ (t.motion.get a).active = none ∧ .armFault ∈ (t.links.get .S).flags
        ∧ t.faultCount = min (s.faultCount + 1) 65535 ∧ NoLoose t a
      (∃ t, Goes (.illegalTransition a i) s t ∧ failed .encoder t)
      ∧ (level = true → (s.axes.get a).dflt = false → (s.axes.get a).den = true →
          ∃ t, Goes (.dfltChange a level) s t ∧ failed .drive t))

/-- ENABLE and DISABLE (R64, R65, R109, R110, R116, R117): the checks in their order. An accepted ENABLE takes the three
counts as standing setpoints and last setpoints sent and makes the arm IDLE, with its standing set formed anew: a free
zone of it becomes STANDING, or CLAIM while an axis is UNREFERENCED, and a zone of the other arm stays the other's; that a
zone the arm already holds for CLAIM stays CLAIM while an axis is UNREFERENCED is log 17, the model's choice. DISABLE in
OFF changes nothing; in IDLE, WAITING, HELD or COLLISION without a change context it flushes the queue with the waiting
head's entry, makes the arm OFF, stops its linger timer and hands on every zone it holds for SEGMENT or LINGER. Stated
while the other arm does not wait. -/
def Obligations.EnableDisable : Prop :=
  ∀ (a : Arm) (s : State),
    let m := s.motion.get a
    let stopped := m.phase = .off
    let barred := m.phase = .moving ∨ m.phase = .stopping ∨ ∃ r, m.phase = .fault r
    (Takes s a.link (.enable a.link) →
      (m.phase ≠ .off ∨ m.resetPending = true ∨ (s.axes.get a).dflt = true →
        Refuses (.enable a.link) a.link s .wrongState)
      ∧ (stopped → m.resetPending = false → (s.axes.get a).dflt = false → s.waiters = [] → s.startup = .ready →
        let u := answered ((s.modAxes a fun u =>
          { u with axis := u.axis.map fun x => { x with standing := x.count, lastSent := x.count } }).setPhase a
          .idle) a.link .ok .none
        ∃ t, Goes (.enable a.link) s t ∧ ExceptZones u t
          ∧ t.standing.get a = s.standingSet a ∧ t.standing.get a.other = s.standing.get a.other
          ∧ (NoLoose s a → Rests u t a)))
    ∧ (Takes s a.link (.disable a.link) →
      (stopped → Answers (.disable a.link) a.link s s)
      ∧ (barred → Refuses (.disable a.link) a.link s .wrongState)
      ∧ (¬ stopped → ¬ barred → s.change.get a ≠ none → Refuses (.disable a.link) a.link s .wrongState)
      ∧ (¬ stopped → ¬ barred → s.change.get a = none → Alone s a → ∃ t, Goes (.disable a.link) s t ∧ NoLoose t a
        ∧ ExceptZones (answered ((unwaited (flush a s).1).setPhase a .off) a.link .ok .none) t
        ∧ t.linger.get a = none
        ∧ (s.waiters = [] → HandsOn s t a fun z =>
            s.holders.get z = some (a, .segment) ∨ s.holders.get z = some (a, .linger))))

/-- A setpoint expiry while the part is READY (R44, R45, R59 to R61, R67, R85 to R88, R96). The next period starts and the
skip marks are spent. With DEN deasserted nothing else happens. With a checked axis off by more than the following limit
no frame is sent and the arm enters FAULT(FOLLOWING), which ends its active segment FAULTED and flushes its queue (R68);
where an ARM RESET is pending it completes at once from FAULT (R100, R101). Otherwise one frame goes out: with no active
segment it repeats the standing setpoints; else the segment advances by one step and the frame carries its setpoints. That
a frame waits on the line behind one still being sent is log 20, and that the report carries the tag of a segment also in
its stop ramp is log 18. -/
def Obligations.SetpointExpiry : Prop :=
  ∀ (a : Arm) (s : State), s.startup = .ready →
    let u := s.axes.get a
    let m := s.motion.get a
    let on := (s.modTimer a SetpointTimer.startPeriod).modAxes a fun u =>
      { u with axis := u.axis.map fun x => { x with skip := false } }
    let strays := ∃ i, (u.axis.get i).skip = false
      ∧ (s.cal.get a).followingLimit < (wrap32 ((u.axis.get i).count - (u.axis.get i).lastSent)).natAbs
    let sent := fun (sp : Vec3) (s : State) => s.modAxes a fun u =>
      { u with
        frameCount := (u.frameCount + 1) % 256
        line := u.line ++ [⟨(u.frameCount + 1) % 256, true, sp⟩]
        axis := .of fun i => { u.axis.get i with lastSent := sp.get i } }
    let left := fun u : State => if m.resetPending = true then resetDone u a else u
    (u.den = false → Goes (.setpointExpiry a) s on)
    ∧ (u.den = true → ¬ strays → m.active = none →
        Goes (.setpointExpiry a) s (sent (u.axis.map (·.standing)) on))
    ∧ (∀ w, u.den = true → ¬ strays → m.active = some w → w.status = .active →
        let v := w.nextVelocity (s.cal.get a).a m.override
        let w' := { w with p := w.p + v, v := v }
        w'.p ≠ w.len →
          Goes (.setpointExpiry a) s (sent w'.setpoints (on.modMotion a fun m => { m with active := some w' })))
    ∧ (∀ w o, u.den = true → ¬ strays → m.active = some w → w.status = .stopping o →
        let v := min (w.v - (s.cal.get a).aStop) (w.len - w.p)
        let w' := { w with p := w.p + v, v := v }
        v ≠ 0 →
          Goes (.setpointExpiry a) s (sent w'.setpoints (on.modMotion a fun m => { m with active := some w' })))
    ∧ (u.den = true → strays → s.change.get a = none → m.active = none → m.queue = [] →
        s.waiters = [] → ∃ t, Goes (.setpointExpiry a) s t ∧ NoLoose t a
          ∧ ExceptZones (left (((((on.report (s.armReport .following a)).modMotion a fun m =>
              { m with holdPending := false }).setPhase a (.fault .following)).raise a.link .armFault).raise .S
              .armFault)) t)
    ∧ (∀ w, u.den = true → strays → Inert s a → m.active = some w → s.waiters = [] →
        ∃ t, Goes (.setpointExpiry a) s t ∧ NoLoose t a
          ∧ ExceptZones (left (((((flush a (((on.report (s.armReport .following a)).modMotion a fun m =>
              { m with active := none }).addResult a w.seg.tag .faulted)).1.modMotion a fun m =>
              { m with holdPending := false }).setPhase a (.fault .following)).raise a.link .armFault).raise .S
              .armFault)) t)

/-- The expiry at which a segment ends (R60, R86, R88, R92, R96, R98): its standing setpoints are that frame's, one result
is recorded, and the arm goes where the outcome takes it: HELD(MISSED) for a PROBE and HELD(HOME_FAILED) for a HOME that
reach their end, COLLISION after a contact, HELD(ID_MISMATCH) where a hold was asked, else the next head is evaluated,
which with an empty queue leaves the arm IDLE. What a POST queued behind a contact ramp is flushed at its end (R72, R76;
log 41), and a change in WAIT_RACK or OPENING then ends FAILED(ARM) (R162), where one in a later step stays as it is (log
46). With an ARM RESET pending the reset completes instead, whatever the outcome and the queue (R100, R101): the arm is
OFF after one more frame, the release frame; the queue, the results with this last one, and the points are empty, the
link's flags clear; it holds no zone for SEGMENT or LINGER, and a change fails with its arm (R162; a pending read: log
55). The zones that the new standing set leaves out become LINGER with the linger timer at the setting's length, or with
length 0 are released; those it contains become STANDING (R109, R115 to R117; log 15), but that a zone held for CLAIM
stays CLAIM while an axis is UNREFERENCED is log 17, the model's choice. Where the other arm's head waits for the zones
that this end releases, it is granted them and starts in the same event (R83, R115, R117). That the frame of the expiry
waits on the line behind one still being sent is log 20. Stated for a READY part, without a pending reset for another
outcome than CONTACT with an empty queue; a change in WAIT_RACK may have its CHANGE entry. -/
def Obligations.SegmentEnds : Prop :=
  ∀ (a : Arm) (w : Working) (o : Outcome) (s : State),
    let m := s.motion.get a
    let v := match w.status with
      | .active => w.nextVelocity (s.cal.get a).a m.override
      | .stopping _ => w.rampVelocity (s.cal.get a).aStop
    let sp := (w.step v).setpoints
    let on := ((s.modTimer a SetpointTimer.startPeriod).modAxes a AxisUnit.clearSkips).modAxes a (·.sendSetpoints sp)
    let done := ((on.setStanding a sp).modMotion a fun m =>
      { m with active := none, holdPending := false }).addResult a w.seg.tag o
    let final := if o = .contact then (flush a done).1.setPhase a .collision
      else if m.holdPending = true then done.hold a .idMismatch
      else if o = .missed then done.hold a .missed
      else if o = .homeFailed then done.hold a .homeFailed
      else done.setPhase a .idle
    s.startup = .ready → (s.axes.get a).den = true → (s.axes.get a).strays (s.cal.get a).followingLimit = false →
    m.active = some w → (m.queue = [] ∨ o = .contact ∨ m.resetPending = true) →
    ((w.status = .active ∧ w.p + v = w.len ∧ o = endOutcome w.seg.move) ∨ (w.status = .stopping o ∧ v = 0)) →
    (m.resetPending = true →
      (Inert s a → s.waiters = [] → ∃ t, Goes (.setpointExpiry a) s t ∧ NoLoose t a ∧ ExceptZones (resetDone done a) t)
      ∧ (∀ h rest g, Inert s a → m.phase = .moving ∨ m.phase = .stopping → Yields s a h rest g →
          ∃ t, Goes (.setpointExpiry a) s t ∧ NoLoose t a ∧ HeadStarted (resetDone done a) t a.other h rest g)
      ∧ ∀ k, s.change.get a = some k → k.step ≠ .failedOpen → k.step ≠ .closing → Lonely s a k → Tables s →
          ∃ t, Goes (.setpointExpiry a) s t ∧ Fails s t a k ∧ (t.motion.get a).phase = .off
            ∧ (t.motion.get a).queue = [] ∧ (t.motion.get a).results = [] ∧ (t.motion.get a).resetPending = false
            ∧ (t.links.get a.link).flags = [] ∧ NoLoose t a)
    ∧ (m.resetPending = false → (∀ k, s.change.get a = some k → o = .contact → k.step = .waitRack ∨ k.step = .opening → Lonely s a k →
      Tables s → ∃ t, Goes (.setpointExpiry a) s t ∧ Fails s t a k ∧ (t.motion.get a).phase = .collision
        ∧ (t.motion.get a).queue = [] ∧ (t.motion.get a).active = none ∧ .changeEnded ∈ (t.links.get a.link).flags)
    ∧ ((∀ k, o = .contact → s.change.get a = some k → k.step ≠ .waitRack ∧ k.step ≠ .opening) →
      (s.waiters = [] → ∃ t, Goes (.setpointExpiry a) s t ∧ ExceptZones final t
        ∧ (∀ (z : ZoneId) (r : HoldWhy), t.holders.get z = some (a, r) → r ≠ .segment)
        ∧ (m.phase = .moving ∨ m.phase = .stopping → Rests done t a))
      ∧ ∀ h rest g, m.phase = .moving ∨ m.phase = .stopping → Yields s a h rest g →
        ∃ t, Goes (.setpointExpiry a) s t ∧ HeadStarted final t a.other h rest g))

/-! ### The motion unit -/

/-- POST and REPLACE (R75 to R77): the first check that fails refuses the request with its code. An accepted POST joins
the queue at its tail; an accepted REPLACE first flushes it. On an arm that is IDLE, or WAITING at a REPLACE, the head is
evaluated: stated here for a HOME, which starts at once, while the other arm does not wait. The second check refuses an
entry outside the ranges of R73 and takes the others as segments of their kind with the fields the kind uses. -/
def Obligations.PostAndReplace : Prop :=
  ∀ (a : Arm) (es : List SegEntry) (s : State), 1 ≤ es.length → es.length ≤ 4 →
    let m := s.motion.get a
    let barred := m.phase = .off ∨ m.phase = .collision ∨ (∃ r, m.phase = .fault r) ∨ m.resetPending = true
    let bad := fun e : SegEntry => e.kind = none ∨ e.feed < 1 ∨ 1000000 < e.feed
      ∨ (e.kind = some .probe ∧ 1000000 < e.overtravel)
      ∨ (e.kind = some .home ∧ (e.axis = none ∨ e.direction = none ∨ e.search < 1 ∨ 200000000 < e.search))
    let taken := fun (e : SegEntry) (x : Segment) => x.tag = e.tag ∧ x.feed = e.feed
      ∧ (e.kind = some .position → x.move = .position e.target) ∧ (e.kind = some .rack → x.move = .rack e.target)
      ∧ (e.kind = some .probe → x.move = .probe e.target e.overtravel)
      ∧ (∀ i d, e.kind = some .home → e.axis = some i → e.direction = some d → x.move = .home i d e.search)
    let noRack := fun xs : List Segment => (∃ x ∈ xs, x.move.kind = .rack) ∧ s.rackOpenStep a = false
    let noMark := fun xs : List Segment =>
      (∃ x ∈ xs, x.move.kind ≠ .home) ∧ ∃ i, ((s.axes.get a).axis.get i).referenced = false
    let beyond := fun xs : List Segment => ∃ x ∈ xs, ∃ t, x.move.target? = some t ∧ ∃ i,
      ¬ (((s.cal.get a).axis.get i).softMin < ((s.cal.get a).axis.get i).softMax
        ∧ ((s.cal.get a).axis.get i).softMin ≤ t.get i ∧ t.get i ≤ ((s.cal.get a).axis.get i).softMax)
    let noTip := fun xs : List Segment => (∃ x ∈ xs, x.move.kind = .probe)
      ∧ ((∀ n p, s.probes.get n = some p → p.place ≠ .mounted a) ∨ s.change.get a ≠ none)
    let judged := fun (c : Instr) (room : Nat) =>
      (barred → Refuses c a.link s .wrongState)
      ∧ (segmentsOf es = none ↔ ∃ e ∈ es, bad e) ∧ (∀ xs, segmentsOf es = some xs → xs.length = es.length
          ∧ ∀ (i : Nat) (e : SegEntry) (x : Segment), es[i]? = some e → xs[i]? = some x → taken e x)
      ∧ (¬ barred → segmentsOf es = none → Refuses c a.link s .badArgument)
      ∧ ∀ xs, ¬ barred → segmentsOf es = some xs →
        (noRack xs → Refuses c a.link s .wrongState)
        ∧ (¬ noRack xs → noMark xs → Refuses c a.link s .notReferenced)
        ∧ (¬ noRack xs → ¬ noMark xs → beyond xs → Refuses c a.link s .outOfLimits)
        ∧ (¬ noRack xs → ¬ noMark xs → ¬ beyond xs → noTip xs → Refuses c a.link s .noProbe)
        ∧ (¬ noRack xs → ¬ noMark xs → ¬ beyond xs → ¬ noTip xs → room < xs.length →
            Refuses c a.link s .queueFull)
    let passes := fun (xs : List Segment) (room : Nat) =>
      ¬ barred ∧ segmentsOf es = some xs ∧ ¬ noRack xs ∧ ¬ noMark xs ∧ ¬ beyond xs ∧ ¬ noTip xs ∧ xs.length ≤ room
    let started := fun (h : Segment) (rest : List Segment) (u : State) =>
      answered ((u.modMotion a fun m => { m with queue := rest, geometry := none, active := some (s.work a h none) }).setPhase
        a .moving) a.link .ok .none
    (Takes s a.link (.post a.link es) →
      judged (.post a.link es) (16 - m.queue.length)
      ∧ ∀ xs, passes xs (16 - m.queue.length) →
        (m.phase ≠ .idle → Answers (.post a.link es) a.link s (s.modMotion a fun m => { m with queue := m.queue ++ xs }))
        ∧ (∀ h rest, m.phase = .idle → m.queue = [] → xs = h :: rest → h.move.kind = .home → s.waiters = [] →
            ∃ t, Goes (.post a.link es) s t ∧ ExceptZones (started h rest s) t))
    ∧ (Takes s a.link (.replace a.link es) →
      judged (.replace a.link es) 16
      ∧ ∀ xs, passes xs 16 →
        (m.phase ≠ .idle → (∀ r, m.phase ≠ .waiting r) →
          Answers (.replace a.link es) a.link s ((flush a s).1.modMotion a fun m => { m with queue := xs }))
        ∧ (∀ h rest, m.phase = .idle ∨ (∃ r, m.phase = .waiting r) → xs = h :: rest → h.move.kind = .home →
            Alone s a →
            ∃ t, Goes (.replace a.link es) s t ∧ ExceptZones (started h rest (unwaited (flush a s).1)) t))

/-- A flush (R74, R97): an empty queue adds no result; else every segment leaves and one FLUSHED result, numbered next,
carries the head's tag and the number removed, the oldest of eight results makes room, and SEG_ENDED is raised. -/
def Obligations.FlushRecordsOne : Prop :=
  ∀ (a : Arm) (s : State),
    let m := s.motion.get a
    (m.queue = [] → flush a s = (s, []))
    ∧ (∀ h rest, m.queue = h :: rest → m.phase ≠ .waiting .zone →
        let all := m.results ++ [⟨(m.resultCount + 1) % 65536, h.tag, .flushed, some (rest.length + 1)⟩]
        ∃ kept, flush a s = ((s.modMotion a fun m =>
            { m with
              queue := [], geometry := none, resultCount := (m.resultCount + 1) % 65536, results := kept }).raise a.link
            .segEnded, [])
          ∧ (m.results.length < 8 → kept = all)
          ∧ (m.results.length = 8 → kept = all.tail))

/-- HALT by arm state (R90), from the arm's own link or from link S (R192). In OFF, IDLE, COLLISION and FAULT it changes
nothing; MOVING flushes the queue and enters the stop ramp with pending outcome HALTED, which at v = 0 ends the segment
HALTED at once and leaves the arm IDLE (R88), its entry after the FLUSHED one (log 53, the model's choice); STOPPING
flushes and keeps the ramp; WAITING and HELD flush, withdraw the head's entry with the hand-over counts it started (R114,
R118) and become IDLE. A change in WAIT_RACK or OPENING ends ABORTED, one in a later step stays as it is (R162). -/
def Obligations.HaltByState : Prop :=
  ∀ (l : Link) (x : Option (Option Arm)) (a : Arm) (s : State), Names l x a → Takes s l (.halt l x) →
    let m := s.motion.get a
    (∀ k, s.change.get a = some k → k.step = .waitRack ∨ k.step = .opening → Lonely s a k → Tables s →
      let ends := fun t : State => Ended s t a k .aborted ∧ .changeEnded ∈ (t.links.get a.link).flags
        ∧ (t.links.get l).response = some ⟨.ok, .none⟩
      (m.phase = .off ∨ m.phase = .idle ∨ m.phase = .collision ∨ (∃ r, m.phase = .fault r) →
        ∃ t, Goes (.halt l x) s t ∧ ends t ∧ t.motion = s.motion ∧ t.axes = s.axes)
      ∧ (∀ w, m.phase = .moving → m.active = some w → w.status = .active → 0 < w.v →
        ∃ t, Goes (.halt l x) s t ∧ ends t ∧ (t.motion.get a).phase = .stopping ∧ (t.motion.get a).queue = []
          ∧ (t.motion.get a).active = some { w with status := .stopping .halted }))
    ∧ ((∀ k, s.change.get a = some k → k.step ≠ .waitRack ∧ k.step ≠ .opening) →
    (m.phase = .off ∨ m.phase = .idle ∨ m.phase = .collision ∨ (∃ r, m.phase = .fault r) → Answers (.halt l x) l s s)
    ∧ (∀ w, m.phase = .moving → m.active = some w → w.status = .active → 0 < w.v →
        Answers (.halt l x) l s (((flush a s).1.modMotion a fun m =>
          { m with active := some { w with status := .stopping .halted } }).setPhase a .stopping))
    ∧ (∀ w, m.phase = .moving → m.active = some w → w.status = .active → w.v = 0 → m.resetPending = false →
        m.holdPending = false → s.waiters = [] → ∃ t, Goes (.halt l x) s t
          ∧ ExceptZones (((((flush a (answered s l .ok .none)).1.modAxes a fun u =>
              { u with axis := .of fun i => { u.axis.get i with standing := w.setpoints.get i } }).modMotion a fun m =>
              { m with active := none }).addResult a w.seg.tag .halted).setPhase a .idle) t)
    ∧ (m.phase = .stopping → Answers (.halt l x) l s (flush a s).1)
    ∧ ((∃ r, m.phase = .waiting r) ∨ (∃ r, m.phase = .held r) → Alone s a →
        ∃ t, Goes (.halt l x) s t
          ∧ ExceptZones (answered ((unwaited (flush a s).1).setPhase a .idle) l .ok .none) t
          ∧ (s.waiters ≠ [] → ∀ h ∈ t.handover, h.holder ≠ a.other)))

/-- CLEAR in COLLISION makes the arm IDLE with DEN asserted and moves nothing; in FAULT it makes the arm OFF, and is refused
WRONG_STATE while DFLT is active; in every other state it is refused WRONG_STATE (R69, R94). OVERRIDE takes its value, at
most 150, in every arm state (R87). -/
def Obligations.ClearAndOverride : Prop :=
  ∀ (a : Arm) (v : Nat) (s : State),
    let m := s.motion.get a
    (Takes s a.link (.clear a.link) →
      (m.phase = .collision → Answers (.clear a.link) a.link s
          ((s.modMotion a fun m => { m with phase := .idle }).modAxes a fun u => { u with den := true }))
      ∧ (∀ r, m.phase = .fault r → (s.axes.get a).dflt = true → Refuses (.clear a.link) a.link s .wrongState)
      ∧ (∀ r, m.phase = .fault r → (s.axes.get a).dflt = false →
          Answers (.clear a.link) a.link s (s.setPhase a .off))
      ∧ (m.phase ≠ .collision → (∀ r, m.phase ≠ .fault r) → Refuses (.clear a.link) a.link s .wrongState))
    ∧ (Takes s a.link (.override a.link v) → Answers (.override a.link v) a.link s
        (s.modMotion a fun m => { m with override := if 150 < v then 150 else v }))

/-- RESUME (R93) and the evaluation of the head it starts (R78 to R83, R89), stage by stage: refused WRONG_STATE outside
HELD and while an ARM RESET is pending. With an empty queue the arm is IDLE. A HOME starts at once. A RACK segment out of
a rack-open step, a PROBE with TRIG active, with a full point queue, or with its target at its start, a swept box that
meets a FORBIDDEN zone (or, where the start box meets it already, an end box that does) or, unless the segment is a RACK
one, the RACK zone, and an end box that meets a needed zone whose hand-over count has reached K (R120), each hold the arm
or make it wait as stated. -/
def Obligations.ResumeEvaluates : Prop :=
  ∀ (a : Arm) (s : State), Takes s a.link (.resume a.link) →
    let m := s.motion.get a
    let c := Instr.resume a.link
    let u := answered (s.setPhase a .idle) a.link .ok .none
    ((∀ r, m.phase ≠ .held r) ∨ m.resetPending = true → Refuses c a.link s .wrongState)
    ∧ ∀ r, m.phase = .held r → m.resetPending = false →
      (m.queue = [] → Goes c s u)
      ∧ ∀ h rest, m.queue = h :: rest →
        let cut := fun o : Outcome =>
          (u.modMotion a fun m => { m with queue := rest, geometry := none }).addResult a h.tag o
        let w := s.work a h none
        (h.move.kind = .home → s.waiters = [] → ∃ t, Goes c s t
          ∧ ExceptZones ((u.modMotion a fun m =>
              { m with queue := rest, geometry := none, active := some w }).setPhase a .moving) t)
        ∧ (∀ i d n, h.move = .home i d n →
            w.p = 0 ∧ w.v = 0 ∧ w.status = .active ∧ w.len = n ∧ w.epoch = s.snapshot.epoch
            ∧ w.rawStart = (s.axes.get a).axis.map (·.standing)
            ∧ w.rawEnd.get i = wrap32 (((s.axes.get a).axis.get i).standing + if d = .rising then (n : Int) else -n)
            ∧ ∀ j, j ≠ i → w.rawEnd.get j = ((s.axes.get a).axis.get j).standing)
        ∧ (h.move.kind = .rack → s.rackOpenStep a = false → Goes c s ((cut .refusedRack).hold a .refusedRack))
        ∧ (h.move.kind = .probe → (s.capture.get a).trig = true → Goes c s ((cut .triggerStuck).hold a .triggerStuck))
        ∧ (h.move.kind = .probe → (s.capture.get a).trig = false → 32 ≤ (s.capture.get a).points.length →
            Goes c s ((u.setPhase a (.waiting .points)).raise a.link .pointsWait))
        ∧ ∀ target, h.move.target? = some target → (h.move.kind = .rack → s.rackOpenStep a = true) →
          (h.move.kind = .probe → (s.capture.get a).trig = false ∧ (s.capture.get a).points.length < 32) →
          let g := s.formGeometry a h.move target
          let start := g.start
          Formed s a h.move target g
          ∧ (h.move.kind = .probe → target = start → Goes c s ((cut .noDirection).hold a .noDirection))
          ∧ (h.move.kind ≠ .probe → target = start → rest = [] → Goes c s (cut .done))
          ∧ (target ≠ start →
            (InForbidden s a g → Goes c s ((cut .refusedForbidden).hold a .refusedForbidden))
            ∧ (¬ InForbidden s a g → h.move.kind ≠ .rack → InRackZone s g →
                Goes c s ((cut .refusedRack).hold a .refusedRack))
            ∧ (¬ InForbidden s a g → (h.move.kind = .rack ∨ ¬ InRackZone s g) → HandoverBars s a g →
                Goes c s ((u.modMotion a fun m => { m with geometry := none }).hold a .handover)))

/-- The request of a head for its zones (R80 to R84, R108, R111 to R114, R117 to R121), for a head that RESUME evaluates
and that passes the earlier stages. Its geometry and the record it starts with are the rules' formulas. With every needed
zone free, its own or lingering with the other arm, it is granted them all and starts, and each counted needed zone counts
one more, up to K: also while the other arm waits, where it releases nothing. The granted zones are its for SEGMENT unless
it held them for STANDING or CLAIM, its other loose zones are released and its linger timer stops; that a zone of its
standing set that lingered with the other arm becomes SEGMENT is log 44, the model's choice. With one held by the other
arm for another reason the arm is WAITING(ZONE) with an entry at the list's end, ZONE_WAIT is raised, it keeps no zone for
SEGMENT or LINGER, and a hand-over count of 0 starts for each needed zone with K above 0 that the other arm holds. Where
the other arm waits in turn for a zone this arm holds for STANDING, CLAIM or CHANGE, the head ends DEADLOCK, the arm is
held, DEADLOCK is raised on all links and the counts of its entry end. -/
def Obligations.HeadAsksZones : Prop :=
  ∀ (a : Arm) (h : Segment) (rest : List Segment) (target : Vec3) (r : HoldReason) (s : State),
    Takes s a.link (.resume a.link) → (s.motion.get a).phase = .held r → (s.motion.get a).resetPending = false →
    (s.motion.get a).queue = h :: rest → h.move.target? = some target →
    (h.move.kind = .rack → s.rackOpenStep a = true) →
    (h.move.kind = .probe → (s.capture.get a).trig = false ∧ (s.capture.get a).points.length < 32) →
    let g := s.formGeometry a h.move target
    target ≠ g.start → ¬ InForbidden s a g → (h.move.kind = .rack ∨ ¬ InRackZone s g) → ¬ HandoverBars s a g →
    let c := Instr.resume a.link
    let u := answered (s.setPhase a .idle) a.link .ok .none
    let w := s.work a h (some g)
    let wait := (((u.modMotion a fun m => { m with geometry := some g }).setPhase a (.waiting .zone)).raise a.link .zoneWait)
    let free := ∀ z ∈ g.needed, ∀ b why, s.holders.get z = some (b, why) → b = a ∨ why = .linger
    Formed s a h.move target g ∧ PathOf s a h g w
    ∧ (free → (s.waiters = [] ∨ ∃ why zs, s.waiters = [⟨a.other, why, zs⟩]
          ∧ ∀ z, s.holders.get z = some (a, .segment) ∨ s.holders.get z = some (a, .linger) → z ∈ g.needed) →
      ∃ t, Goes c s t
        ∧ ExceptZones ((u.modMotion a fun m =>
            { m with queue := rest, geometry := none, active := some w }).setPhase a .moving) t
        ∧ Granted s t a g.needed ∧ RaisesCounts s t a g.needed)
    ∧ (¬ free → s.waiters = [] → ∃ t, Goes c s t
      ∧ ExceptZones { wait with waiters := [⟨a, .segment, g.needed⟩] } t
      ∧ NoLoose t a ∧ StartsCounts s t a g.needed)
    ∧ (∀ (why : Purpose) (zs : List ZoneId), ¬ free → s.waiters = [⟨a.other, why, zs⟩] → NoLoose s a → NoLoose s a.other →
        ((∀ z ∈ zs, ∀ w, s.holders.get z ≠ some (a, w)) → ∃ t, Goes c s t
          ∧ t = { wait with waiters := [⟨a.other, why, zs⟩, ⟨a, .segment, g.needed⟩], handover := t.handover }
          ∧ StartsCounts s t a g.needed)
        ∧ ((∃ z ∈ zs, ∃ w, s.holders.get z = some (a, w)) → s.deferred.get a = false →
          Goes c s {
            ((((u.raise a.link .zoneWait).modMotion a fun m => { m with queue := rest, geometry := none }).addResult a
              h.tag .deadlock).hold a .deadlock).raiseAll .deadlock with
            handover := s.handover.filter fun h => decide (h.holder = a) }))

/-- ARM RESET (R100, R101), from the arm's own link or from link S. Repeated while one is pending it changes nothing;
MOVING enters the stop ramp with pending outcome HALTED, which at v = 0 ends the segment at once (R88); STOPPING keeps its
ramp; in every other state, and at that end, it completes (at the end of a ramp as SegmentEnds says, at a fault as
FaultEntries does): the queue, the results and the points are empty, the override is 100, the arm is OFF with its release
frame, its link's notice flags are clear, and it holds no zone for SEGMENT or LINGER. A change context fails with its arm
by its step, and one in FAILED_OPEN or CLOSING stays (R162); that a pending read which it leaves without an asker stays is
log 55, the model's choice. Where the other arm's head waits for the zones that the completion at v = 0 releases, it is
granted them and starts (R101, R117). -/
def Obligations.ArmResetCompletes : Prop :=
  ∀ (l : Link) (x : Option (Option Arm)) (a : Arm) (s : State), Names l x a → Takes s l (.armReset l x) →
    let m := s.motion.get a
    (m.resetPending = true → Answers (.armReset l x) l s s)
    ∧ (∀ w, m.resetPending = false → m.phase = .moving → m.active = some w → w.status = .active → 0 < w.v →
        Answers (.armReset l x) l s ((s.modMotion a fun m =>
          { m with resetPending := true, active := some { w with status := .stopping .halted } }).setPhase a .stopping))
    ∧ (m.resetPending = false → m.phase = .stopping →
        Answers (.armReset l x) l s (s.modMotion a fun m => { m with resetPending := true }))
    ∧ (∀ k, s.change.get a = some k → k.step ≠ .failedOpen → k.step ≠ .closing → m.resetPending = false →
        m.phase ≠ .moving → m.phase ≠ .stopping → Lonely s a k → Tables s → ∃ t, Goes (.armReset l x) s t ∧ Fails s t a k
          ∧ (t.motion.get a).phase = .off ∧ (t.motion.get a).queue = [] ∧ (t.motion.get a).results = []
          ∧ (t.links.get a.link).flags = [] ∧ NoLoose t a)
    ∧ (∀ w, m.resetPending = false → m.phase = .moving → m.active = some w → w.status = .active → w.v = 0 →
        (s.axes.get a).den = true → Inert s a →
        let final := resetDone (((answered s l .ok .none).modMotion a fun m => { m with active := none }).modAxes a fun u =>
          { u with axis := .of fun i => { u.axis.get i with standing := w.setpoints.get i } }) a
        (s.waiters = [] → ∃ t, Goes (.armReset l x) s t ∧ NoLoose t a ∧ ExceptZones final t)
        ∧ ∀ h rest g, Yields s a h rest g → ∃ t, Goes (.armReset l x) s t ∧ NoLoose t a
          ∧ HeadStarted final t a.other h rest g)
    ∧ (m.resetPending = false → m.phase ≠ .moving → m.phase ≠ .stopping → Inert s a → Alone s a →
        ∃ t, Goes (.armReset l x) s t ∧ NoLoose t a
          ∧ ExceptZones (resetDone (unwaited (answered s l .ok .none)) a) t)

/-- The step of an ACTIVE segment (R85): with rem = L - p the velocity takes min(candidate, isqrt(2 a rem), rem), the
candidate moving by at most a toward v_t = min(floor(v_feed × override / 100), v_feed), and p takes p + v. So p never
exceeds L, v never exceeds v_feed once it does not, v never rises by more than a, and an override above 100 gives the
target of 100. The setpoints of the new p go out: raw_start + R((raw_end - raw_start) p, L) on each axis, modulo 2^32
(R86; for a HOME the difference too is taken modulo 2^32, log 19). Stated at an expiry of an enabled MOVING arm whose
following check passes. -/
def Obligations.Interpolation : Prop :=
  ∀ (a : Arm) (w : Working) (s : State),
    s.startup = .ready → (s.axes.get a).den = true → (s.axes.get a).strays (s.cal.get a).followingLimit = false →
    (s.motion.get a).phase = .moving → (s.motion.get a).active = some w → w.status = .active → w.p < w.len →
    let m := s.motion.get a
    let acc := (s.cal.get a).a
    let vt := min (w.vFeed * m.override / 100) w.vFeed
    let cand := if w.v + acc ≤ vt then w.v + acc else if vt < w.v then max (w.v - acc) vt else vt
    let v := min (min cand (isqrt (2 * acc * (w.len - w.p)))) (w.len - w.p)
    (w.p + v ≠ w.len → ∃ t, Goes (.setpointExpiry a) s t
      ∧ (t.motion.get a).active = some { w with p := w.p + v, v := v }
      ∧ OnPath { w with p := w.p + v, v := v } ((t.axes.get a).axis.map (·.lastSent)))
    ∧ (∀ x : Working, OnPath x x.setpoints)
    ∧ w.p + v ≤ w.len ∧ (w.v ≤ w.vFeed → v ≤ w.vFeed) ∧ v ≤ w.v + acc
    ∧ (100 < m.override → vt = min (w.vFeed * 100 / 100) w.vFeed)
/-! ### The configuration writes of the blocks, the zone arbiter -/

/-- WRITE CALIBRATION, WRITE ZONE and WRITE SETTINGS (R13, R14, R104, R209): the checks in their order. An accepted
calibration replaces the arm's record and its standing set is formed anew; an accepted zone replaces the record, frees
every zone, ends every linger and forms both standing sets anew, arm A's first, so that a zone of both is arm A's, for
STANDING or for CLAIM while the arm has an UNREFERENCED axis; accepted settings take effect with the timer lengths clamped
and the masks cut to the kinds each link holds, and ATTN follows. After a calibration a free SHARED zone of the new set is
the arm's, one of the other arm stays the other's, and one the arm holds for STANDING or CLAIM outside the set is released
from an OFF arm, to the other arm where it is contested, and lingers with an IDLE one; that a zone held for CLAIM in the
set stays CLAIM while an axis is UNREFERENCED is log 17, the model's choice. Stated for the first two while no arm waits.
-/
def Obligations.ConfigurationWritten : Prop :=
  (∀ (arm : Option Arm) (e : Calibration) (s : State), Takes s .S (.writeCalibration .S arm e) →
    let c := Instr.writeCalibration .S arm e
    let rest := fun a : Arm => (s.motion.get a).phase = .off
      ∨ ((s.motion.get a).phase = .idle ∧ (s.motion.get a).queue = [])
    let wrong := ¬ rest .A ∨ ¬ rest .B ∨ ∃ a, s.change.get a ≠ none
    let out := fun (x lo hi : Int) => x < lo ∨ hi < x
    let bad := arm = none
      ∨ (∃ i, let k := e.axis.get i
          (k.sign ≠ 1 ∧ k.sign ≠ -1) ∨ out k.base (-1000000000) 1000000000 ∨ out k.reference (-1000000000) 1000000000
          ∨ out k.softMin (-100000000) 100000000 ∨ out k.softMax (-100000000) 100000000 ∨ k.softMax < k.softMin)
      ∨ e.vMax < 1 ∨ 1000000 < e.vMax ∨ e.a < 1 ∨ 65535 < e.a ∨ e.aStop < 1 ∨ 65535 < e.aStop ∨ e.aStop < e.a
      ∨ e.followingLimit < 1 ∨ 1000000 < e.followingLimit ∨ 5000000 < e.envelope
    (s.save ≠ .idle → Refuses c .S s .saveInProgress)
    ∧ (s.save = .idle → wrong → Refuses c .S s .wrongState)
    ∧ (s.save = .idle → ¬ wrong → bad → Refuses c .S s .badArgument)
    ∧ (∀ a, s.save = .idle → ¬ wrong → ¬ bad → arm = some a → s.waiters = [] →
        let u := { s with cal := s.cal.set a e }
        ∃ t, Goes c s t ∧ ExceptZones (answered u .S .ok .none) t
          ∧ (s.startup ≠ .loading → t.standing.get a = u.standingSet a
            ∧ ((s.motion.get a).phase = .idle → (s.motion.get a).active = none →
                (∀ z, s.holders.get z ≠ some (a, .segment)) → Rests (answered u .S .ok .none) t a)
            ∧ ((s.motion.get a).phase = .off →
                let deemed := fun b : Arm => if s.unreferenced b = true then HoldWhy.claim else .standing
                t.standing.get a.other = s.standing.get a.other ∧ ∀ z : ZoneId, (s.zones.get z).kind = .shared →
                  (s.holders.get z = none → t.holders.get z = if z ∈ u.standingSet a then some (a, deemed a) else none)
                  ∧ (∀ r, s.holders.get z = some (a.other, r) → t.holders.get z = some (a.other, r))
                  ∧ (∀ r, s.holders.get z = some (a, r) → z ∈ u.standingSet a →
                      t.holders.get z = some (a, if r = .claim then deemed a else .standing))
                  ∧ (∀ r, s.holders.get z = some (a, r) → r = .standing ∨ r = .claim → z ∉ u.standingSet a →
                      t.holders.get z = if z ∈ s.standing.get a.other then some (a.other, deemed a.other) else none)))))
  ∧ (∀ (n : Nat) (e : ZoneEntry) (s : State), Takes s .S (.writeZone .S n e) →
    let c := Instr.writeZone .S n e
    let wrong := (∃ a, (s.motion.get a).phase ≠ .off) ∨ ∃ a, s.change.get a ≠ none
    let bad := 15 < n ∨ e.kind = none ∨ ∃ i, e.box.lo.get i < -100000000 ∨ 100000000 < e.box.lo.get i
      ∨ e.box.hi.get i < -100000000 ∨ 100000000 < e.box.hi.get i ∨ e.box.hi.get i < e.box.lo.get i
    (s.save ≠ .idle → Refuses c .S s .saveInProgress)
    ∧ (s.save = .idle → wrong → Refuses c .S s .wrongState)
    ∧ (s.save = .idle → ¬ wrong → bad → Refuses c .S s .badArgument)
    ∧ (∀ (h : n < 16) (k : ZoneKind), s.save = .idle → ¬ wrong → ¬ bad → e.kind = some k →
        let second := k = .rack ∧ ∃ y : ZoneId, y.val ≠ n ∧ (s.zones.get y).kind = .rack
        (second → Refuses c .S s .inUse)
        ∧ (¬ second → s.waiters = [] → s.startup ≠ .loading →
            let u := { s with
              zones := Table.put s.zones ⟨n, h⟩ { kind := k, box := e.box, k := if k = .shared then e.k else 0 } }
            ∃ t, Goes c s t ∧ ExceptZones (answered u .S .ok .none) t
              ∧ (∀ a, t.standing.get a = u.standingSet a) ∧ t.linger = .both none
              ∧ (∀ z : ZoneId, (∀ a, z ∈ u.standingSet a ↔ (u.zones.get z).kind = .shared ∧ (s.unreferenced a = true
                  ∨ Meets (Around (s.position a) (s.reach a)) (u.zones.get z).box))
                ∧ let deemed := fun b : Arm => if s.unreferenced b = true then HoldWhy.claim else .standing
                  t.holders.get z = if z ∈ u.standingSet .A then some (.A, deemed .A)
                    else if z ∈ u.standingSet .B then some (.B, deemed .B) else none))))
  ∧ (∀ (e : SettingsEntry) (s : State), Takes s .S (.writeSettings .S e) →
    let c := Instr.writeSettings .S e
    let bad := e.matchMode = none ∨ e.startLocked = none ∨ 10000 < e.qualLimit
    let double := e.matchMode = some .serialOnly ∧ ∃ (m n : Slot) (p q : Probe), m ≠ n
      ∧ s.probes.get m = some p ∧ s.probes.get n = some q ∧ p.identity / 256 = q.identity / 256
    (s.save ≠ .idle → Refuses c .S s .saveInProgress)
    ∧ (s.save = .idle → bad → Refuses c .S s .badArgument)
    ∧ (s.save = .idle → ¬ bad → double → Refuses c .S s .inUse)
    ∧ (∀ mode locked, s.save = .idle → ¬ bad → ¬ double → e.matchMode = some mode → e.startLocked = some locked →
        let mask := fun l : Link => (noticesOf l).filter fun k => (match l with
          | .A => e.maskA
          | .B => e.maskB
          | .S => e.maskS).contains k
        let link := fun l : Link =>
          { s.links.get l with mask := mask l, attn := attnOf (s.links.get l).flags (mask l) }
        Answers c .S s { s with
          settings :=
            { matchMode := mode, startLocked := locked, linger := min e.linger 5000
              stepTimeout := clampNat e.stepTimeout 1 300, rackTimeout := clampNat e.rackTimeout 5 300
              qualLimit := e.qualLimit }
          links := ⟨link .A, link .B, link .S⟩ }))

/-- A linger expiry (R116 to R118): the zones the arm holds for LINGER are released, and no other, with the arm's
hand-over counts for them. With no arm waiting each becomes the other arm's where it is in that arm's standing set, and
free else; with the other arm waiting for them alone, its head is granted its zones and starts, and the counts its entry
started end: also where every released zone has gone to that arm's own standing set (log 42), and for a RACK head whose
change has ended (log 48), both the model's choices. No run reaches such a wait, since what the other arm's entry needs
does not stay LINGER (R113, R116); the grant by a release that a run reaches is stated in SegmentEnds, FaultEntries and
ArmResetCompletes. A stopped timer does nothing (log 3). -/
def Obligations.LingerReleases : Prop :=
  ∀ (a : Arm) (s : State),
    (s.linger.get a = none → Goes (.lingerExpiry a) s s)
    ∧ (∀ k, s.linger.get a = some k → s.waiters = [] → ∃ t, Goes (.lingerExpiry a) s t ∧ ExceptZones s t
        ∧ t.linger.get a = none ∧ HandsOn s t a fun z => s.holders.get z = some (a, .linger))
    ∧ (∀ k g h rest, s.linger.get a = some k → s.waiters = [⟨a.other, .segment, g.needed⟩] →
        (s.motion.get a.other).queue = h :: rest → (s.motion.get a.other).geometry = some g →
        h.move.kind ≠ .home → (∃ z, s.holders.get z = some (a, .linger)) →
        (∀ z ∈ g.needed, ∀ b why, s.holders.get z = some (b, why) → b = a.other ∨ (b = a ∧ why = .linger)) →
        ∃ t, Goes (.lingerExpiry a) s t ∧ HeadStarted s t a.other h rest g)
/-! ### The probe table unit -/

/-- WRITE PROBE, RETIRE PROBE, WRITE POCKET and a REGISTER PROBE at a pocket (R130 to R133): the checks in their order and
the record and the pocket they leave. Stated for WRITE PROBE while no arm waits. -/
def Obligations.ProbeTableEdits : Prop :=
  (∀ (e : ProbeEntry) (s : State), Takes s .S (.writeProbe .S e) →
    let c := Instr.writeProbe .S e
    let bad := 31 < e.slot ∨ 8000000 < e.reach ∨ 4095 < e.tau ∨ ∃ h, e.home = some h ∧ 11 < h
    (s.save ≠ .idle → Refuses c .S s .saveInProgress)
    ∧ (s.save = .idle → bad → Refuses c .S s .badArgument)
    ∧ (∀ h : e.slot < 32, s.save = .idle → ¬ bad →
        (s.probes.get ⟨e.slot, h⟩ = none → Refuses c .S s .notFound)
        ∧ (∀ p a, s.probes.get ⟨e.slot, h⟩ = some p → p.place = .inTransit a → Refuses c .S s .wrongState)
        ∧ (∀ p, s.probes.get ⟨e.slot, h⟩ = some p → (∀ a, p.place ≠ .inTransit a) → s.waiters = [] →
            ∃ t home, Goes c s t ∧ home.map Fin.val = e.home
              ∧ ExceptZones (answered (s.setProbe ⟨e.slot, h⟩
                  (some { p with reach := e.reach, tau := e.tau, home := home })) .S .ok .none) t)))
  ∧ (∀ (n : Nat) (s : State), Takes s .S (.retireProbe .S n) →
    let c := Instr.retireProbe .S n
    (s.save ≠ .idle → Refuses c .S s .saveInProgress)
    ∧ (s.save = .idle → s.inventory ≠ .idle → Refuses c .S s .wrongState)
    ∧ (s.save = .idle → s.inventory = .idle → 31 < n → Refuses c .S s .badArgument)
    ∧ (∀ h : n < 32, s.save = .idle → s.inventory = .idle →
        (s.probes.get ⟨n, h⟩ = none → Refuses c .S s .notFound)
        ∧ ∀ p, s.probes.get ⟨n, h⟩ = some p →
          (p.guarded = true → Refuses c .S s .guarded)
          ∧ (p.guarded = false → (∀ k, p.place ≠ .stored k) → p.place ≠ .lost → Refuses c .S s .wrongState)
          ∧ (p.guarded = false → p.place = .lost → Answers c .S s (s.setProbe ⟨n, h⟩ none))
          ∧ (∀ k, p.guarded = false → p.place = .stored k → Answers c .S s ((s.setProbe ⟨n, h⟩ none).modPocket k
              fun x => { x with state := .empty, unexpected := x.level }))))
  ∧ (∀ (n : Nat) (use : Option PocketUse) (s : State), Takes s .S (.writePocket .S n use) →
    let c := Instr.writePocket .S n use
    (s.save ≠ .idle → Refuses c .S s .saveInProgress)
    ∧ (s.save = .idle → s.inventory ≠ .idle → Refuses c .S s .wrongState)
    ∧ (s.save = .idle → s.inventory = .idle → (11 < n ∨ use = none) → Refuses c .S s .badArgument)
    ∧ (∀ (h : n < 12) (v : PocketUse), s.save = .idle → s.inventory = .idle → use = some v →
        let k := s.pockets.get ⟨n, h⟩
        let put := fun (st : PocketState) (un : Bool) =>
          s.modPocket ⟨n, h⟩ fun x => { x with state := st, unexpected := un }
        (k.state = .reserved ∨ (∃ m, k.state = .occupied m) → Refuses c .S s .inUse)
        ∧ (k.state = .empty → v = .disabled → Answers c .S s (put .disabled false))
        ∧ (k.state = .disabled → v = .enabled → Answers c .S s (put .empty k.level))
        ∧ (k.state = .empty → v = .enabled → Answers c .S s s)
        ∧ (k.state = .disabled → v = .disabled → Answers c .S s s)))
  ∧ (∀ (e : RegisterEntry) (p : Nat) (s : State), Takes s .S (.registerProbe .S e) → e.place = .pocket p →
    let c := Instr.registerProbe .S e
    let bad := e.identity < 1 ∨ 4294967294 < e.identity ∨ 8000000 < e.reach ∨ 4095 < e.tau
      ∨ (∃ h, e.home = some h ∧ 11 < h) ∨ 11 < p
    let known := ∃ n q, s.probes.get n = some q ∧ idMatch s.settings.matchMode q.identity e.identity = true
    (s.save ≠ .idle → Refuses c .S s .saveInProgress)
    ∧ (s.save = .idle → s.inventory ≠ .idle → Refuses c .S s .wrongState)
    ∧ (s.save = .idle → s.inventory = .idle → bad → Refuses c .S s .badArgument)
    ∧ (s.save = .idle → s.inventory = .idle → ¬ bad → known → Refuses c .S s .inUse)
    ∧ (s.save = .idle → s.inventory = .idle → ¬ bad → ¬ known → (∀ n, s.probes.get n ≠ none) →
        Refuses c .S s .queueFull)
    ∧ (∀ (h : p < 12) (n : Slot), s.save = .idle → s.inventory = .idle → ¬ bad → ¬ known → s.probes.get n = none →
        (∀ m, m < n → s.probes.get m ≠ none) →
        ((s.pockets.get ⟨p, h⟩).state ≠ .empty → Refuses c .S s .inUse)
        ∧ ((s.pockets.get ⟨p, h⟩).state = .empty → (s.pockets.get ⟨p, h⟩).level = false → Refuses c .S s .noProbe)
        ∧ ((s.pockets.get ⟨p, h⟩).state = .empty → (s.pockets.get ⟨p, h⟩).level = true → ∃ home : Option PocketId,
            home.map Fin.val = e.home
            ∧ Answers c .S s ((s.setProbe n (some
                { place := .stored ⟨p, h⟩, identity := e.identity, home := home, reach := e.reach, tau := e.tau
                  qual := .both none, mountCount := 0, corrupt := false, guarded := false, locked := false })).modPocket
                ⟨p, h⟩ fun x => { x with state := .occupied n, unexpected := false }) (.slot n))))

/-- SET PROTECTION, FREEZE PROTECTION, LOCK PROBE, UNLOCK PROBE and QUALIFY (R134 to R136): the checks in their order and
the record they leave. Once FREEZE PROTECTION has been accepted, no command but RESET lifts the freeze (R135). -/
def Obligations.GuardsAndQualify : Prop :=
  (∀ (n : Nat) (v : Bool) (s : State), Takes s .S (.setProtection .S n v) →
    let c := Instr.setProtection .S n v
    (s.save ≠ .idle → Refuses c .S s .saveInProgress)
    ∧ (s.save = .idle → 31 < n → Refuses c .S s .badArgument)
    ∧ (∀ h : n < 32, s.save = .idle → (s.probes.get ⟨n, h⟩ = none → Refuses c .S s .notFound)
        ∧ ∀ p, s.probes.get ⟨n, h⟩ = some p → (s.freeze = true → Refuses c .S s .frozen)
          ∧ (s.freeze = false → Answers c .S s (s.setProbe ⟨n, h⟩ (some { p with guarded := v })))))
  ∧ (∀ (n : Nat) (s : State),
    (Takes s .S (.lockProbe .S n) →
      (31 < n → Refuses (.lockProbe .S n) .S s .badArgument)
      ∧ ∀ h : n < 32, (s.probes.get ⟨n, h⟩ = none → Refuses (.lockProbe .S n) .S s .notFound)
        ∧ ∀ p, s.probes.get ⟨n, h⟩ = some p →
          Answers (.lockProbe .S n) .S s (s.setProbe ⟨n, h⟩ (some { p with locked := true })))
    ∧ (Takes s .S (.unlockProbe .S n) →
      (31 < n → Refuses (.unlockProbe .S n) .S s .badArgument)
      ∧ ∀ h : n < 32, (s.probes.get ⟨n, h⟩ = none → Refuses (.unlockProbe .S n) .S s .notFound)
        ∧ ∀ p, s.probes.get ⟨n, h⟩ = some p →
          Answers (.unlockProbe .S n) .S s (s.setProbe ⟨n, h⟩ (some { p with locked := false })))
    ∧ (Takes s .S (.freezeProtection .S) → Answers (.freezeProtection .S) .S s { s with freeze := true }))
  ∧ (∀ (c : Instr) (s t : State), c ≠ .reset → s.freeze = true → Goes c s t → t.freeze = true)
  ∧ (∀ (l : Link) (e : QualifyEntry) (s : State), Takes s l (.qualify l e) → permitted l (.qualify l e) = true →
    let c := Instr.qualify l e
    (s.save ≠ .idle → Refuses c l s .saveInProgress)
    ∧ (s.save = .idle → 31 < e.slot ∨ e.arm = none → Refuses c l s .badArgument)
    ∧ (∀ (h : e.slot < 32) (a : Arm), s.save = .idle → e.arm = some a →
        (s.probes.get ⟨e.slot, h⟩ = none → Refuses c l s (if l = .S then .notFound else .noProbe))
        ∧ ∀ p, s.probes.get ⟨e.slot, h⟩ = some p →
          (l ≠ .S → p.place ≠ .mounted a → Refuses c l s .noProbe)
          ∧ (l ≠ .S → p.place = .mounted a → p.guarded = true ∨ p.locked = true → Refuses c l s .guarded)
          ∧ (l = .S ∨ (p.place = .mounted a ∧ p.guarded = false ∧ p.locked = false) →
              let g := match p.qual.get a with
                | none => 1
                | some q => if q.generation = 65535 then 1 else q.generation + 1
              Answers c l s (s.setProbe ⟨e.slot, h⟩ (some { p with qual := p.qual.set a (some
                { offset := e.offset, radius := e.radius, temperature := (s.snapshot.groups.head.get a).temp
                  generation := g, headStale := (s.snapshot.groups.head.get a).stale }) })) (.generation g))))

/-- Identity reads (R128 to R130, R140, R141). VERIFY PROBE and a REGISTER PROBE on an arm leave their link PENDING with
the read asked: at once on an idle reader, else joined to the one read that waits; the checks of the latter come in their
order. The read's end answers VERIFY PROBE with what was read, and registers the probe when checks 2, 3 and 5 hold again
and the identity matches, else refuses with the code of the first that fails, or NO_PROBE. INVENTORY is refused
WRONG_STATE during a change, is marked to repeat while one runs, and else judges the pockets and asks both readers. The
last read of an inventory resolves the arms read from the table as it stands (R142): an arm read ABSENT or ERROR has no
module, one whose code matches no record, or a record on or in transit for the other arm, an UNKNOWN one, one whose code
matches its own, a STORED or a LOST record has that record, and two arms that match one record both have UNKNOWN ones
while it is LOST; that a record which one arm reads and the other arm, that carries it, does not, as with modules that
were swapped, becomes LOST is log 56, the model's choice. At its end POCKET_CHANGED is raised to link S where it has
changed a record's place, a pocket or a flag (R140), and one with a repeat asked starts anew. A completion with no read in
flight changes nothing (log 3). -/
def Obligations.IdentityReads : Prop :=
  let asked := fun (r : Reader) (k : Asker) =>
    match r.inFlight, r.pending with
    | none, _ => { r with inFlight := some [k] }
    | some _, none => { r with pending := some [k] }
    | some _, some ks => { r with pending := some (ks ++ [k]) }
  let ask := fun (s : State) (a : Arm) (k : Asker) => { s with readers := s.readers.set a (asked (s.readers.get a) k) }
  let read := fun ans : PridAnswer => match ans with
    | .silent => ReadResult.absent
    | .garbled => .error
    | .code c => if 1 ≤ c ∧ c ≤ 4294967294 then .present c else .error
  let known := fun (s : State) (e : RegisterEntry) =>
    ∃ n q, s.probes.get n = some q ∧ idMatch s.settings.matchMode q.identity e.identity = true
  let full := fun s : State => ∀ n, s.probes.get n ≠ none
  let carries := fun (s : State) (a : Arm) => ∃ n q, s.probes.get n = some q ∧ q.place = .mounted a
  (∀ (a : Arm) (s : State), Takes s a.link (.verifyProbe a.link) →
    Goes (.verifyProbe a.link) s (awaiting (ask s a .verify) a.link .verify))
  ∧ (∀ (a : Arm) (ans : PridAnswer) (s : State),
    (s.readers.get a).inFlight = none → Goes (.identityReadComplete a ans) s s)
  ∧ (∀ (a : Arm) (ans : PridAnswer) (s : State),
    s.readers.get a = ⟨some [.verify], none⟩ → (s.links.get a.link).work = some .verify →
    ∃ v t, Goes (.identityReadComplete a ans) s t
      ∧ t = { s.respond a.link .ok (.verify (read ans) v (s.mount a)) with
          readers := s.readers.set a ⟨none, none⟩ }
      ∧ (∀ n, v = some n → ∃ code p, read ans = .present code ∧ s.probes.get n = some p
          ∧ idMatch s.settings.matchMode p.identity code = true)
      ∧ (v = none → ∀ code n p, read ans = .present code → s.probes.get n = some p →
          idMatch s.settings.matchMode p.identity code = false))
  ∧ (∀ (e : RegisterEntry) (x : Option Arm) (s : State), Takes s .S (.registerProbe .S e) → e.place = .arm x →
    let no := Refuses (.registerProbe .S e) .S s
    let bad := e.identity < 1 ∨ 4294967294 < e.identity ∨ 8000000 < e.reach ∨ 4095 < e.tau
      ∨ (∃ h, e.home = some h ∧ 11 < h) ∨ x = none
    (s.save ≠ .idle → no .saveInProgress) ∧ (s.save = .idle → s.inventory ≠ .idle → no .wrongState)
    ∧ (s.save = .idle → s.inventory = .idle → bad → no .badArgument)
    ∧ (∀ a, s.save = .idle → s.inventory = .idle → ¬ bad → x = some a →
      (known s e → no .inUse) ∧ (¬ known s e → full s → no .queueFull)
      ∧ (¬ known s e → ¬ full s → carries s a → no .inUse)
      ∧ (¬ known s e → ¬ full s → ¬ carries s a → s.change.get a ≠ none → no .wrongState)
      ∧ (¬ known s e → ¬ full s → ¬ carries s a → s.change.get a = none →
        Goes (.registerProbe .S e) s (awaiting (ask s a .register) .S (.register e a)))))
  ∧ (∀ (e : RegisterEntry) (a : Arm) (ans : PridAnswer) (s : State),
    s.readers.get a = ⟨some [.register], none⟩ → (s.links.get .S).work = some (.register e a) →
    let ends := fun x : Code =>
      Goes (.identityReadComplete a ans) s { s.respond .S x with readers := s.readers.set a ⟨none, none⟩ }
    (known s e → ends .inUse) ∧ (¬ known s e → full s → ends .queueFull)
    ∧ (¬ known s e → ¬ full s → carries s a → ends .inUse)
    ∧ (¬ known s e → ¬ full s → ¬ carries s a → s.change.get a ≠ none → ends .wrongState)
    ∧ (¬ known s e → ¬ full s → ¬ carries s a → s.change.get a = none →
        (∀ code, read ans = .present code → idMatch s.settings.matchMode e.identity code = false) → ends .noProbe)
    ∧ (∀ n code, ¬ known s e → ¬ carries s a → s.probes.get n = none → (∀ m, m < n → s.probes.get m ≠ none) →
      s.change.get a = none → s.waiters = [] →
      read ans = .present code → idMatch s.settings.matchMode e.identity code = true → ∃ t,
      Goes (.identityReadComplete a ans) s t ∧ t.mount a = .record n
      ∧ ExceptZones { (((s.setProbe n (some
          { place := .mounted a, identity := e.identity, home := e.home.bind (index? 12), reach := e.reach
            tau := e.tau, qual := .both none, mountCount := 0, corrupt := false, guarded := false
            locked := false })).setUnknown a false).respond .S .ok (.slot n)) with
          readers := s.readers.set a ⟨none, none⟩ } t))
  ∧ (∀ s : State, Takes s .S (.inventory .S) →
    ((∃ a, s.change.get a ≠ none) → Refuses (.inventory .S) .S s .wrongState)
    ∧ (∀ again reads changed, (∀ a, s.change.get a = none) → s.inventory = .running again reads changed →
        Answers (.inventory .S) .S s { s with inventory := .running true reads changed })
    ∧ ((∀ a, s.change.get a = none) → s.inventory = .idle → ∃ u changed, Answers (.inventory .S) .S s u
        ∧ u = { s with
            probes := u.probes, pockets := u.pockets, inventory := .running false ⟨.asked, .asked⟩ changed
            readers := ⟨asked s.readers.a .inventory, asked s.readers.b .inventory⟩ }
        ∧ (∀ p, (s.pockets.get p).state = .empty → (u.pockets.get p).state = .empty
            ∧ (u.pockets.get p).unexpected = (s.pockets.get p).level)
        ∧ (∀ p n r, (s.pockets.get p).state = .occupied n → (s.pockets.get p).level = false →
            s.probes.get n = some r → r.place = .stored p →
            (u.pockets.get p).state = .empty ∧ u.probes.get n = some { r with place := .lost })
        ∧ (∀ p, (s.pockets.get p).state = .reserved ∨ (s.pockets.get p).state = .disabled →
            u.pockets.get p = s.pockets.get p)))
  ∧ (∀ (a : Arm) (ans : PridAnswer) (reads : PerArm InvRead) (changed : Bool) (s : State),
    let marked := fun t : State => .pocketChanged ∈ (t.links.get .S).flags ↔
      .pocketChanged ∈ (s.links.get .S).flags ∨ changed = true
        ∨ (∃ n : Slot, (t.probes.get n).map (·.place) ≠ (s.probes.get n).map (·.place))
        ∨ (∃ p : PocketId, (t.pockets.get p).state ≠ (s.pockets.get p).state
            ∨ (t.pockets.get p).unexpected ≠ (s.pockets.get p).unexpected) ∨ t.unknown ≠ s.unknown
    (s.startup = .ready → s.inventory = .running true reads changed → s.readers.get a = ⟨some [.inventory], none⟩ →
      reads.get a = .asked → reads.get a.other ≠ .asked → s.waiters = [] → (∀ b, s.change.get b = none) →
      ∃ t again, Goes (.identityReadComplete a ans) s t ∧ t.inventory = .running false ⟨.asked, .asked⟩ again
        ∧ t.readers.get a = ⟨some [.inventory], none⟩
        ∧ t.readers.get a.other = asked (s.readers.get a.other) .inventory
        ∧ (changed = true → .pocketChanged ∈ (t.links.get .S).flags)
        ∧ t.motion = s.motion ∧ t.axes = s.axes ∧ t.change = s.change ∧ steady t = steady s)
    ∧ (s.startup = .ready → s.inventory = .running false reads changed → s.readers.get a = ⟨some [.inventory], none⟩ →
    reads.get a = .asked → reads.get a.other ≠ .asked → s.waiters = [] → Tables s →
    let found := fun b : Arm => if b = a then some (read ans) else match reads.get b with
      | .got r => some r
      | _ => none
    let finds := fun (b : Arm) (n : Slot) => ∃ code, found b = some (.present code) ∧ s.matching code = some n
    let both := ∃ n, finds .A n ∧ finds .B n
    (∀ b, found b ≠ none → s.change.get b = none) →
    ∃ t, Goes (.identityReadComplete a ans) s t ∧ t.inventory = .idle ∧ t.readers.get a = ⟨none, none⟩ ∧ marked t
      ∧ (∀ b, found b = some .absent ∨ found b = some .error → t.mount b = .none)
      ∧ (∀ b code, found b = some (.present code) → s.matching code = none → t.mount b = .unknown)
      ∧ (∀ b n r, ¬ both → finds b n → s.probes.get n = some r →
          (r.place = .mounted b → t.mount b = .record n ∧ t.probes.get n = some r)
          ∧ (∀ k, r.place = .stored k → t.mount b = .record n ∧ t.probes.get n = some { r with place := .mounted b }
              ∧ (t.pockets.get k).state = .empty ∧ (t.pockets.get k).unexpected = (s.pockets.get k).level)
          ∧ (r.place = .lost → t.mount b = .record n ∧ t.probes.get n = some { r with place := .mounted b })
          ∧ (r.place = .mounted b.other ∨ r.place = .inTransit b.other → t.mount b = .unknown))
      ∧ (∀ b n r, found b ≠ none → s.probes.get n = some r → r.place = .mounted b → (both ∨ ¬ finds b n) →
          t.probes.get n = some { r with place := .lost })
      ∧ (∀ n r, finds .A n → finds .B n → s.probes.get n = some r →
          t.probes.get n = some { r with place := .lost } ∧ t.mount .A = .unknown ∧ t.mount .B = .unknown)
      ∧ t.motion = s.motion ∧ t.axes = s.axes ∧ t.change = s.change ∧ steady t = steady s))

/-- A presence change (R139): the level it has already, or one before READY, is recorded alone. While READY, an OCCUPIED
pocket that falls inactive loses its record with POCKET_CHANGED and a PROBE_LOST report, an EMPTY pocket's UNEXPECTED flag
follows the level with POCKET_CHANGED when it changes, and a DISABLED pocket or one OCCUPIED that becomes active records
the level. A RESERVED pocket hands its change to the context that has it reserved, by its step (R151, R152, R154): the
unconfirmed drop pocket that goes active ends a change in WAIT_RACK or OPENING FAILED(POCKET_BLOCKED), and starts the drop
reads in AWAIT_DROP, where going inactive stops them; the unconfirmed take pocket that goes inactive loses the record with
POCKET_CHANGED and PROBE_LOST, which ends a change in WAIT_RACK or OPENING FAILED(PROBE_LOST) and leaves one in AWAIT_DROP
FAILED_OPEN(PROBE_LOST), and asks the pick read in AWAIT_PICK; every other change is recorded alone. The tag the report of
a lost take probe carries in a stop ramp is log 18, and that a pending drop read left without an asker stays is log 55,
both the model's choices. -/
def Obligations.PocketWatch : Prop :=
  ∀ (p : PocketId) (v : Bool) (s : State),
    let k := s.pockets.get p
    let on := s.modPocket p fun x => { x with level := v }
    (k.level = v → Goes (.pocketChange p v) s s)
    ∧ (k.level ≠ v → s.startup ≠ .ready → Goes (.pocketChange p v) s on)
    ∧ (k.level ≠ v → s.startup = .ready →
        (∀ n r, v = false → k.state = .occupied n → s.probes.get n = some r → r.place = .stored p →
          Goes (.pocketChange p v) s ((((on.modPocket p fun x =>
              { x with state := .empty, unexpected := false }).setProbe n (some { r with place := .lost })).raise .S
              .pocketChanged).report
              { kind := .probeLost, arm := none, tag := none, coords := none, epoch := s.snapshot.epoch }))
        ∧ (k.state = .disabled ∨ (v = true ∧ ∃ n, k.state = .occupied n) → Goes (.pocketChange p v) s on)
        ∧ (k.state = .empty → k.unexpected = v → Goes (.pocketChange p v) s on)
        ∧ (k.state = .empty → k.unexpected ≠ v → Goes (.pocketChange p v) s
            ((on.modPocket p fun x => { x with unexpected := v }).raise .S .pocketChanged))
        ∧ (∀ (a : Arm) (c : Context), k.state = .reserved → s.change.get a = some c →
          (∀ d, s.change.get a.other = some d → (d.drop.map (·.1) ≠ some p ∨ d.dropConfirmed = true)
            ∧ (d.take.map (·.1) ≠ some p ∨ d.pickConfirmed = true)) →
          let early := c.step = .waitRack ∨ c.step = .opening
          let late := c.step = .failedOpen ∨ c.step = .closing
          let reader := fun r : Reader => { on with readers := s.readers.set a r }
          let untold := (s.readers.get a).discard fun q => decide (q = .drop) || decide (q = .pick)
          (c.drop.map (·.1) = some p → c.dropConfirmed = false →
            (early → v = true → Lonely s a c → Tables s → ∃ t, Goes (.pocketChange p v) s t
              ∧ Ended on t a c (.failed .pocketBlocked) ∧ .changeEnded ∈ (t.links.get a.link).flags
              ∧ t.motion = s.motion ∧ t.axes = s.axes ∧ t.trap = s.trap)
            ∧ ((early ∧ v = false) ∨ late → Goes (.pocketChange p v) s on)
            ∧ (c.step = .awaitDrop → v = true → s.readers.get a = ⟨none, none⟩ → Goes (.pocketChange p v) s
                ((reader ⟨some [.drop], none⟩).modRack fun r => { r with dropTimer := some ⟨500000, 0⟩ }))
            ∧ (c.step = .awaitDrop → v = false → Goes (.pocketChange p v) s
                ((reader untold).modRack fun r => { r with dropTimer := none })))
          ∧ (∀ n r, c.drop.map (·.1) ≠ some p → c.take = some (p, n) → c.pickConfirmed = false →
              s.probes.get n = some r → r.place = .inTransit a →
            let lost := ((on.setProbe n (some { r with place := .lost })).raise .S .pocketChanged).report
              (s.armReport .probeLost a)
            (v = true ∨ late → Goes (.pocketChange p v) s on)
            ∧ (early → v = false → Lonely s a c → Tables s → ∃ t, Goes (.pocketChange p v) s t
              ∧ Ended lost t a c (.failed .probeLost) ∧ .changeEnded ∈ (t.links.get a.link).flags
              ∧ t.probes.get n = lost.probes.get n ∧ .pocketChanged ∈ (t.links.get .S).flags
              ∧ t.motion = s.motion ∧ t.axes = s.axes ∧ t.trap = lost.trap ∧ t.faultCount = lost.faultCount)
            ∧ (c.step = .awaitDrop → v = false → Goes (.pocketChange p v) s
                (((({ lost with readers := s.readers.set a untold }).setContext a (some
                  { c with step := .failedOpen, failure := some .probeLost })).modRack fun r =>
                  { r with dropTimer := none, stepTimer := none }).raise a.link .changeStep))
            ∧ (c.step = .awaitPick → v = false → s.readers.get a = ⟨none, none⟩ → Goes (.pocketChange p v) s
                (reader ⟨some [.pick], none⟩)))))
/-! ### The change sequencer -/

/-- REQUEST CHANGE (R145, R147 to R150, R112, R121): the checks in their order. An accepted request forms a context in
WAIT_RACK with both confirmations clear, its drop pocket the given or the home pocket with the mount, its take the slot
and its pocket; it reserves the pockets, puts the records IN_TRANSIT and asks for the RACK zone: with the zone free the
change is in OPENING with RACK-REQ asserted and the rack timer at its full length, the zone held for CHANGE, or, where the
open condition holds already, in its next step with the step timer at its full length and CHANGE_STEP; with the zone held
it is in WAIT_RACK with one waiter entry. Where the other arm waits in turn for a zone this arm stands in or claims, the
entry is refused: the change ends FAILED(DEADLOCK) and DEADLOCK is raised on all links. A drop pocket above 11 or a slot
above 31 is refused whatever is asked. That the context also keeps the modules' reaches is log 21. -/
def Obligations.ChangeRequested : Prop :=
  ∀ (a : Arm) (e : ChangeEntry) (s : State), Takes s a.link (.requestChange a.link e) →
    let c := Instr.requestChange a.link e
    let m := s.motion.get a
    let wrong := m.phase ≠ .idle ∨ m.queue ≠ [] ∨ s.change.get a ≠ none ∨ s.inventory ≠ .idle
    let noZone := ∀ z, (s.zones.get z).kind ≠ .rack
    let given := fun p : PocketId => e.dropPocket = some p.val
      ∨ (e.dropPocket = none ∧ ∃ n r, s.mount a = .record n ∧ s.probes.get n = some r ∧ r.home = some p)
    let bad := (e.drop = false ∧ e.take = false) ∨ (∃ p, e.dropPocket = some p ∧ 11 < p)
      ∨ 31 < e.takeSlot ∨ (e.drop = true ∧ s.mount a = .none)
      ∨ (e.drop = true ∧ e.dropPocket = none ∧ ∀ p, ¬ given p)
      ∨ (e.take = true ∧ e.drop = false ∧ s.mount a ≠ .none)
    let used := (e.drop = true ∧ ∃ p, given p ∧ ((s.pockets.get p).state ≠ .empty
        ∨ (s.pockets.get p).unexpected = true ∨ (s.pockets.get p).level = true))
      ∨ (e.take = true ∧ ¬ ∃ n p k, n.val = e.takeSlot ∧ s.probes.get n = some p ∧ p.place = .stored k)
    (wrong → Refuses c a.link s .wrongState)
    ∧ (¬ wrong → noZone → Refuses c a.link s .noRack)
    ∧ (¬ wrong → ¬ noZone → s.rack.fault = true → Refuses c a.link s .rackFault)
    ∧ (¬ wrong → ¬ noZone → s.rack.fault = false → bad → Refuses c a.link s .badArgument)
    ∧ (¬ wrong → ¬ noZone → s.rack.fault = false → ¬ bad → used → Refuses c a.link s .inUse)
    ∧ (∀ z, ¬ wrong → s.rackZone = some z → s.rack.fault = false → ¬ bad → ¬ used →
        let k := s.newContext a e
        let u := answered (s.startChange a k) a.link .ok .none
        let dropped : Dropped := match s.mount a with
          | .record n => .slot n
          | _ => .unknown
        let at_ := fun st : Step => s.change.set a (some { k with step := st })
        (k.step = .waitRack ∧ k.dropConfirmed = false ∧ k.pickConfirmed = false ∧ k.failure = none ∧ k.closing = none)
        ∧ (e.drop = false → k.drop = none) ∧ (e.take = false → k.take = none)
        ∧ (e.drop = true → ∃ p, given p ∧ k.drop = some (p, dropped)
            ∧ (s.mount a = .unknown → k.dropReach = 8000000)
            ∧ ∀ n r, s.mount a = .record n → s.probes.get n = some r → k.dropReach = r.reach)
        ∧ (e.take = true → ∃ p n r, k.take = some (p, n) ∧ n.val = e.takeSlot ∧ s.probes.get n = some r
            ∧ r.place = .stored p ∧ k.takeReach = r.reach)
        ∧ s.startChange a k = { s with
            probes := u.probes, pockets := u.pockets, change := at_ .waitRack, lastChange := s.lastChange.set a none }
        ∧ (∀ p, u.pockets.get p = if k.drop.map (·.1) = some p ∨ k.take.map (·.1) = some p then
            { s.pockets.get p with state := .reserved } else s.pockets.get p)
        ∧ (∀ n, u.probes.get n = if k.drop.map (·.2) = some (.slot n) ∨ k.take.map (·.2) = some n then
            (s.probes.get n).map fun r => { r with place := .inTransit a } else s.probes.get n)
        ∧ (s.waiters = [] → s.holders.get z = none → ¬ (s.rack.opened = true ∧ s.rack.closed = false) →
          ∃ t, Goes c s t ∧ t.holders.get z = some (a, .change)
          ∧ ExceptZones { u with
              change := at_ .opening
              rack := { s.rack with req := true, rackTimer := some ⟨s.settings.rackTimeout * 1000000, 0⟩ } } t)
        ∧ (s.waiters = [] → s.holders.get z = none → s.rack.opened = true → s.rack.closed = false →
          ∃ t, Goes c s t ∧ t.holders.get z = some (a, .change)
          ∧ ExceptZones (State.raise { u with
              change := at_ (if e.drop = true then .awaitDrop else .awaitPick)
              rack := { s.rack with
                req := true, rackTimer := none, stepTimer := some ⟨s.settings.stepTimeout * 10000000, 0⟩ } } a.link
              .changeStep) t)
        ∧ (s.waiters = [] → s.holders.get z ≠ none → ∃ t, Goes c s t
          ∧ ExceptZones { u with waiters := [⟨a, .change, [z]⟩] } t)
        ∧ (∀ why zs y w, s.waiters = [⟨a.other, .segment, zs⟩] → s.holders.get z = some (a.other, why) → y ∈ zs →
          s.holders.get y = some (a, w) → NoLoose s a → Tables s → ∃ t, Goes c s t ∧ Ended u t a k (.failed .deadlock)
            ∧ (∀ l, .deadlock ∈ (t.links.get l).flags) ∧ .changeEnded ∈ (t.links.get a.link).flags
            ∧ (t.links.get a.link).response = some ⟨.ok, .none⟩ ∧ t.motion.get a = s.motion.get a
            ∧ t.axes.get a = s.axes.get a ∧ (RackHeld s → t.rack = s.rack) ∧ ∀ x ∈ t.waiters, x.arm ≠ a))

/-- CHANGE DONE, ABORT CHANGE and CLEAR RACK FAULT (R155 to R157, R161). Each close is refused WRONG_STATE out of its
steps, while a box of the arm meets the RACK zone (that the standing box alone is judged while a HOME is active is log 34),
and for CHANGE DONE while a drop or pick is not confirmed; accepted, it brings the change to CLOSING with RACK-REQ
deasserted, the rack timer at its full length and no further read (that a pending one left without an asker stays is log 55,
the model's choice). Where the closed condition holds already the change ends at once with that outcome, DONE, ABORTED or
FAILED with its reason, after CHANGE_STEP (R158). An abort in WAIT_RACK or OPENING ends the change ABORTED
at once: the dropped record is back on the arm, the take record STORED in its pocket, and an inventory runs. The ends are
stated while no arm waits but for the change's own entry. -/
def Obligations.ChangeClosed : Prop :=
  (∀ (l : Link) (x : Option (Option Arm)) (a : Arm) (o : ChangeOutcome) (c : Instr) (s : State), Takes s l c →
    (c = .changeDone l ∧ l = a.link ∧ o = .done) ∨ (c = .abortChange l x ∧ Names l x a ∧ o ≠ .done) →
    let closed := fun k : Context => ((((s.setContext a (some { k with step := .closing, closing := some o })).modReader a
        fun r => r.discard fun q => decide (q = .drop) || decide (q = .pick)).modRack fun r =>
        { r with dropTimer := none, req := false, stepTimer := none
                 rackTimer := some ⟨s.settings.rackTimeout * 1000000, 0⟩ }).raise a.link .changeStep)
    let meets := fun b : Box => ∃ z, (s.zones.get z).kind = .rack ∧ boxMeets b (s.zones.get z).box = true
    let inside := meets (s.standingBox a)
      ∨ ∃ w g, (s.motion.get a).active = some w ∧ w.geometry = some g ∧ meets (expand g.finish (s.reach a))
    (s.change.get a = none → Refuses c l s .wrongState)
    ∧ ∀ k, s.change.get a = some k →
      let open_ := k.step = .awaitDrop ∨ k.step = .awaitPick ∨ (o ≠ .done ∧ k.step = .failedOpen)
      let unsure := o = .done ∧ ((k.drop ≠ none ∧ k.dropConfirmed = false) ∨ (k.take ≠ none ∧ k.pickConfirmed = false))
      (k.step = .closing ∨ (o = .done ∧ ¬ open_) → Refuses c l s .wrongState)
      ∧ (open_ → inside ∨ unsure → Refuses c l s .wrongState)
      ∧ (open_ → ¬ inside → ¬ unsure → s.rack.isClosed = false →
          (k.step ≠ .failedOpen → o = .done ∨ o = .aborted → Answers c l s (closed k))
          ∧ (∀ r, k.step = .failedOpen → k.failure = some r → o = .failed r → Answers c l s (closed k)))
      ∧ (open_ → ¬ inside → ¬ unsure → s.rack.opened = false → s.rack.closed = true → s.waiters = [] → Tables s →
          (k.step ≠ .failedOpen ∧ (o = .done ∨ o = .aborted)) ∨ (∃ r, k.step = .failedOpen ∧ k.failure = some r
            ∧ o = .failed r) →
          ∃ t, Goes c s t ∧ Ended s t a k o ∧ .changeStep ∈ (t.links.get a.link).flags
            ∧ .changeEnded ∈ (t.links.get a.link).flags ∧ (t.links.get l).response = some ⟨.ok, .none⟩
            ∧ t.motion = s.motion ∧ t.axes = s.axes ∧ t.capture = s.capture ∧ (o = .done → t.inventory = s.inventory
            ∧ t.probes = s.probes ∧ t.pockets = s.pockets)))
  ∧ (∀ (l : Link) (x : Option (Option Arm)) (a : Arm) (k : Context) (p : PocketId) (n : Slot) (r : Probe) (s : State),
    Takes s l (.abortChange l x) → Names l x a → s.change.get a = some k → k.step = .opening → s.waiters = [] →
    k.drop = none → k.take = some (p, n) → s.probes.get n = some r → r.place = .inTransit a →
    (s.pockets.get p).level = true → (∀ q, (s.pockets.get q).state ≠ .occupied n) →
    ∃ t, Goes (.abortChange l x) s t
      ∧ t.change.get a = none ∧ t.lastChange.get a = some .aborted ∧ t.rack.req = false ∧ t.rack.rackTimer = none
      ∧ .changeEnded ∈ (t.links.get a.link).flags ∧ t.inventory ≠ .idle
      ∧ t.probes.get n = some { r with place := .stored p } ∧ (t.pockets.get p).state = .occupied n
      ∧ (∀ z, t.holders.get z ≠ some (a, .change)) ∧ (t.links.get l).response = some ⟨.ok, .none⟩
      ∧ t.motion = s.motion ∧ t.axes = s.axes ∧ t.capture = s.capture ∧ steady t = steady s)
  ∧ (∀ (l : Link) (x : Option (Option Arm)) (a : Arm) (k : Context) (s : State),
    Takes s l (.abortChange l x) → Names l x a → s.change.get a = some k → k.step = .waitRack ∨ k.step = .opening →
    Lonely s a k → Tables s →
    ∃ t, Goes (.abortChange l x) s t ∧ Ended s t a k .aborted ∧ .changeEnded ∈ (t.links.get a.link).flags
      ∧ (t.links.get l).response = some ⟨.ok, .none⟩
      ∧ t.motion = s.motion ∧ t.axes = s.axes ∧ t.capture = s.capture)
  ∧ (∀ s : State, Takes s .S (.clearRackFault .S) →
    (s.rack.opened = true → s.rack.closed = true → Refuses (.clearRackFault .S) .S s .wrongState)
    ∧ (¬ (s.rack.opened = true ∧ s.rack.closed = true) →
        Answers (.clearRackFault .S) .S s { s with rack := { s.rack with fault := false } }))

/-- The rack's sensors and the sequencer's timers (R146, R150, R151, R158 to R161). Before READY a level is recorded
alone. While READY: the open condition brings an OPENING change to its next step with the step timer at its full length;
the closed condition ends a CLOSING one with its outcome, and each begins by its sensor's rise or, from both active, by
the other's fall; a level that begins no condition a change waits for is recorded alone; both sensors active set the rack
fault and report it, which ends a change in WAIT_RACK FAILED(RACK_FAULT) and one in OPENING FAILED(RACK_SENSOR) and leaves
one in a later step; a step timer that expires leaves the change in FAILED_OPEN and reports it; a rack timer that expires
in OPENING ends the change FAILED, and in CLOSING too, with the rack fault set and a change of the other arm in WAIT_RACK
ended FAILED(RACK_FAULT); a drop read is repeated while the drop pocket's presence stays active. A stopped timer does
nothing (log 3). The tag a report carries in a stop ramp is log 18, and that a pending read left without an asker at a
step expiry stays is log 55. -/
def Obligations.RackEvents : Prop :=
  ∀ (a : Arm) (v : Bool) (s : State),
    let stopped := fun (s : State) => (s.modReader a fun r => r.discard fun q => decide (q = .drop) || decide (q = .pick)).modRack
      fun r => { r with dropTimer := none, stepTimer := none }
    let none_ := fun st : Step => ∀ b, s.stepOf b ≠ some st
    let opens := fun c : Instr => (c = .rackOpenChange true ∧ s.rack.opened = false ∧ s.rack.closed = false)
      ∨ (c = .rackClosedChange false ∧ s.rack.opened = true ∧ s.rack.closed = true)
    let closes := fun c : Instr => (c = .rackClosedChange true ∧ s.rack.opened = false ∧ s.rack.closed = false)
      ∨ (c = .rackOpenChange false ∧ s.rack.opened = true ∧ s.rack.closed = true)
    (s.startup ≠ .ready → Goes (.rackOpenChange v) s { s with rack := { s.rack with opened := v } }
      ∧ Goes (.rackClosedChange v) s { s with rack := { s.rack with closed := v } })
    ∧ (s.startup = .ready → (v = true ∧ s.rack.closed = false ∧ none_ .opening)
          ∨ (v = false ∧ (s.rack.closed = false ∨ none_ .closing)) →
        Goes (.rackOpenChange v) s { s with rack := { s.rack with opened := v } })
    ∧ (s.startup = .ready → (v = true ∧ s.rack.opened = false ∧ none_ .closing)
          ∨ (v = false ∧ (s.rack.opened = false ∨ none_ .opening)) →
        Goes (.rackClosedChange v) s { s with rack := { s.rack with closed := v } })
    ∧ (∀ c k, s.startup = .ready → opens c → s.change.get a = some k →
        k.step = .opening → s.stepOf a.other ≠ some .opening →
        Goes c s (State.raise { s with
          change := s.change.set a (some { k with step := if k.drop = none then .awaitPick else .awaitDrop })
          rack := { s.rack with
            opened := true, closed := false, rackTimer := none, stepTimer := some ⟨s.settings.stepTimeout * 10000000, 0⟩ } } a.link
          .changeStep))
    ∧ (∀ c k, s.startup = .ready → closes c → s.change.get a = some k →
        k.step = .closing → k.closing = some .done → s.stepOf a.other ≠ some .closing → s.waiters = [] →
        ∃ t, Goes c s t ∧ (∀ z, t.holders.get z ≠ some (a, .change))
          ∧ ExceptZones (State.raise { stopped s with
              change := s.change.set a none, lastChange := s.lastChange.set a (some .done)
              rack := { s.rack with
                opened := false, closed := true, req := false, rackTimer := none, stepTimer := none
                dropTimer := none } } a.link .changeEnded) t)
    ∧ (∀ c k o, s.startup = .ready → closes c → s.change.get a = some k →
        k.step = .closing → k.closing = some o → s.stepOf a.other ≠ some .closing → s.waiters = [] → Tables s →
        ∃ t, Goes c s t ∧ Ended s t a k o ∧ .changeEnded ∈ (t.links.get a.link).flags
          ∧ t.rack.opened = false ∧ t.rack.closed = true ∧ t.motion = s.motion ∧ t.axes = s.axes
          ∧ t.faultCount = s.faultCount)
    ∧ (∀ c k, s.startup = .ready → (c = .rackOpenChange true ∧ s.rack.opened = false ∧ s.rack.closed = true)
          ∨ (c = .rackClosedChange true ∧ s.rack.opened = true ∧ s.rack.closed = false) →
        s.change.get a = some k → s.change.get a.other = none → Tables s →
        let both := { s with rack := { s.rack with opened := true, closed := true } }
        let ends := fun (o : ChangeOutcome) => ∃ t, Goes c s t ∧ Ended s t a k o
          ∧ .changeEnded ∈ (t.links.get a.link).flags ∧ .rackFault ∈ (t.links.get .S).flags ∧ t.rack.fault = true
          ∧ t.faultCount = min (s.faultCount + 1) 65535 ∧ t.motion = s.motion ∧ t.axes = s.axes
        (k.step = .waitRack → Lonely s a k → ends (.failed .rackFault))
        ∧ (k.step = .opening → s.waiters = [] → ends (.failed .rackSensor))
        ∧ (k.step ≠ .waitRack → k.step ≠ .opening → Goes c s (((State.report both (s.armReport .rackSensor a)).modRack
            fun r => { r with fault := true }).raise .S .rackFault)))
    ∧ (s.startup = .ready → s.rack.opened = false → s.rack.closed = true → (∀ b, s.change.get b = none) →
        Goes (.rackOpenChange true) s (((State.report { s with rack := { s.rack with opened := true } }
          { kind := .rackSensor, arm := none, tag := none, coords := none, epoch := s.snapshot.epoch }).modRack
          fun r => { r with fault := true }).raise .S .rackFault))
    ∧ (s.rack.stepTimer = none → Goes .stepTimerExpiry s s)
    ∧ (∀ k q, s.rack.stepTimer = some q → s.rackArm = some a → s.change.get a = some k →
        k.step = .awaitDrop ∨ k.step = .awaitPick →
        Goes .stepTimerExpiry s ((((stopped s).setContext a (some
          { k with step := .failedOpen, failure := some .stepTimeout })).raise a.link .changeStep).report
          (s.armReport .stepTimeout a)))
    ∧ (s.rack.rackTimer = none → Goes .rackTimerExpiry s s)
    ∧ (∀ k q, s.rack.rackTimer = some q → s.rackArm = some a → s.change.get a = some k → k.step = .opening →
        s.waiters = [] → ∃ t, Goes .rackTimerExpiry s t
          ∧ t.change.get a = none ∧ t.lastChange.get a = some (.failed .rackTimeout) ∧ t.rack.req = false
          ∧ t.rack.rackTimer = none ∧ t.faultCount = min (s.faultCount + 1) 65535
          ∧ .changeEnded ∈ (t.links.get a.link).flags ∧ (∀ z, t.holders.get z ≠ some (a, .change))
          ∧ t.motion = s.motion ∧ t.axes = s.axes ∧ steady t = steady s)
    ∧ (∀ k q, s.rack.rackTimer = some q → s.rackArm = some a → s.change.get a = some k → k.step = .closing → Tables s →
        let ends := fun t : State => t.change.get a = none ∧ t.lastChange.get a = some (.failed .rackTimeout)
          ∧ t.rack.fault = true ∧ .rackFault ∈ (t.links.get .S).flags ∧ .changeEnded ∈ (t.links.get a.link).flags
          ∧ t.faultCount = min (s.faultCount + 1) 65535 ∧ t.motion = s.motion ∧ t.axes = s.axes
        (s.change.get a.other = none → s.waiters = [] → ∃ t, Goes .rackTimerExpiry s t ∧ ends t
          ∧ Ended s t a k (.failed .rackTimeout))
        ∧ (∀ d zs, s.change.get a.other = some d → d.step = .waitRack → s.waiters = [⟨a.other, .change, zs⟩] →
          (s.motion.get a.other).phase ≠ .waiting .zone → ∃ t, Goes .rackTimerExpiry s t ∧ ends t ∧ t.change.get a.other = none ∧ t.waiters = []
            ∧ t.lastChange.get a.other = some (.failed .rackFault) ∧ .changeEnded ∈ (t.links.get a.other.link).flags
            ∧ t.rack.req = false ∧ t.rack.rackTimer = none ∧ ∀ z b, t.holders.get z ≠ some (b, .change)))
    ∧ (s.rack.dropTimer = none → Goes .dropReadRepeat s s)
    ∧ (∀ k d, s.rack.dropTimer ≠ none → s.rackArm = some a → s.change.get a = some k → k.drop = some d →
        k.step = .awaitDrop → k.dropConfirmed = false →
        ((s.pockets.get d.1).level = true → s.readers.get a = ⟨none, none⟩ → Goes .dropReadRepeat s
          { s with readers := s.readers.set a ⟨some [.drop], none⟩
                   rack := { s.rack with dropTimer := some ⟨500000, 0⟩ } })
        ∧ ((s.pockets.get d.1).level = false → Goes .dropReadRepeat s
          { s with rack := { s.rack with dropTimer := none } }))

/-- Drops and picks (R143, R151 to R153, R92). A drop read without an identity, ABSENT or ERROR, confirms the drop: the
record is STORED in the drop pocket, or for a module of UNKNOWN identity the pocket is EMPTY with UNEXPECTED set and the
arm's UNKNOWN flag clear, the drop reads end, and the step is AWAIT_PICK with a fresh step timer where a take was asked. A
drop read with an identity changes nothing, and the reads go on. A pick read with a matching identity confirms the pick:
the record is MOUNTED, its mount count raised, and its pocket EMPTY; any other result makes the record LOST and the change
FAILED_OPEN(ID_MISMATCH), reports the fault and holds an IDLE arm. That a confirmed drop makes no standing recompute is
log 54, the model's choice. Stated for a read asked by the sequencer alone, while no arm waits. -/
def Obligations.DropAndPick : Prop :=
  let coded := fun ans : PridAnswer => ∃ code, ans = .code code ∧ 1 ≤ code ∧ code ≤ 4294967294
  (∀ (a : Arm) (ans : PridAnswer) (k : Context) (p : PocketId) (s : State),
    s.change.get a = some k → s.readers.get a = ⟨some [.drop], none⟩ → k.step = .awaitDrop → k.dropConfirmed = false →
    (coded ans → Goes (.identityReadComplete a ans) s { s with readers := s.readers.set a ⟨none, none⟩ })
    ∧ (¬ coded ans → k.drop = some (p, .unknown) → (s.pockets.get p).state = .reserved →
        Goes (.identityReadComplete a ans) s (State.raise { s with
          readers := s.readers.set a ⟨none, none⟩, unknown := s.unknown.set a false
          pockets := Table.put s.pockets p { s.pockets.get p with state := .empty, unexpected := true }
          change := s.change.set a (some { k with
            dropConfirmed := true, step := if k.take = none then .awaitDrop else .awaitPick })
          rack := { s.rack with
            dropTimer := none
            stepTimer := if k.take = none then none else some ⟨s.settings.stepTimeout * 10000000, 0⟩ } } a.link
          .changeStep)))
  ∧ ∀ (a : Arm) (ans : PridAnswer) (k : Context) (p : PocketId) (n : Slot) (r : Probe) (s : State),
    s.change.get a = some k → s.probes.get n = some r → r.place = .inTransit a →
    (s.pockets.get p).state = .reserved → s.waiters = [] →
    (s.readers.get a = ⟨some [.drop], none⟩ → k.step = .awaitDrop → k.dropConfirmed = false →
      k.drop = some (p, .slot n) → ¬ coded ans →
      ∃ t, Goes (.identityReadComplete a ans) s t
        ∧ t.probes.get n = some { r with place := .stored p } ∧ (t.pockets.get p).state = .occupied n
        ∧ t.change.get a = some { k with
            dropConfirmed := true, step := if k.take = none then .awaitDrop else .awaitPick }
        ∧ t.rack.stepTimer = (if k.take = none then none else some ⟨s.settings.stepTimeout * 10000000, 0⟩)
        ∧ t.rack.dropTimer = none ∧ t.readers.get a = ⟨none, none⟩
        ∧ .changeStep ∈ (t.links.get a.link).flags ∧ t.motion = s.motion ∧ t.axes = s.axes ∧ t.trap = s.trap
        ∧ steady t = steady s)
    ∧ (s.readers.get a = ⟨some [.pick], none⟩ → k.step = .awaitPick → k.pickConfirmed = false →
      k.take = some (p, n) → (∀ m q, m ≠ n → s.probes.get m = some q → q.place ≠ .mounted a) →
      (∀ code, ans = .code code → 1 ≤ code → code ≤ 4294967294 →
        idMatch s.settings.matchMode r.identity code = true →
        ∃ t, Goes (.identityReadComplete a ans) s t
          ∧ t.probes.get n = some { r with
              place := .mounted a, mountCount := min (r.mountCount + 1) 65535, corrupt := false }
          ∧ (t.pockets.get p).state = .empty ∧ (t.pockets.get p).unexpected = (s.pockets.get p).level
          ∧ t.mount a = .record n ∧ t.unknown.get a = false
          ∧ t.change.get a = some { k with pickConfirmed := true } ∧ t.rack.stepTimer = none
          ∧ .changeStep ∈ (t.links.get a.link).flags ∧ t.motion = s.motion ∧ t.axes = s.axes ∧ t.trap = s.trap
          ∧ steady t = steady s)
      ∧ ((∀ code, ans = .code code → 1 ≤ code → code ≤ 4294967294 →
            idMatch s.settings.matchMode r.identity code = false) → (s.motion.get a).phase = .idle →
        ∃ t, Goes (.identityReadComplete a ans) s t
          ∧ t.probes.get n = some { r with place := .lost }
          ∧ t.change.get a = some { k with step := .failedOpen, failure := some .idMismatch }
          ∧ (t.unknown.get a = true ↔ ∃ code, ans = .code code ∧ 1 ≤ code ∧ code ≤ 4294967294)
          ∧ t.rack.stepTimer = none ∧ t.faultCount = min (s.faultCount + 1) 65535
          ∧ t.motion.get a = { s.motion.get a with phase := .held .idMismatch }
          ∧ t.motion.get a.other = s.motion.get a.other
          ∧ .armHeld ∈ (t.links.get a.link).flags ∧ .changeStep ∈ (t.links.get a.link).flags
          ∧ steady t = steady s))
/-! ### The capture unit -/

/-- The trigger edges (R88, R91, R162, R167, R168, R170, R177, R181, R182). A release, an edge with the level active
already, and an edge that is IGNORED or MASKED record the level alone. A TOUCH takes the latch, queues its record under
the next sequence number, enters the stop ramp with pending outcome TOUCHED and raises TOUCH. A CONTACT takes the latch,
queues its record or sets CONTACT_NOT_QUEUED, reports the fault with the record's coordinates, stops the arm for COLLISION
and raises CONTACT; in a stop ramp it changes the pending outcome to CONTACT. At v = 0 either stop ends the segment at
once, after a contact with its entry behind the FLUSHED one (log 53, the model's choice). A contact that makes an arm
COLLISION ends its change in WAIT_RACK or OPENING FAILED(ARM). A contact flushes the queue first (R182), with the entry of
a head that waits for zones and the counts it started (R114, R118). The latch holds the counts, v, the path, the snapshot,
the calibration, the mount with its probe's data and the period ratio as they stand. The tag the report carries in a stop
ramp is log 18. A touch that ends a segment at once is stated for an empty queue. -/
def Obligations.TriggerEdges : Prop :=
  ∀ (a : Arm) (s : State),
    let m := s.motion.get a
    let k := s.capture.get a
    let quiet := Goes (.triggerEdge a) s (s.modCapture a fun k => { k with trig := true })
    let powered := m.phase ≠ .off ∧ ∀ r, m.phase ≠ .fault r
    let open_ := ∃ c, s.change.get a = some c
      ∧ (c.step = .awaitDrop ∨ c.step = .awaitPick ∨ c.step = .failedOpen ∨ c.step = .closing)
    let kindIs := fun x : SegKind => ∃ w, m.active = some w ∧ w.seg.move.kind = x
    let point := fun x : PointKind => (s.takeLatch a x).point a ((k.seq + 1) % 65536)
    let latched := fun (x : PointKind) => s.modCapture a fun k =>
      { trig := true, latch := some (s.takeLatch a x), seq := (k.seq + 1) % 65536
        points := if k.points.length < 32 then k.points ++ [point x] else k.points
        notQueued := k.notQueued || decide (32 ≤ k.points.length) }
    let reported := (latched .contact).report
      { kind := .contact, arm := some a, tag := m.active.map (·.seg.tag), coords := some (point .contact).q
        epoch := s.snapshot.epoch }
    let flushed := (flush a reported).1
    let plain := m.queue = [] ∨ m.phase ≠ .waiting .zone
    let ended := fun (w : Working) (o : Outcome) (s : State) => ((s.modMotion a fun m => { m with active := none }).modAxes a
      fun u => { u with axis := .of fun i => { u.axis.get i with standing := w.setpoints.get i } }).addResult a w.seg.tag o
    (∀ x, let t := s.takeLatch a x
      t.kind = x ∧ (∀ i, t.counts.get i = ((s.axes.get a).axis.get i).count)
      ∧ t.v = ((m.active.map (·.v)).getD 0) ∧ t.path = m.active.map (fun w => ⟨w.seg.tag, w.d, w.len⟩)
      ∧ t.snapshot = s.snapshot ∧ t.cal = (s.cal.get a).axis ∧ t.calFault = s.loadFaults.calibration
      ∧ t.mount = s.mount a ∧ t.n = (s.timers.get a).n ∧ t.d = (s.timers.get a).d
      ∧ (∀ n p, s.mount a = .record n → s.probes.get n = some p →
          t.probe = some ⟨p.tau, p.qual.get a, s.qualStatus a p⟩)
      ∧ ((∀ n, s.mount a ≠ .record n) → t.probe = none))
    ∧ Goes (.triggerRelease a) s (s.modCapture a fun k => { k with trig := false })
    ∧ (k.trig = true → Goes (.triggerEdge a) s s)
    ∧ (k.trig = false → ¬ powered → quiet)
    ∧ (k.trig = false → open_ ∨ kindIs .rack ∨ m.phase = .collision → quiet)
    ∧ (∀ w o, k.trig = false → m.active = some w → w.status = .stopping o → o = .touched ∨ o = .contact → quiet)
    ∧ (∀ w, k.trig = false → powered → ¬ open_ → m.phase ≠ .collision → m.active = some w → w.status = .active →
        w.seg.move.kind = .probe → 0 < w.v → k.points.length < 32 →
        Goes (.triggerEdge a) s ((((latched .touch).modMotion a fun m =>
          { m with active := some { w with status := .stopping .touched } }).setPhase a .stopping).raise a.link .touch))
    ∧ (k.trig = false → powered → ¬ open_ → m.phase ≠ .collision → m.active = none → plain →
        s.change.get a = none →
        Goes (.triggerEdge a) s ((flushed.setPhase a .collision).raise a.link .contact))
    ∧ (k.trig = false → ¬ open_ → m.phase = .waiting .zone → m.active = none → s.change.get a = none → Alone s a →
        ∃ t, Goes (.triggerEdge a) s t
          ∧ ExceptZones (((unwaited flushed).setPhase a .collision).raise a.link .contact) t
          ∧ (s.waiters ≠ [] → ∀ x ∈ t.handover, x.holder ≠ a.other))
    ∧ (∀ w, k.trig = false → powered → ¬ open_ → m.phase ≠ .collision → m.active = some w → w.status = .active →
        w.seg.move.kind = .position ∨ w.seg.move.kind = .home → 0 < w.v → plain →
        Goes (.triggerEdge a) s (((flushed.modMotion a fun m =>
          { m with active := some { w with status := .stopping .contact } }).setPhase a .stopping).raise a.link .contact))
    ∧ (∀ w o, k.trig = false → powered → ¬ open_ → m.phase ≠ .collision → m.active = some w → w.status = .stopping o →
        o ≠ .touched → o ≠ .contact → w.seg.move.kind ≠ .rack → plain →
        Goes (.triggerEdge a) s ((flushed.modMotion a fun m =>
          { m with active := some { w with status := .stopping .contact } }).raise a.link .contact))
    ∧ (∀ w, k.trig = false → powered → ¬ open_ → m.phase ≠ .collision → m.active = some w → w.status = .active →
        w.v = 0 → m.resetPending = false → m.holdPending = false → s.waiters = [] →
        (w.seg.move.kind = .probe → k.points.length < 32 → m.queue = [] → ∃ t, Goes (.triggerEdge a) s t
          ∧ ExceptZones (((ended w .touched (latched .touch)).setPhase a .idle).raise a.link .touch) t)
        ∧ (w.seg.move.kind = .position ∨ w.seg.move.kind = .home → s.change.get a = none → plain →
          ∃ t, Goes (.triggerEdge a) s t
            ∧ ExceptZones (((ended w .contact flushed).setPhase a .collision).raise a.link .contact) t))
    ∧ (∀ c, k.trig = false → powered → m.phase ≠ .collision → m.active = none → plain →
        s.change.get a = some c → c.step = .waitRack ∨ c.step = .opening → Lonely s a c → Tables s →
        ∃ t, Goes (.triggerEdge a) s t ∧ Fails s t a c ∧ (t.motion.get a).phase = .collision
          ∧ (t.motion.get a).queue = [] ∧ t.capture = (latched .contact).capture ∧ t.trap = reported.trap ∧ t.faultCount = reported.faultCount
          ∧ .changeEnded ∈ (t.links.get a.link).flags ∧ .contact ∈ (t.links.get a.link).flags)

/-- The point computed from a latch (R172 to R176): tip centre, surface point, the correction for the body's expansion and
the clamp, each coordinate by the rules' formulas, the fields of the record, and its ten flags; with the examples' lag. -/
def Obligations.PointComputed : Prop :=
  ∀ (t : Latch) (a : Arm) (seq : Nat),
    let q := t.probe.bind (·.entry)
    let lag := roundDiv ((t.v * (t.probe.map (·.tau)).getD 0 * t.d : Nat) : Int) t.n
    let radius : Int := ((q.map (·.radius)).getD 0 : Nat)
    let p := t.point a seq
    let g := t.snapshot.groups
    ∃ b e x : Vec3,
      (∀ i, b.get i = (t.cal.get i).base + (t.cal.get i).sign
        * (t.counts.get i + roundDiv (t.counts.get i * (t.cal.get i).alpha * ((g.scale.get a).get i).temp) 1000000000000)
        + (match q with
          | some q => q.offset.get i
          | none => 0))
      ∧ (∀ l i, t.kind = .touch → t.path = some l →
          e.get i = b.get i + roundDiv ((radius - lag) * l.d.get i) l.len)
      ∧ (t.kind = .contact → e = b)
      ∧ (∀ i, x.get i = e.get i - roundDiv
          ((e.get i - t.snapshot.workpiece.w0.get i) * t.snapshot.workpiece.alpha * t.snapshot.wpTemp) 1000000000000)
      ∧ (∀ i, p.q.get i = max (-2147483648) (min (x.get i) 2147483647))
      ∧ (p.flags.clamped = true ↔ ∃ i, x.get i < -2147483648 ∨ 2147483647 < x.get i)
      ∧ p.seq = seq ∧ p.kind = t.kind ∧ p.tag = t.path.map (·.tag) ∧ p.epoch = t.snapshot.epoch
      ∧ (∀ n, p.probe = some n ↔ t.mount = .record n) ∧ p.generation = q.map (·.generation)
      ∧ (p.flags.unqualified = true ↔ t.mount = .unknown ∨ ((∃ n, t.mount = .record n) ∧ q = none))
      ∧ (p.flags.qualStale = true ↔ ∃ r, t.probe = some r ∧ r.status = .stale)
      ∧ (p.flags.thermStale = true ↔ (∃ i, ((g.scale.get a).get i).stale = true)
          ∨ (q ≠ none ∧ (g.head.get a).stale = true)
          ∨ (t.snapshot.source = .held ∧ (g.workpiece.stale = true ∨ g.air.stale = true)))
      ∧ (p.flags.wpFromAir = true ↔ t.snapshot.source = .air) ∧ (p.flags.wpHeld = true ↔ t.snapshot.source = .held)
      ∧ p.flags.gradient = t.snapshot.gradientFlag ∧ (p.flags.noDirection = true ↔ t.kind = .contact)
      ∧ p.flags.uncalibrated = t.calFault ∧ (p.flags.noProbe = true ↔ t.mount = .none)
      ∧ roundDiv 163800 5000 = 33

/-- READ POINTS (R179): it answers with the oldest records, at most six and in their order, the CONTACT_NOT_QUEUED mark,
which it clears, and the number left; the records leave the queue. Each record takes 24 bytes, the last of the payload,
laid out as R202 says. With the arm in WAITING(POINTS) and at least one record returned the head is evaluated again:
stated for a PROBE that passes its stages and finds its zones free, which starts; its zones are those of HeadAsksZones
(log 44). -/
def Obligations.PointsRead : Prop :=
  ∀ (a : Arm) (s : State), Takes s a.link (.readPoints a.link) →
    let c := Instr.readPoints a.link
    let m := s.motion.get a
    let k := s.capture.get a
    ∃ records left : List Point, k.points = records ++ left ∧ records.length = min 6 k.points.length
      ∧ (let u := answered (s.modCapture a fun k => { k with points := left, notQueued := false }) a.link .ok
          (.points k.notQueued left.length records)
        (m.phase ≠ .waiting .points ∨ records = [] → Goes c s u)
        ∧ (∀ h rest target past, m.phase = .waiting .points → records ≠ [] → m.resetPending = false →
            m.queue = h :: rest → h.move = .probe target past → k.trig = false → left.length < 32 →
            let g := s.formGeometry a h.move target
            target ≠ g.start → ¬ InForbidden s a g → ¬ InRackZone s g → ¬ HandoverBars s a g →
            (∀ z ∈ g.needed, ∀ b why, s.holders.get z = some (b, why) → b = a ∨ why = .linger) → s.waiters = [] →
            ∃ t, Goes c s t ∧ ExceptZones ((u.modMotion a fun m =>
              { m with queue := rest, geometry := none, active := some (s.work a h (some g)) }).setPhase a .moving) t
              ∧ Granted s t a g.needed))
      ∧ (∀ p : Point, RecordBytes p p.bytes)
      ∧ ∃ head : List Byte, (Payload.points k.notQueued left.length records).bytes = head ++ records.flatMap Point.bytes
/-! ### The configuration store -/

/-- SAVE and its pages (R210, R211, R144), and RELOAD (R212). SAVE is refused while one runs; the copy of each section is
taken as its write begins; an unacknowledged page ends the SAVE with SAVE_FAILED and the last page of the last section
with SAVE_DONE. The copies hold the working records, timer ratios, scan list and interval, disabled flags, settings and
masks as they stand; each region has the one size of its section (R205; log 8). A record that is FREE or LOST is not
stored, one in a pocket or on an arm is stored there with a fresh check of its count. RELOAD is refused while a SAVE runs,
and WRONG_STATE unless both arms are OFF with no change and no inventory; accepted, it starts LOADING again with link S
PENDING, the arm links in RETRY, the timers stopped with acc and count 0 and the sync enables clear (R52); that a stopped
setpoint timer has length 0 and the scan timer is 0 of 0 is log 11, the model's choice; the axes but for REFERENCED, the
rack but for its timers, the motion units, the points and the notice flags are kept, and only the reset snapshot adds a
flag: THERMAL to an arm's link where a group of it or the source was not STALE or HELD (R42, R39). A page with no SAVE
running does nothing (log 3); what RELOAD resets at once is log 33. -/
def Obligations.SaveAndReload : Prop :=
  (∀ s : State, Takes s .S (.save .S) →
    (s.save ≠ .idle → Refuses (.save .S) .S s .saveInProgress)
    ∧ (s.save = .idle → Answers (.save .S) .S s { s with save := .running (s.imageOf .calibration) 0 }))
  ∧ (∀ (ack : Bool) (s : State),
    (s.save = .idle → Goes (.savePageWritten ack) s s)
    ∧ ∀ im page, s.save = .running im page →
      (ack = false → Goes (.savePageWritten ack) s (State.raise { s with save := .idle } .S .saveFailed))
      ∧ (ack = true → page + 1 < pageCount im.section →
          Goes (.savePageWritten ack) s { s with save := .running im (page + 1) })
      ∧ (∀ x, ack = true → pageCount im.section ≤ page + 1 → sectionAfter im.section = some x →
          Goes (.savePageWritten ack) s { s with save := .running (s.imageOf x) 0 })
      ∧ (ack = true → pageCount im.section ≤ page + 1 → im.section = .settings →
          Goes (.savePageWritten ack) s (State.raise { s with save := .idle } .S .saveDone)))
  ∧ (∀ (s : State) (n : Slot), ∃ es, s.imageOf .probes = .probes es
      ∧ (s.probes.get n = none → es.get n = none)
      ∧ ∀ p, s.probes.get n = some p →
        (p.place = .lost → es.get n = none)
        ∧ (p.place ≠ .lost → ∃ e, es.get n = some e ∧ e.identity = p.identity ∧ e.reach = p.reach ∧ e.tau = p.tau
            ∧ e.home = p.home.map (·.val) ∧ e.qual = p.qual ∧ e.guarded = p.guarded ∧ e.mountCount = p.mountCount
            ∧ e.check = countCheck p.mountCount
            ∧ (∀ k, p.place = .stored k → e.place = .pocket k.val)
            ∧ (∀ a, p.place = .mounted a → e.place = .arm (some a))
            ∧ (∀ a c k, p.place = .inTransit a → s.change.get a = some c → c.take = some (k, n) →
                e.place = .pocket k.val)
            ∧ (∀ a c k, p.place = .inTransit a → s.change.get a = some c → c.drop = some (k, .slot n) →
                c.take.map (·.2) ≠ some n → e.place = .arm (some a))))
  ∧ (∀ im : Image, (regionBytes im).length = regionSize im.section)
  ∧ (∀ s : State,
    s.imageOf .calibration = .calibration s.cal (s.timers.map fun t => (t.n, t.d)) s.workpiece
    ∧ (∃ zs, s.imageOf .zones = .zones zs
      ∧ ∀ z, zs.get z = ⟨some (s.zones.get z).kind, (s.zones.get z).box, (s.zones.get z).k⟩)
    ∧ (∃ cs, s.imageOf .channels = .channels cs (s.scanList.map (·.val)) s.scanInterval
      ∧ ∀ c, let x := s.channels.get c
        cs.get c = ⟨some x.role, x.gain, x.offset, x.shift, x.low, x.high, x.persistence⟩)
    ∧ (∃ ds, s.imageOf .pockets = .pockets ds ∧ ∀ p, ds.get p = true ↔ (s.pockets.get p).state = .disabled)
    ∧ s.imageOf .settings = .settings ⟨some s.settings.matchMode, some s.settings.startLocked, s.settings.linger,
        s.settings.stepTimeout, s.settings.rackTimeout, s.settings.qualLimit, s.links.a.mask, s.links.b.mask,
        s.links.s.mask⟩)
  ∧ (∀ s : State, Takes s .S (.reload .S) →
    let wrong := (∃ a, (s.motion.get a).phase ≠ .off) ∨ (∃ a, s.change.get a ≠ none) ∨ s.inventory ≠ .idle
    (s.save ≠ .idle → Refuses (.reload .S) .S s .saveInProgress)
    ∧ (s.save = .idle → wrong → Refuses (.reload .S) .S s .wrongState)
    ∧ (s.save = .idle → ¬ wrong → ∃ t, Goes (.reload .S) s t
        ∧ t.startup = .loading ∧ t.loading = some .calibration
        ∧ (t.links.get .S).phase = .pending ∧ (t.links.get .S).work = some .reload
        ∧ (∀ a : Arm, (t.links.get a.link).phase = .retry ∧ (t.links.get a.link).buffer = []
            ∧ (t.links.get a.link).request = none ∧ (t.links.get a.link).response = none
            ∧ (t.links.get a.link).mask = (s.links.get a.link).mask)
        ∧ (∀ a : Arm, (t.timers.get a).sync = false ∧ (t.timers.get a).acc = 0 ∧ (t.timers.get a).count = 0
            ∧ (t.timers.get a).length = 0 ∧ t.linger.get a = none)
        ∧ t.scanSync = false ∧ t.scanTimer = ⟨0, 0⟩
        ∧ t.pass = none ∧ t.snapshot.epoch = (s.snapshot.epoch + 1) % 65536 ∧ t.snapshot.source = .held
        ∧ (∀ (a : Arm) (i : Axis), (t.snapshot.groups.scale.get a).get i = ⟨0, true⟩)
        ∧ t.axes = s.axes.map (fun u => { u with axis := u.axis.map fun x => { x with referenced := false } })
        ∧ t.rack = { s.rack with rackTimer := none, stepTimer := none, dropTimer := none }
        ∧ (∀ (l : Link) (k : Notice), k ∈ (t.links.get l).flags ↔ k ∈ (s.links.get l).flags ∨ (k = .thermal
            ∧ ∃ a : Arm, l = a.link ∧ (s.snapshot.source ≠ .held ∨ (s.snapshot.groups.head.get a).stale = false
              ∨ ∃ i, ((s.snapshot.groups.scale.get a).get i).stale = false)))
        ∧ (∀ z, t.holders.get z = none) ∧ t.waiters = [] ∧ t.handover = []
        ∧ t.motion = s.motion ∧ t.probes = s.probes ∧ t.pockets = s.pockets ∧ t.capture = s.capture
        ∧ t.trap = s.trap ∧ t.faultCount = s.faultCount ∧ t.freeze = s.freeze ∧ t.settings = s.settings
        ∧ t.cal = s.cal ∧ t.zones = s.zones ∧ t.pending = s.pending))

/-! ### Invariants -/

/-- A step from any state keeps each of six properties: the lists and counters stay within their bounds (R38, R60, R74,
R97, R177, R178, R198); DEN follows the arm state, asserted in IDLE, WAITING, MOVING, STOPPING, HELD and COLLISION and in
no other (R63); each ATTN line is asserted while its link's flags and mask share a kind (R196); a pocket is OCCUPIED by a
record exactly while that record is STORED in it, and at most one record is MOUNTED on an arm (R125, R126); a zone is held
for CHANGE only by an arm whose change is past WAIT_RACK, and RACK-REQ is asserted only while a change is in OPENING,
AWAIT_DROP, AWAIT_PICK or FAILED_OPEN (R108, R146); an arm has at most one waiter entry (R114). What the model does in
states that break one of the last three, which no run from RESET reaches, is log 36. -/
def Obligations.InvariantsKept : Prop :=
  Kept Bounds ∧ Kept DriveEnable ∧ Kept Attention ∧ Kept Tables ∧ Kept RackHeld ∧ Kept OneEntry

/-- The state after reset has the six properties. -/
def Obligations.ResetIsSafe : Prop :=
  Bounds State.reset ∧ DriveEnable State.reset ∧ Attention State.reset ∧ Tables State.reset ∧ RackHeld State.reset
    ∧ OneEntry State.reset
end
end

