-- ==== Sys2Proof/Laws/Containers.lean ====
section
/-! SUPPORT. Reads after writes of the per-arm, per-link and per-axis containers and of the tables. -/
namespace Sys2Proof

@[simp] theorem PerArm.get_set {α : Type} (v : PerArm α) (i : Arm) (x : α) : (v.set i x).get i = x := by
  cases i <;> rfl

theorem PerArm.get_set_ne {α : Type} (v : PerArm α) {i j : Arm} (x : α) (h : j ≠ i) :
    (v.set i x).get j = v.get j := by
  cases i <;> cases j <;> first | rfl | exact absurd rfl h

/-- A read after a write at any arm. -/
theorem PerArm.get_set_if {α : Type} (v : PerArm α) (i j : Arm) (x : α) :
    (v.set i x).get j = if j = i then x else v.get j := by
  cases i <;> cases j <;> rfl

@[simp] theorem PerArm.set_set {α : Type} (v : PerArm α) (i : Arm) (x y : α) : (v.set i x).set i y = v.set i y := by
  cases i <;> rfl

@[simp] theorem PerArm.get_both {α : Type} (x : α) (i : Arm) : (PerArm.both x).get i = x := by
  cases i <;> rfl

@[simp] theorem PerArm.get_map {α β : Type} (f : α → β) (v : PerArm α) (i : Arm) : (v.map f).get i = f (v.get i) := by
  cases i <;> rfl

@[simp] theorem PerLink.get_set {α : Type} (v : PerLink α) (i : Link) (x : α) : (v.set i x).get i = x := by
  cases i <;> rfl

theorem PerLink.get_set_ne {α : Type} (v : PerLink α) {i j : Link} (x : α) (h : j ≠ i) :
    (v.set i x).get j = v.get j := by
  cases i <;> cases j <;> first | rfl | exact absurd rfl h

/-- A read after a write at any link. -/
theorem PerLink.get_set_if {α : Type} (v : PerLink α) (i j : Link) (x : α) :
    (v.set i x).get j = if j = i then x else v.get j := by
  cases i <;> cases j <;> rfl

@[simp] theorem PerLink.set_set {α : Type} (v : PerLink α) (i : Link) (x y : α) : (v.set i x).set i y = v.set i y := by
  cases i <;> rfl

/-- Writes at different links commute. -/
theorem PerLink.set_comm {α : Type} (v : PerLink α) {i j : Link} (x y : α) (h : i ≠ j) :
    (v.set i x).set j y = (v.set j y).set i x := by
  cases i <;> cases j <;> first | rfl | exact absurd rfl h

@[simp] theorem PerAxis.get_of {α : Type} (f : Axis → α) (i : Axis) : (PerAxis.of f).get i = f i := by
  cases i <;> rfl

@[simp] theorem PerAxis.get_map {α β : Type} (f : α → β) (v : PerAxis α) (i : Axis) : (v.map f).get i = f (v.get i) := by
  cases i <;> rfl

/-- A read after a write at any axis. -/
theorem PerAxis.get_set_if {α : Type} (v : PerAxis α) (i j : Axis) (x : α) :
    (v.set i x).get j = if j = i then x else v.get j := by
  cases i <;> cases j <;> rfl

theorem PerAxis.ext_get {α : Type} {u v : PerAxis α} (h : ∀ i, u.get i = v.get i) : u = v := by
  cases u; cases v
  have hx := h .X
  have hy := h .Y
  have hz := h .Z
  simp only [PerAxis.get] at hx hy hz
  subst hx hy hz
  rfl

/-- A read after a write at any entry of a table. -/
theorem Table.get_put {α : Type} {n : Nat} (v : Table n α) (i j : Fin n) (x : α) :
    (Table.put v i x).get j = if j = i then x else v.get j := by
  unfold Table.put
  show (v.set i.1 x i.2)[j.1] = _
  rw [Vector.getElem_set]
  by_cases h : j = i
  · subst h; simp
  · have hne : ¬ i.1 = j.1 := fun e => h (Fin.ext e.symm)
    rw [if_neg hne, if_neg h]
    rfl

@[simp] theorem Table.get_put_same {α : Type} {n : Nat} (v : Table n α) (i : Fin n) (x : α) :
    (Table.put v i x).get i = x := by
  rw [Table.get_put, if_pos rfl]

@[simp] theorem Table.get_of {α : Type} {n : Nat} (f : Fin n → α) (i : Fin n) : (Table.of f).get i = f i := by
  show (Table.of f)[i.1] = f i
  simp [Table.of]

@[simp] theorem Table.get_mapIdx {α β : Type} {n : Nat} (v : Table n α) (f : Fin n → α → β) (i : Fin n) :
    (Table.mapIdx v f).get i = f i (v.get i) := by
  simp [Table.mapIdx]

@[simp] theorem Table.get_map {α β : Type} {n : Nat} (f : α → β) (v : Table n α) (i : Fin n) :
    (Table.map f v).get i = f (v.get i) := by
  simp [Table.map]

theorem index?_some {n i : Nat} {k : Fin n} (h : index? n i = some k) : k.1 = i := by
  unfold index? at h
  split at h
  · cases h; rfl
  · cases h

theorem index?_isNone {n i : Nat} : (index? n i).isNone = decide (n ≤ i) := by
  unfold index?
  split <;> simp <;> omega

end Sys2Proof
end

