-- ==== Sys2Proof/Laws/State.lean ====
section
/-! SUPPORT. One lemma for each field and each update of one part of the state, so that no proof unfolds an update. -/
namespace Sys2Proof.Machine
variable (s : State)

/-! modLink -/

@[simp] theorem State.modLink_pending (l : Link) (f : LinkState → LinkState) : (s.modLink l f).pending = s.pending := rfl
@[simp] theorem State.modLink_choices (l : Link) (f : LinkState → LinkState) : (s.modLink l f).choices = s.choices := rfl
@[simp] theorem State.modLink_startup (l : Link) (f : LinkState → LinkState) : (s.modLink l f).startup = s.startup := rfl
@[simp] theorem State.modLink_loading (l : Link) (f : LinkState → LinkState) : (s.modLink l f).loading = s.loading := rfl
@[simp] theorem State.modLink_loadFaults (l : Link) (f : LinkState → LinkState) : (s.modLink l f).loadFaults = s.loadFaults := rfl
@[simp] theorem State.modLink_save (l : Link) (f : LinkState → LinkState) : (s.modLink l f).save = s.save := rfl
@[simp] theorem State.modLink_settings (l : Link) (f : LinkState → LinkState) : (s.modLink l f).settings = s.settings := rfl
@[simp] theorem State.modLink_links (l : Link) (f : LinkState → LinkState) : (s.modLink l f).links = s.links.set l (f (s.links.get l)) := rfl
@[simp] theorem State.modLink_trap (l : Link) (f : LinkState → LinkState) : (s.modLink l f).trap = s.trap := rfl
@[simp] theorem State.modLink_faultCount (l : Link) (f : LinkState → LinkState) : (s.modLink l f).faultCount = s.faultCount := rfl
@[simp] theorem State.modLink_channels (l : Link) (f : LinkState → LinkState) : (s.modLink l f).channels = s.channels := rfl
@[simp] theorem State.modLink_scanList (l : Link) (f : LinkState → LinkState) : (s.modLink l f).scanList = s.scanList := rfl
@[simp] theorem State.modLink_scanInterval (l : Link) (f : LinkState → LinkState) : (s.modLink l f).scanInterval = s.scanInterval := rfl
@[simp] theorem State.modLink_pass (l : Link) (f : LinkState → LinkState) : (s.modLink l f).pass = s.pass := rfl
@[simp] theorem State.modLink_workpiece (l : Link) (f : LinkState → LinkState) : (s.modLink l f).workpiece = s.workpiece := rfl
@[simp] theorem State.modLink_snapshot (l : Link) (f : LinkState → LinkState) : (s.modLink l f).snapshot = s.snapshot := rfl
@[simp] theorem State.modLink_timers (l : Link) (f : LinkState → LinkState) : (s.modLink l f).timers = s.timers := rfl
@[simp] theorem State.modLink_scanTimer (l : Link) (f : LinkState → LinkState) : (s.modLink l f).scanTimer = s.scanTimer := rfl
@[simp] theorem State.modLink_scanSync (l : Link) (f : LinkState → LinkState) : (s.modLink l f).scanSync = s.scanSync := rfl
@[simp] theorem State.modLink_cal (l : Link) (f : LinkState → LinkState) : (s.modLink l f).cal = s.cal := rfl
@[simp] theorem State.modLink_axes (l : Link) (f : LinkState → LinkState) : (s.modLink l f).axes = s.axes := rfl
@[simp] theorem State.modLink_motion (l : Link) (f : LinkState → LinkState) : (s.modLink l f).motion = s.motion := rfl
@[simp] theorem State.modLink_zones (l : Link) (f : LinkState → LinkState) : (s.modLink l f).zones = s.zones := rfl
@[simp] theorem State.modLink_holders (l : Link) (f : LinkState → LinkState) : (s.modLink l f).holders = s.holders := rfl
@[simp] theorem State.modLink_standing (l : Link) (f : LinkState → LinkState) : (s.modLink l f).standing = s.standing := rfl
@[simp] theorem State.modLink_deferred (l : Link) (f : LinkState → LinkState) : (s.modLink l f).deferred = s.deferred := rfl
@[simp] theorem State.modLink_linger (l : Link) (f : LinkState → LinkState) : (s.modLink l f).linger = s.linger := rfl
@[simp] theorem State.modLink_waiters (l : Link) (f : LinkState → LinkState) : (s.modLink l f).waiters = s.waiters := rfl
@[simp] theorem State.modLink_handover (l : Link) (f : LinkState → LinkState) : (s.modLink l f).handover = s.handover := rfl
@[simp] theorem State.modLink_probes (l : Link) (f : LinkState → LinkState) : (s.modLink l f).probes = s.probes := rfl
@[simp] theorem State.modLink_pockets (l : Link) (f : LinkState → LinkState) : (s.modLink l f).pockets = s.pockets := rfl
@[simp] theorem State.modLink_unknown (l : Link) (f : LinkState → LinkState) : (s.modLink l f).unknown = s.unknown := rfl
@[simp] theorem State.modLink_freeze (l : Link) (f : LinkState → LinkState) : (s.modLink l f).freeze = s.freeze := rfl
@[simp] theorem State.modLink_readers (l : Link) (f : LinkState → LinkState) : (s.modLink l f).readers = s.readers := rfl
@[simp] theorem State.modLink_inventory (l : Link) (f : LinkState → LinkState) : (s.modLink l f).inventory = s.inventory := rfl
@[simp] theorem State.modLink_change (l : Link) (f : LinkState → LinkState) : (s.modLink l f).change = s.change := rfl
@[simp] theorem State.modLink_lastChange (l : Link) (f : LinkState → LinkState) : (s.modLink l f).lastChange = s.lastChange := rfl
@[simp] theorem State.modLink_rack (l : Link) (f : LinkState → LinkState) : (s.modLink l f).rack = s.rack := rfl
@[simp] theorem State.modLink_capture (l : Link) (f : LinkState → LinkState) : (s.modLink l f).capture = s.capture := rfl

/-! modMotion -/

@[simp] theorem State.modMotion_pending (a : Arm) (f : Motion → Motion) : (s.modMotion a f).pending = s.pending := rfl
@[simp] theorem State.modMotion_choices (a : Arm) (f : Motion → Motion) : (s.modMotion a f).choices = s.choices := rfl
@[simp] theorem State.modMotion_startup (a : Arm) (f : Motion → Motion) : (s.modMotion a f).startup = s.startup := rfl
@[simp] theorem State.modMotion_loading (a : Arm) (f : Motion → Motion) : (s.modMotion a f).loading = s.loading := rfl
@[simp] theorem State.modMotion_loadFaults (a : Arm) (f : Motion → Motion) : (s.modMotion a f).loadFaults = s.loadFaults := rfl
@[simp] theorem State.modMotion_save (a : Arm) (f : Motion → Motion) : (s.modMotion a f).save = s.save := rfl
@[simp] theorem State.modMotion_settings (a : Arm) (f : Motion → Motion) : (s.modMotion a f).settings = s.settings := rfl
@[simp] theorem State.modMotion_links (a : Arm) (f : Motion → Motion) : (s.modMotion a f).links = s.links := rfl
@[simp] theorem State.modMotion_trap (a : Arm) (f : Motion → Motion) : (s.modMotion a f).trap = s.trap := rfl
@[simp] theorem State.modMotion_faultCount (a : Arm) (f : Motion → Motion) : (s.modMotion a f).faultCount = s.faultCount := rfl
@[simp] theorem State.modMotion_channels (a : Arm) (f : Motion → Motion) : (s.modMotion a f).channels = s.channels := rfl
@[simp] theorem State.modMotion_scanList (a : Arm) (f : Motion → Motion) : (s.modMotion a f).scanList = s.scanList := rfl
@[simp] theorem State.modMotion_scanInterval (a : Arm) (f : Motion → Motion) : (s.modMotion a f).scanInterval = s.scanInterval := rfl
@[simp] theorem State.modMotion_pass (a : Arm) (f : Motion → Motion) : (s.modMotion a f).pass = s.pass := rfl
@[simp] theorem State.modMotion_workpiece (a : Arm) (f : Motion → Motion) : (s.modMotion a f).workpiece = s.workpiece := rfl
@[simp] theorem State.modMotion_snapshot (a : Arm) (f : Motion → Motion) : (s.modMotion a f).snapshot = s.snapshot := rfl
@[simp] theorem State.modMotion_timers (a : Arm) (f : Motion → Motion) : (s.modMotion a f).timers = s.timers := rfl
@[simp] theorem State.modMotion_scanTimer (a : Arm) (f : Motion → Motion) : (s.modMotion a f).scanTimer = s.scanTimer := rfl
@[simp] theorem State.modMotion_scanSync (a : Arm) (f : Motion → Motion) : (s.modMotion a f).scanSync = s.scanSync := rfl
@[simp] theorem State.modMotion_cal (a : Arm) (f : Motion → Motion) : (s.modMotion a f).cal = s.cal := rfl
@[simp] theorem State.modMotion_axes (a : Arm) (f : Motion → Motion) : (s.modMotion a f).axes = s.axes := rfl
@[simp] theorem State.modMotion_motion (a : Arm) (f : Motion → Motion) : (s.modMotion a f).motion = s.motion.set a (f (s.motion.get a)) := rfl
@[simp] theorem State.modMotion_zones (a : Arm) (f : Motion → Motion) : (s.modMotion a f).zones = s.zones := rfl
@[simp] theorem State.modMotion_holders (a : Arm) (f : Motion → Motion) : (s.modMotion a f).holders = s.holders := rfl
@[simp] theorem State.modMotion_standing (a : Arm) (f : Motion → Motion) : (s.modMotion a f).standing = s.standing := rfl
@[simp] theorem State.modMotion_deferred (a : Arm) (f : Motion → Motion) : (s.modMotion a f).deferred = s.deferred := rfl
@[simp] theorem State.modMotion_linger (a : Arm) (f : Motion → Motion) : (s.modMotion a f).linger = s.linger := rfl
@[simp] theorem State.modMotion_waiters (a : Arm) (f : Motion → Motion) : (s.modMotion a f).waiters = s.waiters := rfl
@[simp] theorem State.modMotion_handover (a : Arm) (f : Motion → Motion) : (s.modMotion a f).handover = s.handover := rfl
@[simp] theorem State.modMotion_probes (a : Arm) (f : Motion → Motion) : (s.modMotion a f).probes = s.probes := rfl
@[simp] theorem State.modMotion_pockets (a : Arm) (f : Motion → Motion) : (s.modMotion a f).pockets = s.pockets := rfl
@[simp] theorem State.modMotion_unknown (a : Arm) (f : Motion → Motion) : (s.modMotion a f).unknown = s.unknown := rfl
@[simp] theorem State.modMotion_freeze (a : Arm) (f : Motion → Motion) : (s.modMotion a f).freeze = s.freeze := rfl
@[simp] theorem State.modMotion_readers (a : Arm) (f : Motion → Motion) : (s.modMotion a f).readers = s.readers := rfl
@[simp] theorem State.modMotion_inventory (a : Arm) (f : Motion → Motion) : (s.modMotion a f).inventory = s.inventory := rfl
@[simp] theorem State.modMotion_change (a : Arm) (f : Motion → Motion) : (s.modMotion a f).change = s.change := rfl
@[simp] theorem State.modMotion_lastChange (a : Arm) (f : Motion → Motion) : (s.modMotion a f).lastChange = s.lastChange := rfl
@[simp] theorem State.modMotion_rack (a : Arm) (f : Motion → Motion) : (s.modMotion a f).rack = s.rack := rfl
@[simp] theorem State.modMotion_capture (a : Arm) (f : Motion → Motion) : (s.modMotion a f).capture = s.capture := rfl

/-! modAxes -/

@[simp] theorem State.modAxes_pending (a : Arm) (f : AxisUnit → AxisUnit) : (s.modAxes a f).pending = s.pending := rfl
@[simp] theorem State.modAxes_choices (a : Arm) (f : AxisUnit → AxisUnit) : (s.modAxes a f).choices = s.choices := rfl
@[simp] theorem State.modAxes_startup (a : Arm) (f : AxisUnit → AxisUnit) : (s.modAxes a f).startup = s.startup := rfl
@[simp] theorem State.modAxes_loading (a : Arm) (f : AxisUnit → AxisUnit) : (s.modAxes a f).loading = s.loading := rfl
@[simp] theorem State.modAxes_loadFaults (a : Arm) (f : AxisUnit → AxisUnit) : (s.modAxes a f).loadFaults = s.loadFaults := rfl
@[simp] theorem State.modAxes_save (a : Arm) (f : AxisUnit → AxisUnit) : (s.modAxes a f).save = s.save := rfl
@[simp] theorem State.modAxes_settings (a : Arm) (f : AxisUnit → AxisUnit) : (s.modAxes a f).settings = s.settings := rfl
@[simp] theorem State.modAxes_links (a : Arm) (f : AxisUnit → AxisUnit) : (s.modAxes a f).links = s.links := rfl
@[simp] theorem State.modAxes_trap (a : Arm) (f : AxisUnit → AxisUnit) : (s.modAxes a f).trap = s.trap := rfl
@[simp] theorem State.modAxes_faultCount (a : Arm) (f : AxisUnit → AxisUnit) : (s.modAxes a f).faultCount = s.faultCount := rfl
@[simp] theorem State.modAxes_channels (a : Arm) (f : AxisUnit → AxisUnit) : (s.modAxes a f).channels = s.channels := rfl
@[simp] theorem State.modAxes_scanList (a : Arm) (f : AxisUnit → AxisUnit) : (s.modAxes a f).scanList = s.scanList := rfl
@[simp] theorem State.modAxes_scanInterval (a : Arm) (f : AxisUnit → AxisUnit) : (s.modAxes a f).scanInterval = s.scanInterval := rfl
@[simp] theorem State.modAxes_pass (a : Arm) (f : AxisUnit → AxisUnit) : (s.modAxes a f).pass = s.pass := rfl
@[simp] theorem State.modAxes_workpiece (a : Arm) (f : AxisUnit → AxisUnit) : (s.modAxes a f).workpiece = s.workpiece := rfl
@[simp] theorem State.modAxes_snapshot (a : Arm) (f : AxisUnit → AxisUnit) : (s.modAxes a f).snapshot = s.snapshot := rfl
@[simp] theorem State.modAxes_timers (a : Arm) (f : AxisUnit → AxisUnit) : (s.modAxes a f).timers = s.timers := rfl
@[simp] theorem State.modAxes_scanTimer (a : Arm) (f : AxisUnit → AxisUnit) : (s.modAxes a f).scanTimer = s.scanTimer := rfl
@[simp] theorem State.modAxes_scanSync (a : Arm) (f : AxisUnit → AxisUnit) : (s.modAxes a f).scanSync = s.scanSync := rfl
@[simp] theorem State.modAxes_cal (a : Arm) (f : AxisUnit → AxisUnit) : (s.modAxes a f).cal = s.cal := rfl
@[simp] theorem State.modAxes_axes (a : Arm) (f : AxisUnit → AxisUnit) : (s.modAxes a f).axes = s.axes.set a (f (s.axes.get a)) := rfl
@[simp] theorem State.modAxes_motion (a : Arm) (f : AxisUnit → AxisUnit) : (s.modAxes a f).motion = s.motion := rfl
@[simp] theorem State.modAxes_zones (a : Arm) (f : AxisUnit → AxisUnit) : (s.modAxes a f).zones = s.zones := rfl
@[simp] theorem State.modAxes_holders (a : Arm) (f : AxisUnit → AxisUnit) : (s.modAxes a f).holders = s.holders := rfl
@[simp] theorem State.modAxes_standing (a : Arm) (f : AxisUnit → AxisUnit) : (s.modAxes a f).standing = s.standing := rfl
@[simp] theorem State.modAxes_deferred (a : Arm) (f : AxisUnit → AxisUnit) : (s.modAxes a f).deferred = s.deferred := rfl
@[simp] theorem State.modAxes_linger (a : Arm) (f : AxisUnit → AxisUnit) : (s.modAxes a f).linger = s.linger := rfl
@[simp] theorem State.modAxes_waiters (a : Arm) (f : AxisUnit → AxisUnit) : (s.modAxes a f).waiters = s.waiters := rfl
@[simp] theorem State.modAxes_handover (a : Arm) (f : AxisUnit → AxisUnit) : (s.modAxes a f).handover = s.handover := rfl
@[simp] theorem State.modAxes_probes (a : Arm) (f : AxisUnit → AxisUnit) : (s.modAxes a f).probes = s.probes := rfl
@[simp] theorem State.modAxes_pockets (a : Arm) (f : AxisUnit → AxisUnit) : (s.modAxes a f).pockets = s.pockets := rfl
@[simp] theorem State.modAxes_unknown (a : Arm) (f : AxisUnit → AxisUnit) : (s.modAxes a f).unknown = s.unknown := rfl
@[simp] theorem State.modAxes_freeze (a : Arm) (f : AxisUnit → AxisUnit) : (s.modAxes a f).freeze = s.freeze := rfl
@[simp] theorem State.modAxes_readers (a : Arm) (f : AxisUnit → AxisUnit) : (s.modAxes a f).readers = s.readers := rfl
@[simp] theorem State.modAxes_inventory (a : Arm) (f : AxisUnit → AxisUnit) : (s.modAxes a f).inventory = s.inventory := rfl
@[simp] theorem State.modAxes_change (a : Arm) (f : AxisUnit → AxisUnit) : (s.modAxes a f).change = s.change := rfl
@[simp] theorem State.modAxes_lastChange (a : Arm) (f : AxisUnit → AxisUnit) : (s.modAxes a f).lastChange = s.lastChange := rfl
@[simp] theorem State.modAxes_rack (a : Arm) (f : AxisUnit → AxisUnit) : (s.modAxes a f).rack = s.rack := rfl
@[simp] theorem State.modAxes_capture (a : Arm) (f : AxisUnit → AxisUnit) : (s.modAxes a f).capture = s.capture := rfl

/-! modCapture -/

@[simp] theorem State.modCapture_pending (a : Arm) (f : Capture → Capture) : (s.modCapture a f).pending = s.pending := rfl
@[simp] theorem State.modCapture_choices (a : Arm) (f : Capture → Capture) : (s.modCapture a f).choices = s.choices := rfl
@[simp] theorem State.modCapture_startup (a : Arm) (f : Capture → Capture) : (s.modCapture a f).startup = s.startup := rfl
@[simp] theorem State.modCapture_loading (a : Arm) (f : Capture → Capture) : (s.modCapture a f).loading = s.loading := rfl
@[simp] theorem State.modCapture_loadFaults (a : Arm) (f : Capture → Capture) : (s.modCapture a f).loadFaults = s.loadFaults := rfl
@[simp] theorem State.modCapture_save (a : Arm) (f : Capture → Capture) : (s.modCapture a f).save = s.save := rfl
@[simp] theorem State.modCapture_settings (a : Arm) (f : Capture → Capture) : (s.modCapture a f).settings = s.settings := rfl
@[simp] theorem State.modCapture_links (a : Arm) (f : Capture → Capture) : (s.modCapture a f).links = s.links := rfl
@[simp] theorem State.modCapture_trap (a : Arm) (f : Capture → Capture) : (s.modCapture a f).trap = s.trap := rfl
@[simp] theorem State.modCapture_faultCount (a : Arm) (f : Capture → Capture) : (s.modCapture a f).faultCount = s.faultCount := rfl
@[simp] theorem State.modCapture_channels (a : Arm) (f : Capture → Capture) : (s.modCapture a f).channels = s.channels := rfl
@[simp] theorem State.modCapture_scanList (a : Arm) (f : Capture → Capture) : (s.modCapture a f).scanList = s.scanList := rfl
@[simp] theorem State.modCapture_scanInterval (a : Arm) (f : Capture → Capture) : (s.modCapture a f).scanInterval = s.scanInterval := rfl
@[simp] theorem State.modCapture_pass (a : Arm) (f : Capture → Capture) : (s.modCapture a f).pass = s.pass := rfl
@[simp] theorem State.modCapture_workpiece (a : Arm) (f : Capture → Capture) : (s.modCapture a f).workpiece = s.workpiece := rfl
@[simp] theorem State.modCapture_snapshot (a : Arm) (f : Capture → Capture) : (s.modCapture a f).snapshot = s.snapshot := rfl
@[simp] theorem State.modCapture_timers (a : Arm) (f : Capture → Capture) : (s.modCapture a f).timers = s.timers := rfl
@[simp] theorem State.modCapture_scanTimer (a : Arm) (f : Capture → Capture) : (s.modCapture a f).scanTimer = s.scanTimer := rfl
@[simp] theorem State.modCapture_scanSync (a : Arm) (f : Capture → Capture) : (s.modCapture a f).scanSync = s.scanSync := rfl
@[simp] theorem State.modCapture_cal (a : Arm) (f : Capture → Capture) : (s.modCapture a f).cal = s.cal := rfl
@[simp] theorem State.modCapture_axes (a : Arm) (f : Capture → Capture) : (s.modCapture a f).axes = s.axes := rfl
@[simp] theorem State.modCapture_motion (a : Arm) (f : Capture → Capture) : (s.modCapture a f).motion = s.motion := rfl
@[simp] theorem State.modCapture_zones (a : Arm) (f : Capture → Capture) : (s.modCapture a f).zones = s.zones := rfl
@[simp] theorem State.modCapture_holders (a : Arm) (f : Capture → Capture) : (s.modCapture a f).holders = s.holders := rfl
@[simp] theorem State.modCapture_standing (a : Arm) (f : Capture → Capture) : (s.modCapture a f).standing = s.standing := rfl
@[simp] theorem State.modCapture_deferred (a : Arm) (f : Capture → Capture) : (s.modCapture a f).deferred = s.deferred := rfl
@[simp] theorem State.modCapture_linger (a : Arm) (f : Capture → Capture) : (s.modCapture a f).linger = s.linger := rfl
@[simp] theorem State.modCapture_waiters (a : Arm) (f : Capture → Capture) : (s.modCapture a f).waiters = s.waiters := rfl
@[simp] theorem State.modCapture_handover (a : Arm) (f : Capture → Capture) : (s.modCapture a f).handover = s.handover := rfl
@[simp] theorem State.modCapture_probes (a : Arm) (f : Capture → Capture) : (s.modCapture a f).probes = s.probes := rfl
@[simp] theorem State.modCapture_pockets (a : Arm) (f : Capture → Capture) : (s.modCapture a f).pockets = s.pockets := rfl
@[simp] theorem State.modCapture_unknown (a : Arm) (f : Capture → Capture) : (s.modCapture a f).unknown = s.unknown := rfl
@[simp] theorem State.modCapture_freeze (a : Arm) (f : Capture → Capture) : (s.modCapture a f).freeze = s.freeze := rfl
@[simp] theorem State.modCapture_readers (a : Arm) (f : Capture → Capture) : (s.modCapture a f).readers = s.readers := rfl
@[simp] theorem State.modCapture_inventory (a : Arm) (f : Capture → Capture) : (s.modCapture a f).inventory = s.inventory := rfl
@[simp] theorem State.modCapture_change (a : Arm) (f : Capture → Capture) : (s.modCapture a f).change = s.change := rfl
@[simp] theorem State.modCapture_lastChange (a : Arm) (f : Capture → Capture) : (s.modCapture a f).lastChange = s.lastChange := rfl
@[simp] theorem State.modCapture_rack (a : Arm) (f : Capture → Capture) : (s.modCapture a f).rack = s.rack := rfl
@[simp] theorem State.modCapture_capture (a : Arm) (f : Capture → Capture) : (s.modCapture a f).capture = s.capture.set a (f (s.capture.get a)) := rfl

/-! modTimer -/

@[simp] theorem State.modTimer_pending (a : Arm) (f : SetpointTimer → SetpointTimer) : (s.modTimer a f).pending = s.pending := rfl
@[simp] theorem State.modTimer_choices (a : Arm) (f : SetpointTimer → SetpointTimer) : (s.modTimer a f).choices = s.choices := rfl
@[simp] theorem State.modTimer_startup (a : Arm) (f : SetpointTimer → SetpointTimer) : (s.modTimer a f).startup = s.startup := rfl
@[simp] theorem State.modTimer_loading (a : Arm) (f : SetpointTimer → SetpointTimer) : (s.modTimer a f).loading = s.loading := rfl
@[simp] theorem State.modTimer_loadFaults (a : Arm) (f : SetpointTimer → SetpointTimer) : (s.modTimer a f).loadFaults = s.loadFaults := rfl
@[simp] theorem State.modTimer_save (a : Arm) (f : SetpointTimer → SetpointTimer) : (s.modTimer a f).save = s.save := rfl
@[simp] theorem State.modTimer_settings (a : Arm) (f : SetpointTimer → SetpointTimer) : (s.modTimer a f).settings = s.settings := rfl
@[simp] theorem State.modTimer_links (a : Arm) (f : SetpointTimer → SetpointTimer) : (s.modTimer a f).links = s.links := rfl
@[simp] theorem State.modTimer_trap (a : Arm) (f : SetpointTimer → SetpointTimer) : (s.modTimer a f).trap = s.trap := rfl
@[simp] theorem State.modTimer_faultCount (a : Arm) (f : SetpointTimer → SetpointTimer) : (s.modTimer a f).faultCount = s.faultCount := rfl
@[simp] theorem State.modTimer_channels (a : Arm) (f : SetpointTimer → SetpointTimer) : (s.modTimer a f).channels = s.channels := rfl
@[simp] theorem State.modTimer_scanList (a : Arm) (f : SetpointTimer → SetpointTimer) : (s.modTimer a f).scanList = s.scanList := rfl
@[simp] theorem State.modTimer_scanInterval (a : Arm) (f : SetpointTimer → SetpointTimer) : (s.modTimer a f).scanInterval = s.scanInterval := rfl
@[simp] theorem State.modTimer_pass (a : Arm) (f : SetpointTimer → SetpointTimer) : (s.modTimer a f).pass = s.pass := rfl
@[simp] theorem State.modTimer_workpiece (a : Arm) (f : SetpointTimer → SetpointTimer) : (s.modTimer a f).workpiece = s.workpiece := rfl
@[simp] theorem State.modTimer_snapshot (a : Arm) (f : SetpointTimer → SetpointTimer) : (s.modTimer a f).snapshot = s.snapshot := rfl
@[simp] theorem State.modTimer_timers (a : Arm) (f : SetpointTimer → SetpointTimer) : (s.modTimer a f).timers = s.timers.set a (f (s.timers.get a)) := rfl
@[simp] theorem State.modTimer_scanTimer (a : Arm) (f : SetpointTimer → SetpointTimer) : (s.modTimer a f).scanTimer = s.scanTimer := rfl
@[simp] theorem State.modTimer_scanSync (a : Arm) (f : SetpointTimer → SetpointTimer) : (s.modTimer a f).scanSync = s.scanSync := rfl
@[simp] theorem State.modTimer_cal (a : Arm) (f : SetpointTimer → SetpointTimer) : (s.modTimer a f).cal = s.cal := rfl
@[simp] theorem State.modTimer_axes (a : Arm) (f : SetpointTimer → SetpointTimer) : (s.modTimer a f).axes = s.axes := rfl
@[simp] theorem State.modTimer_motion (a : Arm) (f : SetpointTimer → SetpointTimer) : (s.modTimer a f).motion = s.motion := rfl
@[simp] theorem State.modTimer_zones (a : Arm) (f : SetpointTimer → SetpointTimer) : (s.modTimer a f).zones = s.zones := rfl
@[simp] theorem State.modTimer_holders (a : Arm) (f : SetpointTimer → SetpointTimer) : (s.modTimer a f).holders = s.holders := rfl
@[simp] theorem State.modTimer_standing (a : Arm) (f : SetpointTimer → SetpointTimer) : (s.modTimer a f).standing = s.standing := rfl
@[simp] theorem State.modTimer_deferred (a : Arm) (f : SetpointTimer → SetpointTimer) : (s.modTimer a f).deferred = s.deferred := rfl
@[simp] theorem State.modTimer_linger (a : Arm) (f : SetpointTimer → SetpointTimer) : (s.modTimer a f).linger = s.linger := rfl
@[simp] theorem State.modTimer_waiters (a : Arm) (f : SetpointTimer → SetpointTimer) : (s.modTimer a f).waiters = s.waiters := rfl
@[simp] theorem State.modTimer_handover (a : Arm) (f : SetpointTimer → SetpointTimer) : (s.modTimer a f).handover = s.handover := rfl
@[simp] theorem State.modTimer_probes (a : Arm) (f : SetpointTimer → SetpointTimer) : (s.modTimer a f).probes = s.probes := rfl
@[simp] theorem State.modTimer_pockets (a : Arm) (f : SetpointTimer → SetpointTimer) : (s.modTimer a f).pockets = s.pockets := rfl
@[simp] theorem State.modTimer_unknown (a : Arm) (f : SetpointTimer → SetpointTimer) : (s.modTimer a f).unknown = s.unknown := rfl
@[simp] theorem State.modTimer_freeze (a : Arm) (f : SetpointTimer → SetpointTimer) : (s.modTimer a f).freeze = s.freeze := rfl
@[simp] theorem State.modTimer_readers (a : Arm) (f : SetpointTimer → SetpointTimer) : (s.modTimer a f).readers = s.readers := rfl
@[simp] theorem State.modTimer_inventory (a : Arm) (f : SetpointTimer → SetpointTimer) : (s.modTimer a f).inventory = s.inventory := rfl
@[simp] theorem State.modTimer_change (a : Arm) (f : SetpointTimer → SetpointTimer) : (s.modTimer a f).change = s.change := rfl
@[simp] theorem State.modTimer_lastChange (a : Arm) (f : SetpointTimer → SetpointTimer) : (s.modTimer a f).lastChange = s.lastChange := rfl
@[simp] theorem State.modTimer_rack (a : Arm) (f : SetpointTimer → SetpointTimer) : (s.modTimer a f).rack = s.rack := rfl
@[simp] theorem State.modTimer_capture (a : Arm) (f : SetpointTimer → SetpointTimer) : (s.modTimer a f).capture = s.capture := rfl

/-! modRack -/

@[simp] theorem State.modRack_pending (f : Rack → Rack) : (s.modRack f).pending = s.pending := rfl
@[simp] theorem State.modRack_choices (f : Rack → Rack) : (s.modRack f).choices = s.choices := rfl
@[simp] theorem State.modRack_startup (f : Rack → Rack) : (s.modRack f).startup = s.startup := rfl
@[simp] theorem State.modRack_loading (f : Rack → Rack) : (s.modRack f).loading = s.loading := rfl
@[simp] theorem State.modRack_loadFaults (f : Rack → Rack) : (s.modRack f).loadFaults = s.loadFaults := rfl
@[simp] theorem State.modRack_save (f : Rack → Rack) : (s.modRack f).save = s.save := rfl
@[simp] theorem State.modRack_settings (f : Rack → Rack) : (s.modRack f).settings = s.settings := rfl
@[simp] theorem State.modRack_links (f : Rack → Rack) : (s.modRack f).links = s.links := rfl
@[simp] theorem State.modRack_trap (f : Rack → Rack) : (s.modRack f).trap = s.trap := rfl
@[simp] theorem State.modRack_faultCount (f : Rack → Rack) : (s.modRack f).faultCount = s.faultCount := rfl
@[simp] theorem State.modRack_channels (f : Rack → Rack) : (s.modRack f).channels = s.channels := rfl
@[simp] theorem State.modRack_scanList (f : Rack → Rack) : (s.modRack f).scanList = s.scanList := rfl
@[simp] theorem State.modRack_scanInterval (f : Rack → Rack) : (s.modRack f).scanInterval = s.scanInterval := rfl
@[simp] theorem State.modRack_pass (f : Rack → Rack) : (s.modRack f).pass = s.pass := rfl
@[simp] theorem State.modRack_workpiece (f : Rack → Rack) : (s.modRack f).workpiece = s.workpiece := rfl
@[simp] theorem State.modRack_snapshot (f : Rack → Rack) : (s.modRack f).snapshot = s.snapshot := rfl
@[simp] theorem State.modRack_timers (f : Rack → Rack) : (s.modRack f).timers = s.timers := rfl
@[simp] theorem State.modRack_scanTimer (f : Rack → Rack) : (s.modRack f).scanTimer = s.scanTimer := rfl
@[simp] theorem State.modRack_scanSync (f : Rack → Rack) : (s.modRack f).scanSync = s.scanSync := rfl
@[simp] theorem State.modRack_cal (f : Rack → Rack) : (s.modRack f).cal = s.cal := rfl
@[simp] theorem State.modRack_axes (f : Rack → Rack) : (s.modRack f).axes = s.axes := rfl
@[simp] theorem State.modRack_motion (f : Rack → Rack) : (s.modRack f).motion = s.motion := rfl
@[simp] theorem State.modRack_zones (f : Rack → Rack) : (s.modRack f).zones = s.zones := rfl
@[simp] theorem State.modRack_holders (f : Rack → Rack) : (s.modRack f).holders = s.holders := rfl
@[simp] theorem State.modRack_standing (f : Rack → Rack) : (s.modRack f).standing = s.standing := rfl
@[simp] theorem State.modRack_deferred (f : Rack → Rack) : (s.modRack f).deferred = s.deferred := rfl
@[simp] theorem State.modRack_linger (f : Rack → Rack) : (s.modRack f).linger = s.linger := rfl
@[simp] theorem State.modRack_waiters (f : Rack → Rack) : (s.modRack f).waiters = s.waiters := rfl
@[simp] theorem State.modRack_handover (f : Rack → Rack) : (s.modRack f).handover = s.handover := rfl
@[simp] theorem State.modRack_probes (f : Rack → Rack) : (s.modRack f).probes = s.probes := rfl
@[simp] theorem State.modRack_pockets (f : Rack → Rack) : (s.modRack f).pockets = s.pockets := rfl
@[simp] theorem State.modRack_unknown (f : Rack → Rack) : (s.modRack f).unknown = s.unknown := rfl
@[simp] theorem State.modRack_freeze (f : Rack → Rack) : (s.modRack f).freeze = s.freeze := rfl
@[simp] theorem State.modRack_readers (f : Rack → Rack) : (s.modRack f).readers = s.readers := rfl
@[simp] theorem State.modRack_inventory (f : Rack → Rack) : (s.modRack f).inventory = s.inventory := rfl
@[simp] theorem State.modRack_change (f : Rack → Rack) : (s.modRack f).change = s.change := rfl
@[simp] theorem State.modRack_lastChange (f : Rack → Rack) : (s.modRack f).lastChange = s.lastChange := rfl
@[simp] theorem State.modRack_rack (f : Rack → Rack) : (s.modRack f).rack = f s.rack := rfl
@[simp] theorem State.modRack_capture (f : Rack → Rack) : (s.modRack f).capture = s.capture := rfl

/-! setContext -/

@[simp] theorem State.setContext_pending (a : Arm) (c : Option Context) : (s.setContext a c).pending = s.pending := rfl
@[simp] theorem State.setContext_choices (a : Arm) (c : Option Context) : (s.setContext a c).choices = s.choices := rfl
@[simp] theorem State.setContext_startup (a : Arm) (c : Option Context) : (s.setContext a c).startup = s.startup := rfl
@[simp] theorem State.setContext_loading (a : Arm) (c : Option Context) : (s.setContext a c).loading = s.loading := rfl
@[simp] theorem State.setContext_loadFaults (a : Arm) (c : Option Context) : (s.setContext a c).loadFaults = s.loadFaults := rfl
@[simp] theorem State.setContext_save (a : Arm) (c : Option Context) : (s.setContext a c).save = s.save := rfl
@[simp] theorem State.setContext_settings (a : Arm) (c : Option Context) : (s.setContext a c).settings = s.settings := rfl
@[simp] theorem State.setContext_links (a : Arm) (c : Option Context) : (s.setContext a c).links = s.links := rfl
@[simp] theorem State.setContext_trap (a : Arm) (c : Option Context) : (s.setContext a c).trap = s.trap := rfl
@[simp] theorem State.setContext_faultCount (a : Arm) (c : Option Context) : (s.setContext a c).faultCount = s.faultCount := rfl
@[simp] theorem State.setContext_channels (a : Arm) (c : Option Context) : (s.setContext a c).channels = s.channels := rfl
@[simp] theorem State.setContext_scanList (a : Arm) (c : Option Context) : (s.setContext a c).scanList = s.scanList := rfl
@[simp] theorem State.setContext_scanInterval (a : Arm) (c : Option Context) : (s.setContext a c).scanInterval = s.scanInterval := rfl
@[simp] theorem State.setContext_pass (a : Arm) (c : Option Context) : (s.setContext a c).pass = s.pass := rfl
@[simp] theorem State.setContext_workpiece (a : Arm) (c : Option Context) : (s.setContext a c).workpiece = s.workpiece := rfl
@[simp] theorem State.setContext_snapshot (a : Arm) (c : Option Context) : (s.setContext a c).snapshot = s.snapshot := rfl
@[simp] theorem State.setContext_timers (a : Arm) (c : Option Context) : (s.setContext a c).timers = s.timers := rfl
@[simp] theorem State.setContext_scanTimer (a : Arm) (c : Option Context) : (s.setContext a c).scanTimer = s.scanTimer := rfl
@[simp] theorem State.setContext_scanSync (a : Arm) (c : Option Context) : (s.setContext a c).scanSync = s.scanSync := rfl
@[simp] theorem State.setContext_cal (a : Arm) (c : Option Context) : (s.setContext a c).cal = s.cal := rfl
@[simp] theorem State.setContext_axes (a : Arm) (c : Option Context) : (s.setContext a c).axes = s.axes := rfl
@[simp] theorem State.setContext_motion (a : Arm) (c : Option Context) : (s.setContext a c).motion = s.motion := rfl
@[simp] theorem State.setContext_zones (a : Arm) (c : Option Context) : (s.setContext a c).zones = s.zones := rfl
@[simp] theorem State.setContext_holders (a : Arm) (c : Option Context) : (s.setContext a c).holders = s.holders := rfl
@[simp] theorem State.setContext_standing (a : Arm) (c : Option Context) : (s.setContext a c).standing = s.standing := rfl
@[simp] theorem State.setContext_deferred (a : Arm) (c : Option Context) : (s.setContext a c).deferred = s.deferred := rfl
@[simp] theorem State.setContext_linger (a : Arm) (c : Option Context) : (s.setContext a c).linger = s.linger := rfl
@[simp] theorem State.setContext_waiters (a : Arm) (c : Option Context) : (s.setContext a c).waiters = s.waiters := rfl
@[simp] theorem State.setContext_handover (a : Arm) (c : Option Context) : (s.setContext a c).handover = s.handover := rfl
@[simp] theorem State.setContext_probes (a : Arm) (c : Option Context) : (s.setContext a c).probes = s.probes := rfl
@[simp] theorem State.setContext_pockets (a : Arm) (c : Option Context) : (s.setContext a c).pockets = s.pockets := rfl
@[simp] theorem State.setContext_unknown (a : Arm) (c : Option Context) : (s.setContext a c).unknown = s.unknown := rfl
@[simp] theorem State.setContext_freeze (a : Arm) (c : Option Context) : (s.setContext a c).freeze = s.freeze := rfl
@[simp] theorem State.setContext_readers (a : Arm) (c : Option Context) : (s.setContext a c).readers = s.readers := rfl
@[simp] theorem State.setContext_inventory (a : Arm) (c : Option Context) : (s.setContext a c).inventory = s.inventory := rfl
@[simp] theorem State.setContext_change (a : Arm) (c : Option Context) : (s.setContext a c).change = s.change.set a c := rfl
@[simp] theorem State.setContext_lastChange (a : Arm) (c : Option Context) : (s.setContext a c).lastChange = s.lastChange := rfl
@[simp] theorem State.setContext_rack (a : Arm) (c : Option Context) : (s.setContext a c).rack = s.rack := rfl
@[simp] theorem State.setContext_capture (a : Arm) (c : Option Context) : (s.setContext a c).capture = s.capture := rfl

/-! setProbe -/

@[simp] theorem State.setProbe_pending (n : Slot) (p : Option Probe) : (s.setProbe n p).pending = s.pending := rfl
@[simp] theorem State.setProbe_choices (n : Slot) (p : Option Probe) : (s.setProbe n p).choices = s.choices := rfl
@[simp] theorem State.setProbe_startup (n : Slot) (p : Option Probe) : (s.setProbe n p).startup = s.startup := rfl
@[simp] theorem State.setProbe_loading (n : Slot) (p : Option Probe) : (s.setProbe n p).loading = s.loading := rfl
@[simp] theorem State.setProbe_loadFaults (n : Slot) (p : Option Probe) : (s.setProbe n p).loadFaults = s.loadFaults := rfl
@[simp] theorem State.setProbe_save (n : Slot) (p : Option Probe) : (s.setProbe n p).save = s.save := rfl
@[simp] theorem State.setProbe_settings (n : Slot) (p : Option Probe) : (s.setProbe n p).settings = s.settings := rfl
@[simp] theorem State.setProbe_links (n : Slot) (p : Option Probe) : (s.setProbe n p).links = s.links := rfl
@[simp] theorem State.setProbe_trap (n : Slot) (p : Option Probe) : (s.setProbe n p).trap = s.trap := rfl
@[simp] theorem State.setProbe_faultCount (n : Slot) (p : Option Probe) : (s.setProbe n p).faultCount = s.faultCount := rfl
@[simp] theorem State.setProbe_channels (n : Slot) (p : Option Probe) : (s.setProbe n p).channels = s.channels := rfl
@[simp] theorem State.setProbe_scanList (n : Slot) (p : Option Probe) : (s.setProbe n p).scanList = s.scanList := rfl
@[simp] theorem State.setProbe_scanInterval (n : Slot) (p : Option Probe) : (s.setProbe n p).scanInterval = s.scanInterval := rfl
@[simp] theorem State.setProbe_pass (n : Slot) (p : Option Probe) : (s.setProbe n p).pass = s.pass := rfl
@[simp] theorem State.setProbe_workpiece (n : Slot) (p : Option Probe) : (s.setProbe n p).workpiece = s.workpiece := rfl
@[simp] theorem State.setProbe_snapshot (n : Slot) (p : Option Probe) : (s.setProbe n p).snapshot = s.snapshot := rfl
@[simp] theorem State.setProbe_timers (n : Slot) (p : Option Probe) : (s.setProbe n p).timers = s.timers := rfl
@[simp] theorem State.setProbe_scanTimer (n : Slot) (p : Option Probe) : (s.setProbe n p).scanTimer = s.scanTimer := rfl
@[simp] theorem State.setProbe_scanSync (n : Slot) (p : Option Probe) : (s.setProbe n p).scanSync = s.scanSync := rfl
@[simp] theorem State.setProbe_cal (n : Slot) (p : Option Probe) : (s.setProbe n p).cal = s.cal := rfl
@[simp] theorem State.setProbe_axes (n : Slot) (p : Option Probe) : (s.setProbe n p).axes = s.axes := rfl
@[simp] theorem State.setProbe_motion (n : Slot) (p : Option Probe) : (s.setProbe n p).motion = s.motion := rfl
@[simp] theorem State.setProbe_zones (n : Slot) (p : Option Probe) : (s.setProbe n p).zones = s.zones := rfl
@[simp] theorem State.setProbe_holders (n : Slot) (p : Option Probe) : (s.setProbe n p).holders = s.holders := rfl
@[simp] theorem State.setProbe_standing (n : Slot) (p : Option Probe) : (s.setProbe n p).standing = s.standing := rfl
@[simp] theorem State.setProbe_deferred (n : Slot) (p : Option Probe) : (s.setProbe n p).deferred = s.deferred := rfl
@[simp] theorem State.setProbe_linger (n : Slot) (p : Option Probe) : (s.setProbe n p).linger = s.linger := rfl
@[simp] theorem State.setProbe_waiters (n : Slot) (p : Option Probe) : (s.setProbe n p).waiters = s.waiters := rfl
@[simp] theorem State.setProbe_handover (n : Slot) (p : Option Probe) : (s.setProbe n p).handover = s.handover := rfl
@[simp] theorem State.setProbe_probes (n : Slot) (p : Option Probe) : (s.setProbe n p).probes = Table.put s.probes n p := rfl
@[simp] theorem State.setProbe_pockets (n : Slot) (p : Option Probe) : (s.setProbe n p).pockets = s.pockets := rfl
@[simp] theorem State.setProbe_unknown (n : Slot) (p : Option Probe) : (s.setProbe n p).unknown = s.unknown := rfl
@[simp] theorem State.setProbe_freeze (n : Slot) (p : Option Probe) : (s.setProbe n p).freeze = s.freeze := rfl
@[simp] theorem State.setProbe_readers (n : Slot) (p : Option Probe) : (s.setProbe n p).readers = s.readers := rfl
@[simp] theorem State.setProbe_inventory (n : Slot) (p : Option Probe) : (s.setProbe n p).inventory = s.inventory := rfl
@[simp] theorem State.setProbe_change (n : Slot) (p : Option Probe) : (s.setProbe n p).change = s.change := rfl
@[simp] theorem State.setProbe_lastChange (n : Slot) (p : Option Probe) : (s.setProbe n p).lastChange = s.lastChange := rfl
@[simp] theorem State.setProbe_rack (n : Slot) (p : Option Probe) : (s.setProbe n p).rack = s.rack := rfl
@[simp] theorem State.setProbe_capture (n : Slot) (p : Option Probe) : (s.setProbe n p).capture = s.capture := rfl

/-! modPocket -/

@[simp] theorem State.modPocket_pending (p : PocketId) (f : Pocket → Pocket) : (s.modPocket p f).pending = s.pending := rfl
@[simp] theorem State.modPocket_choices (p : PocketId) (f : Pocket → Pocket) : (s.modPocket p f).choices = s.choices := rfl
@[simp] theorem State.modPocket_startup (p : PocketId) (f : Pocket → Pocket) : (s.modPocket p f).startup = s.startup := rfl
@[simp] theorem State.modPocket_loading (p : PocketId) (f : Pocket → Pocket) : (s.modPocket p f).loading = s.loading := rfl
@[simp] theorem State.modPocket_loadFaults (p : PocketId) (f : Pocket → Pocket) : (s.modPocket p f).loadFaults = s.loadFaults := rfl
@[simp] theorem State.modPocket_save (p : PocketId) (f : Pocket → Pocket) : (s.modPocket p f).save = s.save := rfl
@[simp] theorem State.modPocket_settings (p : PocketId) (f : Pocket → Pocket) : (s.modPocket p f).settings = s.settings := rfl
@[simp] theorem State.modPocket_links (p : PocketId) (f : Pocket → Pocket) : (s.modPocket p f).links = s.links := rfl
@[simp] theorem State.modPocket_trap (p : PocketId) (f : Pocket → Pocket) : (s.modPocket p f).trap = s.trap := rfl
@[simp] theorem State.modPocket_faultCount (p : PocketId) (f : Pocket → Pocket) : (s.modPocket p f).faultCount = s.faultCount := rfl
@[simp] theorem State.modPocket_channels (p : PocketId) (f : Pocket → Pocket) : (s.modPocket p f).channels = s.channels := rfl
@[simp] theorem State.modPocket_scanList (p : PocketId) (f : Pocket → Pocket) : (s.modPocket p f).scanList = s.scanList := rfl
@[simp] theorem State.modPocket_scanInterval (p : PocketId) (f : Pocket → Pocket) : (s.modPocket p f).scanInterval = s.scanInterval := rfl
@[simp] theorem State.modPocket_pass (p : PocketId) (f : Pocket → Pocket) : (s.modPocket p f).pass = s.pass := rfl
@[simp] theorem State.modPocket_workpiece (p : PocketId) (f : Pocket → Pocket) : (s.modPocket p f).workpiece = s.workpiece := rfl
@[simp] theorem State.modPocket_snapshot (p : PocketId) (f : Pocket → Pocket) : (s.modPocket p f).snapshot = s.snapshot := rfl
@[simp] theorem State.modPocket_timers (p : PocketId) (f : Pocket → Pocket) : (s.modPocket p f).timers = s.timers := rfl
@[simp] theorem State.modPocket_scanTimer (p : PocketId) (f : Pocket → Pocket) : (s.modPocket p f).scanTimer = s.scanTimer := rfl
@[simp] theorem State.modPocket_scanSync (p : PocketId) (f : Pocket → Pocket) : (s.modPocket p f).scanSync = s.scanSync := rfl
@[simp] theorem State.modPocket_cal (p : PocketId) (f : Pocket → Pocket) : (s.modPocket p f).cal = s.cal := rfl
@[simp] theorem State.modPocket_axes (p : PocketId) (f : Pocket → Pocket) : (s.modPocket p f).axes = s.axes := rfl
@[simp] theorem State.modPocket_motion (p : PocketId) (f : Pocket → Pocket) : (s.modPocket p f).motion = s.motion := rfl
@[simp] theorem State.modPocket_zones (p : PocketId) (f : Pocket → Pocket) : (s.modPocket p f).zones = s.zones := rfl
@[simp] theorem State.modPocket_holders (p : PocketId) (f : Pocket → Pocket) : (s.modPocket p f).holders = s.holders := rfl
@[simp] theorem State.modPocket_standing (p : PocketId) (f : Pocket → Pocket) : (s.modPocket p f).standing = s.standing := rfl
@[simp] theorem State.modPocket_deferred (p : PocketId) (f : Pocket → Pocket) : (s.modPocket p f).deferred = s.deferred := rfl
@[simp] theorem State.modPocket_linger (p : PocketId) (f : Pocket → Pocket) : (s.modPocket p f).linger = s.linger := rfl
@[simp] theorem State.modPocket_waiters (p : PocketId) (f : Pocket → Pocket) : (s.modPocket p f).waiters = s.waiters := rfl
@[simp] theorem State.modPocket_handover (p : PocketId) (f : Pocket → Pocket) : (s.modPocket p f).handover = s.handover := rfl
@[simp] theorem State.modPocket_probes (p : PocketId) (f : Pocket → Pocket) : (s.modPocket p f).probes = s.probes := rfl
@[simp] theorem State.modPocket_pockets (p : PocketId) (f : Pocket → Pocket) : (s.modPocket p f).pockets = Table.put s.pockets p (f (s.pockets.get p)) := rfl
@[simp] theorem State.modPocket_unknown (p : PocketId) (f : Pocket → Pocket) : (s.modPocket p f).unknown = s.unknown := rfl
@[simp] theorem State.modPocket_freeze (p : PocketId) (f : Pocket → Pocket) : (s.modPocket p f).freeze = s.freeze := rfl
@[simp] theorem State.modPocket_readers (p : PocketId) (f : Pocket → Pocket) : (s.modPocket p f).readers = s.readers := rfl
@[simp] theorem State.modPocket_inventory (p : PocketId) (f : Pocket → Pocket) : (s.modPocket p f).inventory = s.inventory := rfl
@[simp] theorem State.modPocket_change (p : PocketId) (f : Pocket → Pocket) : (s.modPocket p f).change = s.change := rfl
@[simp] theorem State.modPocket_lastChange (p : PocketId) (f : Pocket → Pocket) : (s.modPocket p f).lastChange = s.lastChange := rfl
@[simp] theorem State.modPocket_rack (p : PocketId) (f : Pocket → Pocket) : (s.modPocket p f).rack = s.rack := rfl
@[simp] theorem State.modPocket_capture (p : PocketId) (f : Pocket → Pocket) : (s.modPocket p f).capture = s.capture := rfl

/-! setHolder -/

@[simp] theorem State.setHolder_pending (z : ZoneId) (h : Option (Arm × HoldWhy)) : (s.setHolder z h).pending = s.pending := rfl
@[simp] theorem State.setHolder_choices (z : ZoneId) (h : Option (Arm × HoldWhy)) : (s.setHolder z h).choices = s.choices := rfl
@[simp] theorem State.setHolder_startup (z : ZoneId) (h : Option (Arm × HoldWhy)) : (s.setHolder z h).startup = s.startup := rfl
@[simp] theorem State.setHolder_loading (z : ZoneId) (h : Option (Arm × HoldWhy)) : (s.setHolder z h).loading = s.loading := rfl
@[simp] theorem State.setHolder_loadFaults (z : ZoneId) (h : Option (Arm × HoldWhy)) : (s.setHolder z h).loadFaults = s.loadFaults := rfl
@[simp] theorem State.setHolder_save (z : ZoneId) (h : Option (Arm × HoldWhy)) : (s.setHolder z h).save = s.save := rfl
@[simp] theorem State.setHolder_settings (z : ZoneId) (h : Option (Arm × HoldWhy)) : (s.setHolder z h).settings = s.settings := rfl
@[simp] theorem State.setHolder_links (z : ZoneId) (h : Option (Arm × HoldWhy)) : (s.setHolder z h).links = s.links := rfl
@[simp] theorem State.setHolder_trap (z : ZoneId) (h : Option (Arm × HoldWhy)) : (s.setHolder z h).trap = s.trap := rfl
@[simp] theorem State.setHolder_faultCount (z : ZoneId) (h : Option (Arm × HoldWhy)) : (s.setHolder z h).faultCount = s.faultCount := rfl
@[simp] theorem State.setHolder_channels (z : ZoneId) (h : Option (Arm × HoldWhy)) : (s.setHolder z h).channels = s.channels := rfl
@[simp] theorem State.setHolder_scanList (z : ZoneId) (h : Option (Arm × HoldWhy)) : (s.setHolder z h).scanList = s.scanList := rfl
@[simp] theorem State.setHolder_scanInterval (z : ZoneId) (h : Option (Arm × HoldWhy)) : (s.setHolder z h).scanInterval = s.scanInterval := rfl
@[simp] theorem State.setHolder_pass (z : ZoneId) (h : Option (Arm × HoldWhy)) : (s.setHolder z h).pass = s.pass := rfl
@[simp] theorem State.setHolder_workpiece (z : ZoneId) (h : Option (Arm × HoldWhy)) : (s.setHolder z h).workpiece = s.workpiece := rfl
@[simp] theorem State.setHolder_snapshot (z : ZoneId) (h : Option (Arm × HoldWhy)) : (s.setHolder z h).snapshot = s.snapshot := rfl
@[simp] theorem State.setHolder_timers (z : ZoneId) (h : Option (Arm × HoldWhy)) : (s.setHolder z h).timers = s.timers := rfl
@[simp] theorem State.setHolder_scanTimer (z : ZoneId) (h : Option (Arm × HoldWhy)) : (s.setHolder z h).scanTimer = s.scanTimer := rfl
@[simp] theorem State.setHolder_scanSync (z : ZoneId) (h : Option (Arm × HoldWhy)) : (s.setHolder z h).scanSync = s.scanSync := rfl
@[simp] theorem State.setHolder_cal (z : ZoneId) (h : Option (Arm × HoldWhy)) : (s.setHolder z h).cal = s.cal := rfl
@[simp] theorem State.setHolder_axes (z : ZoneId) (h : Option (Arm × HoldWhy)) : (s.setHolder z h).axes = s.axes := rfl
@[simp] theorem State.setHolder_motion (z : ZoneId) (h : Option (Arm × HoldWhy)) : (s.setHolder z h).motion = s.motion := rfl
@[simp] theorem State.setHolder_zones (z : ZoneId) (h : Option (Arm × HoldWhy)) : (s.setHolder z h).zones = s.zones := rfl
@[simp] theorem State.setHolder_holders (z : ZoneId) (h : Option (Arm × HoldWhy)) : (s.setHolder z h).holders = Table.put s.holders z h := rfl
@[simp] theorem State.setHolder_standing (z : ZoneId) (h : Option (Arm × HoldWhy)) : (s.setHolder z h).standing = s.standing := rfl
@[simp] theorem State.setHolder_deferred (z : ZoneId) (h : Option (Arm × HoldWhy)) : (s.setHolder z h).deferred = s.deferred := rfl
@[simp] theorem State.setHolder_linger (z : ZoneId) (h : Option (Arm × HoldWhy)) : (s.setHolder z h).linger = s.linger := rfl
@[simp] theorem State.setHolder_waiters (z : ZoneId) (h : Option (Arm × HoldWhy)) : (s.setHolder z h).waiters = s.waiters := rfl
@[simp] theorem State.setHolder_handover (z : ZoneId) (h : Option (Arm × HoldWhy)) : (s.setHolder z h).handover = s.handover := rfl
@[simp] theorem State.setHolder_probes (z : ZoneId) (h : Option (Arm × HoldWhy)) : (s.setHolder z h).probes = s.probes := rfl
@[simp] theorem State.setHolder_pockets (z : ZoneId) (h : Option (Arm × HoldWhy)) : (s.setHolder z h).pockets = s.pockets := rfl
@[simp] theorem State.setHolder_unknown (z : ZoneId) (h : Option (Arm × HoldWhy)) : (s.setHolder z h).unknown = s.unknown := rfl
@[simp] theorem State.setHolder_freeze (z : ZoneId) (h : Option (Arm × HoldWhy)) : (s.setHolder z h).freeze = s.freeze := rfl
@[simp] theorem State.setHolder_readers (z : ZoneId) (h : Option (Arm × HoldWhy)) : (s.setHolder z h).readers = s.readers := rfl
@[simp] theorem State.setHolder_inventory (z : ZoneId) (h : Option (Arm × HoldWhy)) : (s.setHolder z h).inventory = s.inventory := rfl
@[simp] theorem State.setHolder_change (z : ZoneId) (h : Option (Arm × HoldWhy)) : (s.setHolder z h).change = s.change := rfl
@[simp] theorem State.setHolder_lastChange (z : ZoneId) (h : Option (Arm × HoldWhy)) : (s.setHolder z h).lastChange = s.lastChange := rfl
@[simp] theorem State.setHolder_rack (z : ZoneId) (h : Option (Arm × HoldWhy)) : (s.setHolder z h).rack = s.rack := rfl
@[simp] theorem State.setHolder_capture (z : ZoneId) (h : Option (Arm × HoldWhy)) : (s.setHolder z h).capture = s.capture := rfl

/-! setUnknown -/

@[simp] theorem State.setUnknown_pending (a : Arm) (v : Bool) : (s.setUnknown a v).pending = s.pending := rfl
@[simp] theorem State.setUnknown_choices (a : Arm) (v : Bool) : (s.setUnknown a v).choices = s.choices := rfl
@[simp] theorem State.setUnknown_startup (a : Arm) (v : Bool) : (s.setUnknown a v).startup = s.startup := rfl
@[simp] theorem State.setUnknown_loading (a : Arm) (v : Bool) : (s.setUnknown a v).loading = s.loading := rfl
@[simp] theorem State.setUnknown_loadFaults (a : Arm) (v : Bool) : (s.setUnknown a v).loadFaults = s.loadFaults := rfl
@[simp] theorem State.setUnknown_save (a : Arm) (v : Bool) : (s.setUnknown a v).save = s.save := rfl
@[simp] theorem State.setUnknown_settings (a : Arm) (v : Bool) : (s.setUnknown a v).settings = s.settings := rfl
@[simp] theorem State.setUnknown_links (a : Arm) (v : Bool) : (s.setUnknown a v).links = s.links := rfl
@[simp] theorem State.setUnknown_trap (a : Arm) (v : Bool) : (s.setUnknown a v).trap = s.trap := rfl
@[simp] theorem State.setUnknown_faultCount (a : Arm) (v : Bool) : (s.setUnknown a v).faultCount = s.faultCount := rfl
@[simp] theorem State.setUnknown_channels (a : Arm) (v : Bool) : (s.setUnknown a v).channels = s.channels := rfl
@[simp] theorem State.setUnknown_scanList (a : Arm) (v : Bool) : (s.setUnknown a v).scanList = s.scanList := rfl
@[simp] theorem State.setUnknown_scanInterval (a : Arm) (v : Bool) : (s.setUnknown a v).scanInterval = s.scanInterval := rfl
@[simp] theorem State.setUnknown_pass (a : Arm) (v : Bool) : (s.setUnknown a v).pass = s.pass := rfl
@[simp] theorem State.setUnknown_workpiece (a : Arm) (v : Bool) : (s.setUnknown a v).workpiece = s.workpiece := rfl
@[simp] theorem State.setUnknown_snapshot (a : Arm) (v : Bool) : (s.setUnknown a v).snapshot = s.snapshot := rfl
@[simp] theorem State.setUnknown_timers (a : Arm) (v : Bool) : (s.setUnknown a v).timers = s.timers := rfl
@[simp] theorem State.setUnknown_scanTimer (a : Arm) (v : Bool) : (s.setUnknown a v).scanTimer = s.scanTimer := rfl
@[simp] theorem State.setUnknown_scanSync (a : Arm) (v : Bool) : (s.setUnknown a v).scanSync = s.scanSync := rfl
@[simp] theorem State.setUnknown_cal (a : Arm) (v : Bool) : (s.setUnknown a v).cal = s.cal := rfl
@[simp] theorem State.setUnknown_axes (a : Arm) (v : Bool) : (s.setUnknown a v).axes = s.axes := rfl
@[simp] theorem State.setUnknown_motion (a : Arm) (v : Bool) : (s.setUnknown a v).motion = s.motion := rfl
@[simp] theorem State.setUnknown_zones (a : Arm) (v : Bool) : (s.setUnknown a v).zones = s.zones := rfl
@[simp] theorem State.setUnknown_holders (a : Arm) (v : Bool) : (s.setUnknown a v).holders = s.holders := rfl
@[simp] theorem State.setUnknown_standing (a : Arm) (v : Bool) : (s.setUnknown a v).standing = s.standing := rfl
@[simp] theorem State.setUnknown_deferred (a : Arm) (v : Bool) : (s.setUnknown a v).deferred = s.deferred := rfl
@[simp] theorem State.setUnknown_linger (a : Arm) (v : Bool) : (s.setUnknown a v).linger = s.linger := rfl
@[simp] theorem State.setUnknown_waiters (a : Arm) (v : Bool) : (s.setUnknown a v).waiters = s.waiters := rfl
@[simp] theorem State.setUnknown_handover (a : Arm) (v : Bool) : (s.setUnknown a v).handover = s.handover := rfl
@[simp] theorem State.setUnknown_probes (a : Arm) (v : Bool) : (s.setUnknown a v).probes = s.probes := rfl
@[simp] theorem State.setUnknown_pockets (a : Arm) (v : Bool) : (s.setUnknown a v).pockets = s.pockets := rfl
@[simp] theorem State.setUnknown_unknown (a : Arm) (v : Bool) : (s.setUnknown a v).unknown = s.unknown.set a v := rfl
@[simp] theorem State.setUnknown_freeze (a : Arm) (v : Bool) : (s.setUnknown a v).freeze = s.freeze := rfl
@[simp] theorem State.setUnknown_readers (a : Arm) (v : Bool) : (s.setUnknown a v).readers = s.readers := rfl
@[simp] theorem State.setUnknown_inventory (a : Arm) (v : Bool) : (s.setUnknown a v).inventory = s.inventory := rfl
@[simp] theorem State.setUnknown_change (a : Arm) (v : Bool) : (s.setUnknown a v).change = s.change := rfl
@[simp] theorem State.setUnknown_lastChange (a : Arm) (v : Bool) : (s.setUnknown a v).lastChange = s.lastChange := rfl
@[simp] theorem State.setUnknown_rack (a : Arm) (v : Bool) : (s.setUnknown a v).rack = s.rack := rfl
@[simp] theorem State.setUnknown_capture (a : Arm) (v : Bool) : (s.setUnknown a v).capture = s.capture := rfl

/-! modReader -/

@[simp] theorem State.modReader_pending (a : Arm) (f : Reader → Reader) : (s.modReader a f).pending = s.pending := rfl
@[simp] theorem State.modReader_choices (a : Arm) (f : Reader → Reader) : (s.modReader a f).choices = s.choices := rfl
@[simp] theorem State.modReader_startup (a : Arm) (f : Reader → Reader) : (s.modReader a f).startup = s.startup := rfl
@[simp] theorem State.modReader_loading (a : Arm) (f : Reader → Reader) : (s.modReader a f).loading = s.loading := rfl
@[simp] theorem State.modReader_loadFaults (a : Arm) (f : Reader → Reader) : (s.modReader a f).loadFaults = s.loadFaults := rfl
@[simp] theorem State.modReader_save (a : Arm) (f : Reader → Reader) : (s.modReader a f).save = s.save := rfl
@[simp] theorem State.modReader_settings (a : Arm) (f : Reader → Reader) : (s.modReader a f).settings = s.settings := rfl
@[simp] theorem State.modReader_links (a : Arm) (f : Reader → Reader) : (s.modReader a f).links = s.links := rfl
@[simp] theorem State.modReader_trap (a : Arm) (f : Reader → Reader) : (s.modReader a f).trap = s.trap := rfl
@[simp] theorem State.modReader_faultCount (a : Arm) (f : Reader → Reader) : (s.modReader a f).faultCount = s.faultCount := rfl
@[simp] theorem State.modReader_channels (a : Arm) (f : Reader → Reader) : (s.modReader a f).channels = s.channels := rfl
@[simp] theorem State.modReader_scanList (a : Arm) (f : Reader → Reader) : (s.modReader a f).scanList = s.scanList := rfl
@[simp] theorem State.modReader_scanInterval (a : Arm) (f : Reader → Reader) : (s.modReader a f).scanInterval = s.scanInterval := rfl
@[simp] theorem State.modReader_pass (a : Arm) (f : Reader → Reader) : (s.modReader a f).pass = s.pass := rfl
@[simp] theorem State.modReader_workpiece (a : Arm) (f : Reader → Reader) : (s.modReader a f).workpiece = s.workpiece := rfl
@[simp] theorem State.modReader_snapshot (a : Arm) (f : Reader → Reader) : (s.modReader a f).snapshot = s.snapshot := rfl
@[simp] theorem State.modReader_timers (a : Arm) (f : Reader → Reader) : (s.modReader a f).timers = s.timers := rfl
@[simp] theorem State.modReader_scanTimer (a : Arm) (f : Reader → Reader) : (s.modReader a f).scanTimer = s.scanTimer := rfl
@[simp] theorem State.modReader_scanSync (a : Arm) (f : Reader → Reader) : (s.modReader a f).scanSync = s.scanSync := rfl
@[simp] theorem State.modReader_cal (a : Arm) (f : Reader → Reader) : (s.modReader a f).cal = s.cal := rfl
@[simp] theorem State.modReader_axes (a : Arm) (f : Reader → Reader) : (s.modReader a f).axes = s.axes := rfl
@[simp] theorem State.modReader_motion (a : Arm) (f : Reader → Reader) : (s.modReader a f).motion = s.motion := rfl
@[simp] theorem State.modReader_zones (a : Arm) (f : Reader → Reader) : (s.modReader a f).zones = s.zones := rfl
@[simp] theorem State.modReader_holders (a : Arm) (f : Reader → Reader) : (s.modReader a f).holders = s.holders := rfl
@[simp] theorem State.modReader_standing (a : Arm) (f : Reader → Reader) : (s.modReader a f).standing = s.standing := rfl
@[simp] theorem State.modReader_deferred (a : Arm) (f : Reader → Reader) : (s.modReader a f).deferred = s.deferred := rfl
@[simp] theorem State.modReader_linger (a : Arm) (f : Reader → Reader) : (s.modReader a f).linger = s.linger := rfl
@[simp] theorem State.modReader_waiters (a : Arm) (f : Reader → Reader) : (s.modReader a f).waiters = s.waiters := rfl
@[simp] theorem State.modReader_handover (a : Arm) (f : Reader → Reader) : (s.modReader a f).handover = s.handover := rfl
@[simp] theorem State.modReader_probes (a : Arm) (f : Reader → Reader) : (s.modReader a f).probes = s.probes := rfl
@[simp] theorem State.modReader_pockets (a : Arm) (f : Reader → Reader) : (s.modReader a f).pockets = s.pockets := rfl
@[simp] theorem State.modReader_unknown (a : Arm) (f : Reader → Reader) : (s.modReader a f).unknown = s.unknown := rfl
@[simp] theorem State.modReader_freeze (a : Arm) (f : Reader → Reader) : (s.modReader a f).freeze = s.freeze := rfl
@[simp] theorem State.modReader_readers (a : Arm) (f : Reader → Reader) : (s.modReader a f).readers = s.readers.set a (f (s.readers.get a)) := rfl
@[simp] theorem State.modReader_inventory (a : Arm) (f : Reader → Reader) : (s.modReader a f).inventory = s.inventory := rfl
@[simp] theorem State.modReader_change (a : Arm) (f : Reader → Reader) : (s.modReader a f).change = s.change := rfl
@[simp] theorem State.modReader_lastChange (a : Arm) (f : Reader → Reader) : (s.modReader a f).lastChange = s.lastChange := rfl
@[simp] theorem State.modReader_rack (a : Arm) (f : Reader → Reader) : (s.modReader a f).rack = s.rack := rfl
@[simp] theorem State.modReader_capture (a : Arm) (f : Reader → Reader) : (s.modReader a f).capture = s.capture := rfl

/-! stopLinger -/

@[simp] theorem State.stopLinger_pending (a : Arm) : (s.stopLinger a).pending = s.pending := rfl
@[simp] theorem State.stopLinger_choices (a : Arm) : (s.stopLinger a).choices = s.choices := rfl
@[simp] theorem State.stopLinger_startup (a : Arm) : (s.stopLinger a).startup = s.startup := rfl
@[simp] theorem State.stopLinger_loading (a : Arm) : (s.stopLinger a).loading = s.loading := rfl
@[simp] theorem State.stopLinger_loadFaults (a : Arm) : (s.stopLinger a).loadFaults = s.loadFaults := rfl
@[simp] theorem State.stopLinger_save (a : Arm) : (s.stopLinger a).save = s.save := rfl
@[simp] theorem State.stopLinger_settings (a : Arm) : (s.stopLinger a).settings = s.settings := rfl
@[simp] theorem State.stopLinger_links (a : Arm) : (s.stopLinger a).links = s.links := rfl
@[simp] theorem State.stopLinger_trap (a : Arm) : (s.stopLinger a).trap = s.trap := rfl
@[simp] theorem State.stopLinger_faultCount (a : Arm) : (s.stopLinger a).faultCount = s.faultCount := rfl
@[simp] theorem State.stopLinger_channels (a : Arm) : (s.stopLinger a).channels = s.channels := rfl
@[simp] theorem State.stopLinger_scanList (a : Arm) : (s.stopLinger a).scanList = s.scanList := rfl
@[simp] theorem State.stopLinger_scanInterval (a : Arm) : (s.stopLinger a).scanInterval = s.scanInterval := rfl
@[simp] theorem State.stopLinger_pass (a : Arm) : (s.stopLinger a).pass = s.pass := rfl
@[simp] theorem State.stopLinger_workpiece (a : Arm) : (s.stopLinger a).workpiece = s.workpiece := rfl
@[simp] theorem State.stopLinger_snapshot (a : Arm) : (s.stopLinger a).snapshot = s.snapshot := rfl
@[simp] theorem State.stopLinger_timers (a : Arm) : (s.stopLinger a).timers = s.timers := rfl
@[simp] theorem State.stopLinger_scanTimer (a : Arm) : (s.stopLinger a).scanTimer = s.scanTimer := rfl
@[simp] theorem State.stopLinger_scanSync (a : Arm) : (s.stopLinger a).scanSync = s.scanSync := rfl
@[simp] theorem State.stopLinger_cal (a : Arm) : (s.stopLinger a).cal = s.cal := rfl
@[simp] theorem State.stopLinger_axes (a : Arm) : (s.stopLinger a).axes = s.axes := rfl
@[simp] theorem State.stopLinger_motion (a : Arm) : (s.stopLinger a).motion = s.motion := rfl
@[simp] theorem State.stopLinger_zones (a : Arm) : (s.stopLinger a).zones = s.zones := rfl
@[simp] theorem State.stopLinger_holders (a : Arm) : (s.stopLinger a).holders = s.holders := rfl
@[simp] theorem State.stopLinger_standing (a : Arm) : (s.stopLinger a).standing = s.standing := rfl
@[simp] theorem State.stopLinger_deferred (a : Arm) : (s.stopLinger a).deferred = s.deferred := rfl
@[simp] theorem State.stopLinger_linger (a : Arm) : (s.stopLinger a).linger = s.linger.set a none := rfl
@[simp] theorem State.stopLinger_waiters (a : Arm) : (s.stopLinger a).waiters = s.waiters := rfl
@[simp] theorem State.stopLinger_handover (a : Arm) : (s.stopLinger a).handover = s.handover := rfl
@[simp] theorem State.stopLinger_probes (a : Arm) : (s.stopLinger a).probes = s.probes := rfl
@[simp] theorem State.stopLinger_pockets (a : Arm) : (s.stopLinger a).pockets = s.pockets := rfl
@[simp] theorem State.stopLinger_unknown (a : Arm) : (s.stopLinger a).unknown = s.unknown := rfl
@[simp] theorem State.stopLinger_freeze (a : Arm) : (s.stopLinger a).freeze = s.freeze := rfl
@[simp] theorem State.stopLinger_readers (a : Arm) : (s.stopLinger a).readers = s.readers := rfl
@[simp] theorem State.stopLinger_inventory (a : Arm) : (s.stopLinger a).inventory = s.inventory := rfl
@[simp] theorem State.stopLinger_change (a : Arm) : (s.stopLinger a).change = s.change := rfl
@[simp] theorem State.stopLinger_lastChange (a : Arm) : (s.stopLinger a).lastChange = s.lastChange := rfl
@[simp] theorem State.stopLinger_rack (a : Arm) : (s.stopLinger a).rack = s.rack := rfl
@[simp] theorem State.stopLinger_capture (a : Arm) : (s.stopLinger a).capture = s.capture := rfl

/-! freeRack -/

@[simp] theorem State.freeRack_pending (a : Arm) : (s.freeRack a).pending = s.pending := rfl
@[simp] theorem State.freeRack_choices (a : Arm) : (s.freeRack a).choices = s.choices := rfl
@[simp] theorem State.freeRack_startup (a : Arm) : (s.freeRack a).startup = s.startup := rfl
@[simp] theorem State.freeRack_loading (a : Arm) : (s.freeRack a).loading = s.loading := rfl
@[simp] theorem State.freeRack_loadFaults (a : Arm) : (s.freeRack a).loadFaults = s.loadFaults := rfl
@[simp] theorem State.freeRack_save (a : Arm) : (s.freeRack a).save = s.save := rfl
@[simp] theorem State.freeRack_settings (a : Arm) : (s.freeRack a).settings = s.settings := rfl
@[simp] theorem State.freeRack_links (a : Arm) : (s.freeRack a).links = s.links := rfl
@[simp] theorem State.freeRack_trap (a : Arm) : (s.freeRack a).trap = s.trap := rfl
@[simp] theorem State.freeRack_faultCount (a : Arm) : (s.freeRack a).faultCount = s.faultCount := rfl
@[simp] theorem State.freeRack_channels (a : Arm) : (s.freeRack a).channels = s.channels := rfl
@[simp] theorem State.freeRack_scanList (a : Arm) : (s.freeRack a).scanList = s.scanList := rfl
@[simp] theorem State.freeRack_scanInterval (a : Arm) : (s.freeRack a).scanInterval = s.scanInterval := rfl
@[simp] theorem State.freeRack_pass (a : Arm) : (s.freeRack a).pass = s.pass := rfl
@[simp] theorem State.freeRack_workpiece (a : Arm) : (s.freeRack a).workpiece = s.workpiece := rfl
@[simp] theorem State.freeRack_snapshot (a : Arm) : (s.freeRack a).snapshot = s.snapshot := rfl
@[simp] theorem State.freeRack_timers (a : Arm) : (s.freeRack a).timers = s.timers := rfl
@[simp] theorem State.freeRack_scanTimer (a : Arm) : (s.freeRack a).scanTimer = s.scanTimer := rfl
@[simp] theorem State.freeRack_scanSync (a : Arm) : (s.freeRack a).scanSync = s.scanSync := rfl
@[simp] theorem State.freeRack_cal (a : Arm) : (s.freeRack a).cal = s.cal := rfl
@[simp] theorem State.freeRack_axes (a : Arm) : (s.freeRack a).axes = s.axes := rfl
@[simp] theorem State.freeRack_motion (a : Arm) : (s.freeRack a).motion = s.motion := rfl
@[simp] theorem State.freeRack_zones (a : Arm) : (s.freeRack a).zones = s.zones := rfl
@[simp] theorem State.freeRack_holders (a : Arm) : (s.freeRack a).holders = s.holders.map fun h => if h = some (a, .change) then none else h := rfl
@[simp] theorem State.freeRack_standing (a : Arm) : (s.freeRack a).standing = s.standing := rfl
@[simp] theorem State.freeRack_deferred (a : Arm) : (s.freeRack a).deferred = s.deferred := rfl
@[simp] theorem State.freeRack_linger (a : Arm) : (s.freeRack a).linger = s.linger := rfl
@[simp] theorem State.freeRack_waiters (a : Arm) : (s.freeRack a).waiters = s.waiters := rfl
@[simp] theorem State.freeRack_handover (a : Arm) : (s.freeRack a).handover = s.handover := rfl
@[simp] theorem State.freeRack_probes (a : Arm) : (s.freeRack a).probes = s.probes := rfl
@[simp] theorem State.freeRack_pockets (a : Arm) : (s.freeRack a).pockets = s.pockets := rfl
@[simp] theorem State.freeRack_unknown (a : Arm) : (s.freeRack a).unknown = s.unknown := rfl
@[simp] theorem State.freeRack_freeze (a : Arm) : (s.freeRack a).freeze = s.freeze := rfl
@[simp] theorem State.freeRack_readers (a : Arm) : (s.freeRack a).readers = s.readers := rfl
@[simp] theorem State.freeRack_inventory (a : Arm) : (s.freeRack a).inventory = s.inventory := rfl
@[simp] theorem State.freeRack_change (a : Arm) : (s.freeRack a).change = s.change := rfl
@[simp] theorem State.freeRack_lastChange (a : Arm) : (s.freeRack a).lastChange = s.lastChange := rfl
@[simp] theorem State.freeRack_rack (a : Arm) : (s.freeRack a).rack = s.rack := rfl
@[simp] theorem State.freeRack_capture (a : Arm) : (s.freeRack a).capture = s.capture := rfl

/-! The link operations -/

@[simp] theorem State.raise_pending (l : Link) (k : Notice) : (s.raise l k).pending = s.pending := rfl
@[simp] theorem State.raise_choices (l : Link) (k : Notice) : (s.raise l k).choices = s.choices := rfl
@[simp] theorem State.raise_startup (l : Link) (k : Notice) : (s.raise l k).startup = s.startup := rfl
@[simp] theorem State.raise_loading (l : Link) (k : Notice) : (s.raise l k).loading = s.loading := rfl
@[simp] theorem State.raise_loadFaults (l : Link) (k : Notice) : (s.raise l k).loadFaults = s.loadFaults := rfl
@[simp] theorem State.raise_save (l : Link) (k : Notice) : (s.raise l k).save = s.save := rfl
@[simp] theorem State.raise_settings (l : Link) (k : Notice) : (s.raise l k).settings = s.settings := rfl
@[simp] theorem State.raise_trap (l : Link) (k : Notice) : (s.raise l k).trap = s.trap := rfl
@[simp] theorem State.raise_faultCount (l : Link) (k : Notice) : (s.raise l k).faultCount = s.faultCount := rfl
@[simp] theorem State.raise_channels (l : Link) (k : Notice) : (s.raise l k).channels = s.channels := rfl
@[simp] theorem State.raise_scanList (l : Link) (k : Notice) : (s.raise l k).scanList = s.scanList := rfl
@[simp] theorem State.raise_scanInterval (l : Link) (k : Notice) : (s.raise l k).scanInterval = s.scanInterval := rfl
@[simp] theorem State.raise_pass (l : Link) (k : Notice) : (s.raise l k).pass = s.pass := rfl
@[simp] theorem State.raise_workpiece (l : Link) (k : Notice) : (s.raise l k).workpiece = s.workpiece := rfl
@[simp] theorem State.raise_snapshot (l : Link) (k : Notice) : (s.raise l k).snapshot = s.snapshot := rfl
@[simp] theorem State.raise_timers (l : Link) (k : Notice) : (s.raise l k).timers = s.timers := rfl
@[simp] theorem State.raise_scanTimer (l : Link) (k : Notice) : (s.raise l k).scanTimer = s.scanTimer := rfl
@[simp] theorem State.raise_scanSync (l : Link) (k : Notice) : (s.raise l k).scanSync = s.scanSync := rfl
@[simp] theorem State.raise_cal (l : Link) (k : Notice) : (s.raise l k).cal = s.cal := rfl
@[simp] theorem State.raise_axes (l : Link) (k : Notice) : (s.raise l k).axes = s.axes := rfl
@[simp] theorem State.raise_motion (l : Link) (k : Notice) : (s.raise l k).motion = s.motion := rfl
@[simp] theorem State.raise_zones (l : Link) (k : Notice) : (s.raise l k).zones = s.zones := rfl
@[simp] theorem State.raise_holders (l : Link) (k : Notice) : (s.raise l k).holders = s.holders := rfl
@[simp] theorem State.raise_standing (l : Link) (k : Notice) : (s.raise l k).standing = s.standing := rfl
@[simp] theorem State.raise_deferred (l : Link) (k : Notice) : (s.raise l k).deferred = s.deferred := rfl
@[simp] theorem State.raise_linger (l : Link) (k : Notice) : (s.raise l k).linger = s.linger := rfl
@[simp] theorem State.raise_waiters (l : Link) (k : Notice) : (s.raise l k).waiters = s.waiters := rfl
@[simp] theorem State.raise_handover (l : Link) (k : Notice) : (s.raise l k).handover = s.handover := rfl
@[simp] theorem State.raise_probes (l : Link) (k : Notice) : (s.raise l k).probes = s.probes := rfl
@[simp] theorem State.raise_pockets (l : Link) (k : Notice) : (s.raise l k).pockets = s.pockets := rfl
@[simp] theorem State.raise_unknown (l : Link) (k : Notice) : (s.raise l k).unknown = s.unknown := rfl
@[simp] theorem State.raise_freeze (l : Link) (k : Notice) : (s.raise l k).freeze = s.freeze := rfl
@[simp] theorem State.raise_readers (l : Link) (k : Notice) : (s.raise l k).readers = s.readers := rfl
@[simp] theorem State.raise_inventory (l : Link) (k : Notice) : (s.raise l k).inventory = s.inventory := rfl
@[simp] theorem State.raise_change (l : Link) (k : Notice) : (s.raise l k).change = s.change := rfl
@[simp] theorem State.raise_lastChange (l : Link) (k : Notice) : (s.raise l k).lastChange = s.lastChange := rfl
@[simp] theorem State.raise_rack (l : Link) (k : Notice) : (s.raise l k).rack = s.rack := rfl
@[simp] theorem State.raise_capture (l : Link) (k : Notice) : (s.raise l k).capture = s.capture := rfl
@[simp] theorem State.respond_pending (l : Link) (c : Code) (p : Payload) : (s.respond l c p).pending = s.pending := rfl
@[simp] theorem State.respond_choices (l : Link) (c : Code) (p : Payload) : (s.respond l c p).choices = s.choices := rfl
@[simp] theorem State.respond_startup (l : Link) (c : Code) (p : Payload) : (s.respond l c p).startup = s.startup := rfl
@[simp] theorem State.respond_loading (l : Link) (c : Code) (p : Payload) : (s.respond l c p).loading = s.loading := rfl
@[simp] theorem State.respond_loadFaults (l : Link) (c : Code) (p : Payload) : (s.respond l c p).loadFaults = s.loadFaults := rfl
@[simp] theorem State.respond_save (l : Link) (c : Code) (p : Payload) : (s.respond l c p).save = s.save := rfl
@[simp] theorem State.respond_settings (l : Link) (c : Code) (p : Payload) : (s.respond l c p).settings = s.settings := rfl
@[simp] theorem State.respond_trap (l : Link) (c : Code) (p : Payload) : (s.respond l c p).trap = s.trap := rfl
@[simp] theorem State.respond_faultCount (l : Link) (c : Code) (p : Payload) : (s.respond l c p).faultCount = s.faultCount := rfl
@[simp] theorem State.respond_channels (l : Link) (c : Code) (p : Payload) : (s.respond l c p).channels = s.channels := rfl
@[simp] theorem State.respond_scanList (l : Link) (c : Code) (p : Payload) : (s.respond l c p).scanList = s.scanList := rfl
@[simp] theorem State.respond_scanInterval (l : Link) (c : Code) (p : Payload) : (s.respond l c p).scanInterval = s.scanInterval := rfl
@[simp] theorem State.respond_pass (l : Link) (c : Code) (p : Payload) : (s.respond l c p).pass = s.pass := rfl
@[simp] theorem State.respond_workpiece (l : Link) (c : Code) (p : Payload) : (s.respond l c p).workpiece = s.workpiece := rfl
@[simp] theorem State.respond_snapshot (l : Link) (c : Code) (p : Payload) : (s.respond l c p).snapshot = s.snapshot := rfl
@[simp] theorem State.respond_timers (l : Link) (c : Code) (p : Payload) : (s.respond l c p).timers = s.timers := rfl
@[simp] theorem State.respond_scanTimer (l : Link) (c : Code) (p : Payload) : (s.respond l c p).scanTimer = s.scanTimer := rfl
@[simp] theorem State.respond_scanSync (l : Link) (c : Code) (p : Payload) : (s.respond l c p).scanSync = s.scanSync := rfl
@[simp] theorem State.respond_cal (l : Link) (c : Code) (p : Payload) : (s.respond l c p).cal = s.cal := rfl
@[simp] theorem State.respond_axes (l : Link) (c : Code) (p : Payload) : (s.respond l c p).axes = s.axes := rfl
@[simp] theorem State.respond_motion (l : Link) (c : Code) (p : Payload) : (s.respond l c p).motion = s.motion := rfl
@[simp] theorem State.respond_zones (l : Link) (c : Code) (p : Payload) : (s.respond l c p).zones = s.zones := rfl
@[simp] theorem State.respond_holders (l : Link) (c : Code) (p : Payload) : (s.respond l c p).holders = s.holders := rfl
@[simp] theorem State.respond_standing (l : Link) (c : Code) (p : Payload) : (s.respond l c p).standing = s.standing := rfl
@[simp] theorem State.respond_deferred (l : Link) (c : Code) (p : Payload) : (s.respond l c p).deferred = s.deferred := rfl
@[simp] theorem State.respond_linger (l : Link) (c : Code) (p : Payload) : (s.respond l c p).linger = s.linger := rfl
@[simp] theorem State.respond_waiters (l : Link) (c : Code) (p : Payload) : (s.respond l c p).waiters = s.waiters := rfl
@[simp] theorem State.respond_handover (l : Link) (c : Code) (p : Payload) : (s.respond l c p).handover = s.handover := rfl
@[simp] theorem State.respond_probes (l : Link) (c : Code) (p : Payload) : (s.respond l c p).probes = s.probes := rfl
@[simp] theorem State.respond_pockets (l : Link) (c : Code) (p : Payload) : (s.respond l c p).pockets = s.pockets := rfl
@[simp] theorem State.respond_unknown (l : Link) (c : Code) (p : Payload) : (s.respond l c p).unknown = s.unknown := rfl
@[simp] theorem State.respond_freeze (l : Link) (c : Code) (p : Payload) : (s.respond l c p).freeze = s.freeze := rfl
@[simp] theorem State.respond_readers (l : Link) (c : Code) (p : Payload) : (s.respond l c p).readers = s.readers := rfl
@[simp] theorem State.respond_inventory (l : Link) (c : Code) (p : Payload) : (s.respond l c p).inventory = s.inventory := rfl
@[simp] theorem State.respond_change (l : Link) (c : Code) (p : Payload) : (s.respond l c p).change = s.change := rfl
@[simp] theorem State.respond_lastChange (l : Link) (c : Code) (p : Payload) : (s.respond l c p).lastChange = s.lastChange := rfl
@[simp] theorem State.respond_rack (l : Link) (c : Code) (p : Payload) : (s.respond l c p).rack = s.rack := rfl
@[simp] theorem State.respond_capture (l : Link) (c : Code) (p : Payload) : (s.respond l c p).capture = s.capture := rfl

/-! A fault report -/

@[simp] theorem State.report_pending (r : FaultReport) : (s.report r).pending = s.pending := by
  unfold State.report; split <;> rfl
@[simp] theorem State.report_choices (r : FaultReport) : (s.report r).choices = s.choices := by
  unfold State.report; split <;> rfl
@[simp] theorem State.report_startup (r : FaultReport) : (s.report r).startup = s.startup := by
  unfold State.report; split <;> rfl
@[simp] theorem State.report_loading (r : FaultReport) : (s.report r).loading = s.loading := by
  unfold State.report; split <;> rfl
@[simp] theorem State.report_loadFaults (r : FaultReport) : (s.report r).loadFaults = s.loadFaults := by
  unfold State.report; split <;> rfl
@[simp] theorem State.report_save (r : FaultReport) : (s.report r).save = s.save := by
  unfold State.report; split <;> rfl
@[simp] theorem State.report_settings (r : FaultReport) : (s.report r).settings = s.settings := by
  unfold State.report; split <;> rfl
@[simp] theorem State.report_channels (r : FaultReport) : (s.report r).channels = s.channels := by
  unfold State.report; split <;> rfl
@[simp] theorem State.report_scanList (r : FaultReport) : (s.report r).scanList = s.scanList := by
  unfold State.report; split <;> rfl
@[simp] theorem State.report_scanInterval (r : FaultReport) : (s.report r).scanInterval = s.scanInterval := by
  unfold State.report; split <;> rfl
@[simp] theorem State.report_pass (r : FaultReport) : (s.report r).pass = s.pass := by
  unfold State.report; split <;> rfl
@[simp] theorem State.report_workpiece (r : FaultReport) : (s.report r).workpiece = s.workpiece := by
  unfold State.report; split <;> rfl
@[simp] theorem State.report_snapshot (r : FaultReport) : (s.report r).snapshot = s.snapshot := by
  unfold State.report; split <;> rfl
@[simp] theorem State.report_timers (r : FaultReport) : (s.report r).timers = s.timers := by
  unfold State.report; split <;> rfl
@[simp] theorem State.report_scanTimer (r : FaultReport) : (s.report r).scanTimer = s.scanTimer := by
  unfold State.report; split <;> rfl
@[simp] theorem State.report_scanSync (r : FaultReport) : (s.report r).scanSync = s.scanSync := by
  unfold State.report; split <;> rfl
@[simp] theorem State.report_cal (r : FaultReport) : (s.report r).cal = s.cal := by
  unfold State.report; split <;> rfl
@[simp] theorem State.report_axes (r : FaultReport) : (s.report r).axes = s.axes := by
  unfold State.report; split <;> rfl
@[simp] theorem State.report_motion (r : FaultReport) : (s.report r).motion = s.motion := by
  unfold State.report; split <;> rfl
@[simp] theorem State.report_zones (r : FaultReport) : (s.report r).zones = s.zones := by
  unfold State.report; split <;> rfl
@[simp] theorem State.report_holders (r : FaultReport) : (s.report r).holders = s.holders := by
  unfold State.report; split <;> rfl
@[simp] theorem State.report_standing (r : FaultReport) : (s.report r).standing = s.standing := by
  unfold State.report; split <;> rfl
@[simp] theorem State.report_deferred (r : FaultReport) : (s.report r).deferred = s.deferred := by
  unfold State.report; split <;> rfl
@[simp] theorem State.report_linger (r : FaultReport) : (s.report r).linger = s.linger := by
  unfold State.report; split <;> rfl
@[simp] theorem State.report_waiters (r : FaultReport) : (s.report r).waiters = s.waiters := by
  unfold State.report; split <;> rfl
@[simp] theorem State.report_handover (r : FaultReport) : (s.report r).handover = s.handover := by
  unfold State.report; split <;> rfl
@[simp] theorem State.report_probes (r : FaultReport) : (s.report r).probes = s.probes := by
  unfold State.report; split <;> rfl
@[simp] theorem State.report_pockets (r : FaultReport) : (s.report r).pockets = s.pockets := by
  unfold State.report; split <;> rfl
@[simp] theorem State.report_unknown (r : FaultReport) : (s.report r).unknown = s.unknown := by
  unfold State.report; split <;> rfl
@[simp] theorem State.report_freeze (r : FaultReport) : (s.report r).freeze = s.freeze := by
  unfold State.report; split <;> rfl
@[simp] theorem State.report_readers (r : FaultReport) : (s.report r).readers = s.readers := by
  unfold State.report; split <;> rfl
@[simp] theorem State.report_inventory (r : FaultReport) : (s.report r).inventory = s.inventory := by
  unfold State.report; split <;> rfl
@[simp] theorem State.report_change (r : FaultReport) : (s.report r).change = s.change := by
  unfold State.report; split <;> rfl
@[simp] theorem State.report_lastChange (r : FaultReport) : (s.report r).lastChange = s.lastChange := by
  unfold State.report; split <;> rfl
@[simp] theorem State.report_rack (r : FaultReport) : (s.report r).rack = s.rack := by
  unfold State.report; split <;> rfl
@[simp] theorem State.report_capture (r : FaultReport) : (s.report r).capture = s.capture := by
  unfold State.report; split <;> rfl

end Sys2Proof.Machine
end

