-- ==== Sys2Proof/Laws/Cascade.lean ====
section
/-! SUPPORT. The cascade of one event: how the pieces of work run, what every piece keeps the cascade keeps, and that no
piece changes the steady part of a state. -/
namespace Sys2Proof.Machine
open Sys2Proof.Safety

/-! ### Running the pieces -/

@[simp] theorem runTasks_nil (n : Nat) (s : State) : runTasks n [] s = s := by cases n <;> rfl

theorem runTasks_cons (n : Nat) (t : Task) (ts : List Task) (s : State) :
    runTasks (n + 1) (t :: ts) s = runTasks n ((perform t s).2 ++ ts) (perform t s).1 := rfl

@[simp] theorem settle_nil (s : State) : settle (s, []) = s := runTasks_nil _ _

/-- The first piece of a cascade, and what it sets off before the rest. -/
theorem settle_cons (s : State) (t : Task) (ts : List Task) :
    settle (s, t :: ts) = runTasks (cascadeBound - 1) ((perform t s).2 ++ ts) (perform t s).1 :=
  runTasks_cons (cascadeBound - 1) t ts s

/-- A cascade of one piece that sets off nothing. -/
theorem settle_one {s t : State} {k : Task} (h : perform k s = (t, [])) : settle (s, [k]) = t := by
  rw [settle_cons, h, List.append_nil, runTasks_nil]

/-- What every piece keeps, the pieces keep. -/
theorem runTasks_keeps (P : State → Prop) (h : ∀ t s, P s → P (perform t s).1) :
    ∀ n ts s, P s → P (runTasks n ts s) := by
  intro n
  induction n with
  | zero => intro ts s hs; exact hs
  | succ n ih =>
    intro ts s hs
    cases ts with
    | nil => exact hs
    | cons t ts => exact ih _ _ (h t s hs)

/-- What every piece keeps, a cascade keeps. -/
theorem settle_keeps (P : State → Prop) (h : ∀ t s, P s → P (perform t s).1) (e : Eff) (he : P e.1) : P (settle e) :=
  runTasks_keeps P h _ _ _ he

/-- A reading that no piece changes, a cascade does not change. -/
theorem settle_same {α : Type} (f : State → α) (h : ∀ t s, f (perform t s).1 = f s) (e : Eff) :
    f (settle e) = f e.1 :=
  settle_keeps (fun t => f t = f e.1) (fun t s hs => (h t s).trans hs) e rfl

/-! ### The steady part -/

@[simp] theorem steady_modLink (s : State) (l : Link) (f : LinkState → LinkState) : steady (s.modLink l f) = steady s := rfl
@[simp] theorem steady_modMotion (s : State) (a : Arm) (f : Motion → Motion) : steady (s.modMotion a f) = steady s := rfl
@[simp] theorem steady_modAxes (s : State) (a : Arm) (f : AxisUnit → AxisUnit) : steady (s.modAxes a f) = steady s := rfl
@[simp] theorem steady_modCapture (s : State) (a : Arm) (f : Capture → Capture) : steady (s.modCapture a f) = steady s := rfl
@[simp] theorem steady_modTimer (s : State) (a : Arm) (f : SetpointTimer → SetpointTimer) :
    steady (s.modTimer a f) = steady s := rfl
@[simp] theorem steady_modRack (s : State) (f : Rack → Rack) : steady (s.modRack f) = steady s := rfl
@[simp] theorem steady_setContext (s : State) (a : Arm) (c : Option Context) : steady (s.setContext a c) = steady s := rfl
@[simp] theorem steady_modContext (s : State) (a : Arm) (f : Context → Context) : steady (s.modContext a f) = steady s := rfl
@[simp] theorem steady_setProbe (s : State) (n : Slot) (p : Option Probe) : steady (s.setProbe n p) = steady s := rfl
@[simp] theorem steady_modProbe (s : State) (n : Slot) (f : Probe → Probe) : steady (s.modProbe n f) = steady s := rfl
@[simp] theorem steady_modPocket (s : State) (p : PocketId) (f : Pocket → Pocket) : steady (s.modPocket p f) = steady s := rfl
@[simp] theorem steady_setHolder (s : State) (z : ZoneId) (h : Option (Arm × HoldWhy)) :
    steady (s.setHolder z h) = steady s := rfl
@[simp] theorem steady_setUnknown (s : State) (a : Arm) (v : Bool) : steady (s.setUnknown a v) = steady s := rfl
@[simp] theorem steady_modReader (s : State) (a : Arm) (f : Reader → Reader) : steady (s.modReader a f) = steady s := rfl
@[simp] theorem steady_askRead (s : State) (a : Arm) (k : Asker) : steady (s.askRead a k) = steady s := by simp [State.askRead]
@[simp] theorem steady_raise (s : State) (l : Link) (k : Notice) : steady (s.raise l k) = steady s := rfl
@[simp] theorem steady_raiseAll (s : State) (k : Notice) : steady (s.raiseAll k) = steady s := by simp [State.raiseAll]
@[simp] theorem steady_respond (s : State) (l : Link) (c : Code) (p : Payload) : steady (s.respond l c p) = steady s := rfl
@[simp] theorem steady_setPhase (s : State) (a : Arm) (p : Phase) : steady (s.setPhase a p) = steady s := by simp [State.setPhase]
@[simp] theorem steady_hold (s : State) (a : Arm) (r : HoldReason) : steady (s.hold a r) = steady s := by simp [State.hold]
@[simp] theorem steady_addResult (s : State) (a : Arm) (t : Nat) (o : Outcome) (r : Option Nat) :
    steady (s.addResult a t o r) = steady s := by simp [State.addResult]
@[simp] theorem steady_setStanding (s : State) (a : Arm) (v : Vec3) : steady (s.setStanding a v) = steady s := by simp [State.setStanding]
@[simp] theorem steady_dropReads (s : State) (a : Arm) : steady (s.dropReads a) = steady s := by simp [State.dropReads]
@[simp] theorem steady_startRackTimer (s : State) : steady s.startRackTimer = steady s := by simp [State.startRackTimer]
@[simp] theorem steady_startStepTimer (s : State) : steady s.startStepTimer = steady s := by simp [State.startStepTimer]
@[simp] theorem steady_failOpen (s : State) (a : Arm) (r : FailReason) : steady (s.failOpen a r) = steady s := by simp [State.failOpen]
@[simp] theorem steady_dropEntry (s : State) (a : Arm) : steady (s.dropEntry a) = steady s := rfl
@[simp] theorem steady_takeZones (s : State) (a : Arm) (zs : List ZoneId) : steady (s.takeZones a zs) = steady s := rfl
@[simp] theorem steady_vacate (s : State) (p : PocketId) : steady (s.vacate p) = steady s := by simp [State.vacate]

@[simp] theorem steady_report (s : State) (r : FaultReport) : steady (s.report r) = steady s := by
  unfold State.report; split <;> rfl

@[simp] theorem steady_tidyLinger (s : State) (a : Arm) : steady (s.tidyLinger a) = steady s := by
  unfold State.tidyLinger; split <;> rfl

@[simp] theorem steady_endHead (s : State) (a : Arm) (o : Outcome) : steady (s.endHead a o) = steady s := by
  unfold State.endHead; split <;> rfl

@[simp] theorem steady_endHeld (s : State) (a : Arm) (o : Outcome) (r : HoldReason) :
    steady (s.endHeld a o r) = steady s := by simp [State.endHeld]

@[simp] theorem steady_stopLinger (s : State) (a : Arm) : steady (s.stopLinger a) = steady s := rfl
@[simp] theorem steady_freeRack (s : State) (a : Arm) : steady (s.freeRack a) = steady s := rfl
@[simp] theorem steady_dropContext (s : State) (a : Arm) : steady (s.dropContext a) = steady s := rfl

@[simp] theorem steady_appendEntry (s : State) (w : Waiter) : steady (s.appendEntry w) = steady s := by
  unfold State.appendEntry; split <;> rfl

@[simp] theorem steady_grantRack (a : Arm) (zs : List ZoneId) (s : State) : steady (grantRack a zs s).1 = steady s := by
  unfold grantRack; split <;> rfl

@[simp] theorem steady_displace (s : State) (n : Slot) (pl : Place) : steady (s.displace n pl) = steady s := by
  unfold State.displace; split <;> rfl

@[simp] theorem steady_leave (s : State) (n : Slot) (pl : Place) : steady (s.leave n pl) = steady s := by
  unfold State.leave; split
  · split <;> simp
  · rfl

@[simp] theorem steady_place (s : State) (n : Slot) (pl : Place) : steady (s.place n pl) = steady s := by
  unfold State.place
  split
  · rfl
  · dsimp only
    split <;> simp

@[simp] theorem steady_withdraw (s : State) (a : Arm) (p : Purpose) : steady (withdraw a p s).1 = steady s := by
  unfold withdraw; split
  · rfl
  · split <;> simp

@[simp] theorem steady_flush (s : State) (a : Arm) : steady (flush a s).1 = steady s := by
  unfold flush; dsimp only; split
  · rfl
  · split <;> simp

@[simp] theorem steady_release (s : State) (a : Arm) (zs : List ZoneId) : steady (release a zs s).1 = steady s := by
  unfold release; dsimp only; split
  · rfl
  · simp only [steady_tidyLinger]; rfl

@[simp] theorem steady_enterStop (s : State) (a : Arm) (o : Outcome) : steady (enterStop a o s).1 = steady s := by
  unfold enterStop; split
  · rfl
  · split
    · dsimp only; split <;> simp
    · split <;> simp

/-! ### The steady part under each piece -/

theorem scan_steady (s : State) : steady (scan s).1 = steady s := by
  unfold scan; split
  · rfl
  · dsimp only; split <;> simp

theorem request_steady (a : Arm) (e : Bool) (s : State) : steady (request a e s).1 = steady s := by
  unfold request; dsimp only; split
  · split
    · rfl
    · split
      · simp
      · split <;> simp
  · rfl

theorem append_steady (a : Arm) (s : State) : steady (append a s).1 = steady s := by
  unfold append; split <;> simp

theorem judge_steady (a : Arm) (s : State) : steady (judge a s).1 = steady s := by
  unfold judge; split
  · rfl
  · split
    · dsimp only; split
      · simp only [steady_raiseAll, steady_hold, steady_endHead, steady_dropEntry]; rfl
      · rfl
    · split <;> simp

theorem recompute_steady (a : Arm) (b : List ZoneId) (s : State) : steady (recompute a b s).1 = steady s := by
  unfold recompute; split
  · rfl
  · split <;> rfl

theorem recomputeOwed_steady (a : Arm) (s : State) : steady (recomputeOwed a s).1 = steady s := by
  unfold recomputeOwed; split
  · exact (recompute_steady _ _ _).trans rfl
  · rfl

theorem startLinger_steady (a : Arm) (s : State) : steady (startLinger a s).1 = steady s := by
  unfold startLinger; dsimp only; split
  · rfl
  · split <;> rfl

theorem settleZones_steady (a : Arm) (s : State) : steady (settleZones a s).1 = steady s := by
  unfold settleZones; dsimp only; split <;> rfl

theorem activateZones_steady (a : Arm) (zs : List ZoneId) (s : State) : steady (activateZones a zs s).1 = steady s := rfl

theorem activate_steady (a : Arm) (s : State) : steady (activate a s).1 = steady s := by
  unfold activate; dsimp only; split
  · rfl
  · rw [activateZones_steady]; simp

theorem stages_steady (a : Arm) (m : Move) (g : Geometry) (s : State) : steady (stages a m g s).1 = steady s := by
  unfold stages; repeat' split
  all_goals simp

theorem evaluate_steady (a : Arm) (s : State) : steady (evaluate a s).1 = steady s := by
  unfold evaluate; dsimp only; repeat' split
  all_goals first | exact stages_steady _ _ _ _ | simp

theorem segmentEnd_steady (a : Arm) (o : Outcome) (s : State) : steady (segmentEnd a o s).1 = steady s := by
  unfold segmentEnd; dsimp only; split <;> simp

theorem afterEnd_steady (a : Arm) (o : Outcome) (s : State) : steady (afterEnd a o s).1 = steady s := by
  unfold afterEnd; dsimp only; repeat' split
  all_goals simp

theorem completeReset_steady (a : Arm) (s : State) : steady (completeReset a s).1 = steady s := by
  simp [completeReset]

theorem finishReset_steady (a : Arm) (s : State) : steady (finishReset a s).1 = steady s := by
  simp [finishReset]

theorem releaseRack_steady (a : Arm) (s : State) : steady (releaseRack a s).1 = steady s := by
  unfold releaseRack; split <;> simp

theorem armStopped_steady (a : Arm) (e : ArmEvent) (s : State) : steady (armStopped a e s).1 = steady s := by
  unfold armStopped; split <;> dsimp only <;> first | rfl | (split <;> simp)

theorem requestRack_steady (a : Arm) (s : State) : steady (requestRack a s).1 = steady s := by
  unfold requestRack; repeat' split
  all_goals simp

theorem appendChange_steady (a : Arm) (s : State) : steady (appendChange a s).1 = steady s := by
  unfold appendChange; split <;> simp

theorem openCheck_steady (a : Arm) (s : State) : steady (openCheck a s).1 = steady s := by
  unfold openCheck; dsimp only; split <;> simp

theorem closedCheck_steady (a : Arm) (s : State) : steady (closedCheck a s).1 = steady s := by
  unfold closedCheck; repeat' split
  all_goals rfl

theorem steady_restore (s : State) (a : Arm) (c : Context) : steady (s.restore a c) = steady s := by
  unfold State.restore; dsimp only; repeat' split
  all_goals simp

theorem endChange_steady (a : Arm) (o : ChangeOutcome) (s : State) : steady (endChange a o s).1 = steady s := by
  unfold endChange; split
  · rfl
  · dsimp only; repeat' split
    all_goals simp [steady_restore]

theorem removeChange_steady (a : Arm) (o : ChangeOutcome) (s : State) : steady (removeChange a o s).1 = steady s := by
  simp only [removeChange, steady_raise]; rfl

theorem setRackFault_steady (s : State) : steady (setRackFault s).1 = steady s := by
  simp only [setRackFault, steady_raise, steady_modRack]

theorem sensorConflict_steady (s : State) : steady (sensorConflict s).1 = steady s := by
  simp only [sensorConflict, setRackFault_steady, steady_report]

theorem holdRequest_steady (a : Arm) (s : State) : steady (holdRequest a s).1 = steady s := by
  unfold holdRequest; split <;> simp

theorem foldl_steady {α : Type} (f : State → α → State) (h : ∀ s x, steady (f s x) = steady s) (xs : List α) (s : State) :
    steady (xs.foldl f s) = steady s := by
  induction xs generalizing s with
  | nil => rfl
  | cons x xs ih => rw [List.foldl_cons, ih, h]

theorem judgePocket_steady (s : State) (p : PocketId) : steady (s.judgePocket p) = steady s := by
  unfold State.judgePocket; dsimp only; repeat' split
  all_goals simp

theorem loseMounted_steady (s : State) (a : Arm) (k : Option Slot) : steady (s.loseMounted a k) = steady s := by
  unfold State.loseMounted
  exact foldl_steady _ (fun t n => by split <;> simp) _ _

theorem startInventory_steady (s : State) : steady (startInventory s).1 = steady s := by
  have h := foldl_steady State.judgePocket judgePocket_steady allPockets s
  have k : ∀ (t : State) (i : Inventory), steady { t with inventory := i } = steady t := fun _ _ => rfl
  unfold startInventory; dsimp only
  cases s.readArms.a <;> cases s.readArms.b <;> simp [k, h]

theorem askInventory_steady (s : State) : steady (askInventory s).1 = steady s := by
  unfold askInventory; split
  · exact startInventory_steady _
  · rfl

theorem resolveArm_steady (s : State) (a : Arm) (f : Found) : steady (s.resolveArm a f) = steady s := by
  unfold State.resolveArm; repeat' split
  all_goals simp [loseMounted_steady]

theorem resolved_steady (s : State) (r : PerArm InvRead) : steady (s.resolved r) = steady s := by
  unfold State.resolved; dsimp only; repeat' split
  all_goals simp [loseMounted_steady, resolveArm_steady]

theorem markChanged_steady (s t : State) : steady (s.markChanged t) = steady s := by
  unfold State.markChanged; split <;> rfl

theorem resolveInventory_steady (s : State) : steady (resolveInventory s).1 = steady s := by
  unfold resolveInventory; split
  · rfl
  · dsimp only; rw [markChanged_steady, resolved_steady]

theorem becomeReady_steady (s : State) : steady (becomeReady s).1 = steady s := by
  simp only [becomeReady, steady_raiseAll]; rfl

theorem endInventory_steady (s : State) : steady (endInventory s).1 = steady s := by
  unfold endInventory; split
  · rfl
  · dsimp only; repeat' split
    all_goals first
      | exact (becomeReady_steady _).trans (by first | rfl | exact (rfl : steady _ = steady (s.raise .S .pocketChanged)))
      | exact (startInventory_steady _).trans (by simp)

/-- No piece of work changes the steady part (95). -/
theorem perform_steady (t : Task) (s : State) : steady (perform t s).1 = steady s := by
  cases t <;> simp only [perform]
  case evaluate => exact evaluate_steady _ _
  case request => exact request_steady _ _ _
  case activate => exact activate_steady _ _
  case release => exact steady_release _ _ _
  case releaseLoose => exact steady_release _ _ _
  case releaseRack => exact releaseRack_steady _ _
  case scan => exact scan_steady _
  case append => exact append_steady _ _
  case judge => exact judge_steady _ _
  case appendChange => exact appendChange_steady _ _
  case recompute => exact recompute_steady _ _ _
  case recomputeEnd => exact recompute_steady _ _ _
  case recomputeOwed => exact recomputeOwed_steady _ _
  case linger => exact startLinger_steady _ _
  case settleZones => exact settleZones_steady _ _
  case segmentEnd => exact segmentEnd_steady _ _ _
  case afterEnd => exact afterEnd_steady _ _ _
  case completeReset => exact completeReset_steady _ _
  case finishReset => exact finishReset_steady _ _
  case clearFlags => rfl
  case armStopped => exact armStopped_steady _ _ _
  case requestRack => exact requestRack_steady _ _
  case openCheck => exact openCheck_steady _ _
  case closedCheck => exact closedCheck_steady _ _
  case endChange => exact endChange_steady _ _ _
  case removeChange => exact removeChange_steady _ _ _
  case sensorConflict => exact sensorConflict_steady _
  case holdRequest => exact holdRequest_steady _ _
  case askInventory => exact askInventory_steady _
  case resolveInventory => exact resolveInventory_steady _
  case endInventory => exact endInventory_steady _

/-- No cascade changes the steady part (95). -/
theorem settle_steady (e : Eff) : steady (settle e) = steady e.1 := settle_same steady perform_steady e

end Sys2Proof.Machine
end

