-- ==== Sys2Proof/Laws/Keeps.lean ====
section
/-! SUPPORT. What the shared operations over the probe and pocket tables, the zone holders, the rack and the waiter list
keep, every piece of work keeps, so every cascade. -/
namespace Sys2Proof.Machine
-- One theorem at a time: many at once wait on each other, and each waiting one keeps a thread.
set_option Elab.async false
open Sys2Proof.Safety

/-- A change of a context that takes it no step back: it stays past WAIT_RACK, and in a step that asks the cover open
(R145, R146). -/
def Onward (f : Context → Context) : Prop :=
  ∀ c, (c.step ≠ .waitRack → (f c).step ≠ .waitRack)
    ∧ (c.step ≠ .waitRack → c.step ≠ .closing → (f c).step ≠ .closing)

/-- A property of states that the shared operations keep. It may speak of the links' flags, masks and ATTN lines, the arm
states, DEN, the queues, results, points and counters, the zone holders, the waiter list, the contexts, RACK-REQ, the probe
records and the pockets. -/
structure Keeps (P : State → Prop) : Prop where
  same : ∀ s t : State, t.links = s.links → t.motion = s.motion → t.axes = s.axes → t.capture = s.capture →
    t.faultCount = s.faultCount → t.snapshot = s.snapshot → t.holders = s.holders → t.waiters = s.waiters →
    t.change = s.change → t.rack.req = s.rack.req → t.probes = s.probes → t.pockets = s.pockets → P s → P t
  onLink : ∀ (s : State) (l : Link) (f : LinkState → LinkState),
    (∀ x : LinkState, x.attn = attnOf x.flags x.mask → (f x).attn = attnOf (f x).flags (f x).mask) → P s → P (s.modLink l f)
  onCount : ∀ s : State, P s → P { s with faultCount := min (s.faultCount + 1) 65535 }
  onSnapshot : ∀ (s : State) (t : Snapshot), (s.snapshot.epoch < 65536 → t.epoch < 65536) → P s → P { s with snapshot := t }
  onPhase : ∀ (s : State) (a : Arm) (p : Phase), P s → P (s.setPhase a p)
  onResult : ∀ (s : State) (a : Arm) (t : Nat) (o : Outcome) (r : Option Nat), P s → P (s.addResult a t o r)
  onMotion : ∀ (s : State) (a : Arm) (f : Motion → Motion),
    (f (s.motion.get a)).phase = (s.motion.get a).phase →
    ((s.motion.get a).queue.length ≤ 16 → (f (s.motion.get a)).queue.length ≤ 16) →
    (f (s.motion.get a)).results.length ≤ (s.motion.get a).results.length →
    (f (s.motion.get a)).resultCount ≤ (s.motion.get a).resultCount → P s → P (s.modMotion a f)
  onAxes : ∀ (s : State) (a : Arm) (f : AxisUnit → AxisUnit), (f (s.axes.get a)).den = (s.axes.get a).den →
    ((s.axes.get a).frameCount < 256 → (f (s.axes.get a)).frameCount < 256) → P s → P (s.modAxes a f)
  onCapture : ∀ (s : State) (a : Arm) (f : Capture → Capture),
    ((s.capture.get a).points.length ≤ 32 → (f (s.capture.get a)).points.length ≤ 32) →
    ((s.capture.get a).seq < 65536 → (f (s.capture.get a)).seq < 65536) → P s → P (s.modCapture a f)
  onHolders : ∀ (s : State) (hs : Table 16 (Option (Arm × HoldWhy))),
    (∀ z a, hs.get z = some (a, .change) → s.holders.get z = some (a, .change)) → P s → P { s with holders := hs }
  onDropEntry : ∀ (s : State) (a : Arm), P s → P (s.dropEntry a)
  onAppendEntry : ∀ (s : State) (w : Waiter), P s → P (s.appendEntry w)
  onGrantRack : ∀ (a : Arm) (zs : List ZoneId) (s : State), P s → P (grantRack a zs s).1
  onPlace : ∀ (s : State) (n : Slot) (pl : Place), P s → P (s.place n pl)
  onPocket : ∀ (s : State) (p : PocketId) (f : Pocket → Pocket),
    (∀ n, (f (s.pockets.get p)).state = .occupied n ↔ (s.pockets.get p).state = .occupied n) → P s → P (s.modPocket p f)
  onRecord : ∀ (s : State) (n : Slot) (p q : Probe), s.probes.get n = some p → q.place = p.place → P s →
    P (s.setProbe n (some q))
  onRack : ∀ (s : State) (f : Rack → Rack), ((f s.rack).req = true → s.rack.req = true) → P s → P (s.modRack f)
  onContext : ∀ (s : State) (a : Arm) (f : Context → Context), Onward f → P s → P (s.modContext a f)
  onClosing : ∀ (a : Arm) (o : ChangeOutcome) (s : State), P s → P (enterClosing a o s).1
  onDropContext : ∀ (s : State) (a : Arm), P s → P (s.dropContext a)

namespace Keeps
variable {P : State → Prop} (hP : Keeps P)
include hP

/-! ### Operations -/

/-- An update of fields the property does not speak of. -/
theorem other {s t : State} (h : P s) (h1 : t.links = s.links) (h2 : t.motion = s.motion) (h3 : t.axes = s.axes)
    (h4 : t.capture = s.capture) (h5 : t.faultCount = s.faultCount) (h6 : t.snapshot = s.snapshot)
    (h7 : t.holders = s.holders) (h8 : t.waiters = s.waiters) (h9 : t.change = s.change)
    (h10 : t.rack.req = s.rack.req) (h11 : t.probes = s.probes) (h12 : t.pockets = s.pockets) : P t :=
  hP.same s t h1 h2 h3 h4 h5 h6 h7 h8 h9 h10 h11 h12 h

/-- A link changed but for its flags, its mask and its ATTN line, or with its ATTN line formed again. -/
theorem modLink {s : State} (h : P s) (l : Link) (f : LinkState → LinkState)
    (e : ∀ x : LinkState, x.attn = attnOf x.flags x.mask → (f x).attn = attnOf (f x).flags (f x).mask := by
      first | exact fun _ h => h | exact fun _ _ => rfl) : P (s.modLink l f) := hP.onLink s l f e h

/-- A motion unit changed in the same arm state, with no longer a queue or result list and no higher result count. -/
theorem modMotion {s : State} (h : P s) (a : Arm) (f : Motion → Motion)
    (e1 : (f (s.motion.get a)).phase = (s.motion.get a).phase := by rfl)
    (e2 : (s.motion.get a).queue.length ≤ 16 → (f (s.motion.get a)).queue.length ≤ 16 := by
      first | exact fun h => h | exact fun _ => Nat.zero_le _)
    (e3 : (f (s.motion.get a)).results.length ≤ (s.motion.get a).results.length := by
      first | exact Nat.le_refl _ | exact Nat.zero_le _)
    (e4 : (f (s.motion.get a)).resultCount ≤ (s.motion.get a).resultCount := by
      first | exact Nat.le_refl _ | exact Nat.zero_le _) : P (s.modMotion a f) := hP.onMotion s a f e1 e2 e3 e4 h

/-- An axis unit changed with the same DEN and frame count. -/
theorem modAxes {s : State} (h : P s) (a : Arm) (f : AxisUnit → AxisUnit)
    (e1 : (f (s.axes.get a)).den = (s.axes.get a).den := by rfl)
    (e2 : (s.axes.get a).frameCount < 256 → (f (s.axes.get a)).frameCount < 256 := by exact fun h => h) :
    P (s.modAxes a f) := hP.onAxes s a f e1 e2 h

/-- A capture unit changed with no more points and the same sequence number, or with none and 0. -/
theorem modCapture {s : State} (h : P s) (a : Arm) (f : Capture → Capture)
    (e1 : (s.capture.get a).points.length ≤ 32 → (f (s.capture.get a)).points.length ≤ 32 := by
      first | exact fun h => h | exact fun _ => Nat.zero_le _)
    (e2 : (s.capture.get a).seq < 65536 → (f (s.capture.get a)).seq < 65536 := by
      first | exact fun h => h | exact fun _ => Nat.zero_lt_succ _) : P (s.modCapture a f) := hP.onCapture s a f e1 e2 h

theorem modTimer {s : State} (h : P s) (a f) : P (s.modTimer a f) :=
  hP.other h rfl rfl rfl rfl rfl rfl rfl rfl rfl rfl rfl rfl
theorem modReader {s : State} (h : P s) (a f) : P (s.modReader a f) :=
  hP.other h rfl rfl rfl rfl rfl rfl rfl rfl rfl rfl rfl rfl
theorem askRead {s : State} (h : P s) (a k) : P (s.askRead a k) := hP.modReader h _ _
theorem setUnknown {s : State} (h : P s) (a v) : P (s.setUnknown a v) :=
  hP.other h rfl rfl rfl rfl rfl rfl rfl rfl rfl rfl rfl rfl
theorem stopLinger {s : State} (h : P s) (a) : P (s.stopLinger a) :=
  hP.other h rfl rfl rfl rfl rfl rfl rfl rfl rfl rfl rfl rfl
theorem raise {s : State} (h : P s) (l k) : P (s.raise l k) := hP.modLink h _ _
theorem raiseAll {s : State} (h : P s) (k) : P (s.raiseAll k) := hP.raise (hP.raise (hP.raise h _ _) _ _) _ _
theorem respond {s : State} (h : P s) (l c p) : P (s.respond l c p) := hP.modLink h _ _
theorem setPhase {s : State} (h : P s) (a p) : P (s.setPhase a p) := hP.onPhase _ _ _ h
theorem hold {s : State} (h : P s) (a r) : P (s.hold a r) := hP.raise (hP.setPhase h _ _) _ _
theorem addResult {s : State} (h : P s) (a t o r) : P (s.addResult a t o r) := hP.onResult _ _ _ _ _ h
theorem setStanding {s : State} (h : P s) (a v) : P (s.setStanding a v) := hP.modAxes h _ _

theorem report {s : State} (h : P s) (r) : P (s.report r) := by
  have h1 := hP.onCount s h
  unfold State.report; dsimp only; split
  · exact h1
  · apply hP.raise; exact hP.other h1 rfl rfl rfl rfl rfl rfl rfl rfl rfl rfl rfl rfl

theorem tidyLinger {s : State} (h : P s) (a) : P (s.tidyLinger a) := by
  unfold State.tidyLinger; split
  · exact hP.other h rfl rfl rfl rfl rfl rfl rfl rfl rfl rfl rfl rfl
  · exact h

theorem endHead {s : State} (h : P s) (a o) : P (s.endHead a o) := by
  unfold State.endHead; split
  · exact h
  · rename_i e
    refine hP.addResult (hP.modMotion h _ _ rfl (fun hl => ?_)) _ _ _ _
    rw [e] at hl; simp at hl ⊢; omega

theorem endHeld {s : State} (h : P s) (a o r) : P (s.endHeld a o r) := hP.hold (hP.endHead h a o) a r

theorem dropReads {s : State} (h : P s) (a) : P (s.dropReads a) := hP.onRack _ _ (fun h => h) (hP.modReader h _ _)
theorem startRackTimer {s : State} (h : P s) : P s.startRackTimer := hP.onRack _ _ (fun h => h) h
theorem startStepTimer {s : State} (h : P s) : P s.startStepTimer := hP.onRack _ _ (fun h => h) h

theorem failOpen {s : State} (h : P s) (a r) : P (s.failOpen a r) := by
  refine hP.raise (hP.onRack _ _ (fun h => h) (hP.dropReads (hP.onContext _ _ _ ?_ h) a)) _ _
  exact fun c => ⟨fun _ => nofun, fun _ _ => nofun⟩

/-- Zones that pass to an arm for another reason than a change. -/
theorem takeZones {s : State} (h : P s) (a zs) : P (s.takeZones a zs) := by
  refine hP.other (hP.onHolders s _ ?_ h) rfl rfl rfl rfl rfl rfl rfl rfl rfl rfl rfl rfl
  intro z b hz
  simp only [State.takeZones, Table.get_mapIdx] at hz
  split at hz
  · simp at hz
  · exact hz

theorem freeRack {s : State} (h : P s) (a) : P (s.freeRack a) := by
  refine hP.onHolders s _ ?_ h
  intro z b hz
  simp only [Table.get_map] at hz
  split at hz
  · cases hz
  · exact hz

theorem withdraw {s : State} (h : P s) (a p) : P (withdraw a p s).1 := by
  unfold Machine.withdraw; split
  · exact h
  · split
    · exact hP.onDropEntry _ _ h
    · exact h

theorem flush {s : State} (h : P s) (a) : P (flush a s).1 := by
  unfold Machine.flush; dsimp only; split
  · exact h
  · have h1 := hP.modMotion h a fun m => { m with queue := [], geometry := none }
    split
    · exact hP.withdraw (hP.addResult h1 _ _ _ _) _ _
    · exact hP.addResult h1 _ _ _ _

theorem release {s : State} (h : P s) (a zs) : P (release a zs s).1 := by
  unfold Machine.release; dsimp only; split
  · exact h
  · apply hP.tidyLinger
    refine hP.other (hP.onHolders s _ ?_ h) rfl rfl rfl rfl rfl rfl rfl rfl rfl rfl rfl rfl
    intro z b hz
    simp only [Table.get_mapIdx] at hz
    split at hz
    · split at hz
      · split at hz <;> simp at hz
      · cases hz
    · exact hz

theorem enterStop {s : State} (h : P s) (a o) : P (enterStop a o s).1 := by
  unfold Machine.enterStop; split
  · exact h
  · split
    · dsimp only; split
      · exact hP.setStanding (hP.setPhase (hP.modMotion h _ _) _ _) _ _
      · exact hP.setPhase (hP.modMotion h _ _) _ _
    · split <;> dsimp only
      · exact hP.modMotion h _ _
      · exact h

theorem enterFault {s : State} (h : P s) (a r) : P (enterFault a r s).1 := by
  unfold Machine.enterFault; dsimp only
  refine hP.stopLinger (hP.raise (hP.raise (hP.setPhase (hP.modMotion (hP.flush ?_ _) _ _) _ _) _ _) _ _) _
  split
  · exact hP.addResult (hP.modMotion h _ _) _ _ _ _
  · exact h

/-- A RESERVED pocket that becomes EMPTY. -/
theorem freePocket {s : State} (h : P s) (p : PocketId) (b : Bool) (u : Pocket → Bool) :
    P (s.modPocket p fun k =>
      if b && decide (k.state = .reserved) then { k with state := .empty, unexpected := u k } else k) := by
  refine hP.onPocket s p _ ?_ h
  intro n
  split
  · rename_i hb
    have hr : (s.pockets.get p).state = .reserved := by simp at hb; exact hb.2
    simp [hr]
  · rfl

theorem restore {s : State} (h : P s) (a c) : P (s.restore a c) := by
  have hf : ∀ {t : State} (p : PocketId), P t → P (t.modPocket p fun k =>
      if c.reserves p && decide (k.state = .reserved) then { k with state := .empty } else k) :=
    fun p ht => hP.freePocket ht p _ (·.unexpected)
  unfold State.restore; dsimp only
  repeat' split
  all_goals
    repeat' first
      | with_reducible exact h
      | with_reducible apply hf
      | with_reducible apply hP.onPlace

omit hP in
theorem foldl {α : Type} (f : State → α → State) (hf : ∀ s x, P s → P (f s x)) (xs : List α) {s : State} (h : P s) :
    P (xs.foldl f s) := by
  induction xs generalizing s with
  | nil => exact h
  | cons x xs ih => exact ih (hf _ _ h)

theorem judgePocket {s : State} (h : P s) (p) : P (s.judgePocket p) := by
  unfold State.judgePocket; dsimp only; repeat' split
  · exact h
  · exact hP.onPlace _ _ _ h
  · exact hP.onPocket _ _ _ (fun n => Iff.rfl) h
  · exact h

theorem loseMounted {s : State} (h : P s) (a k) : P (s.loseMounted a k) := by
  unfold State.loseMounted
  refine Keeps.foldl _ (fun t n ht => ?_) _ h
  split
  · exact hP.onPlace _ _ _ ht
  · exact ht

theorem resolveArm {s : State} (h : P s) (a f) : P (s.resolveArm a f) := by
  unfold State.resolveArm; repeat' split
  all_goals
    repeat' first
      | with_reducible exact h
      | with_reducible apply hP.setUnknown
      | with_reducible apply hP.onPlace
      | with_reducible apply hP.loseMounted

theorem resolved {s : State} (h : P s) (r) : P (s.resolved r) := by
  unfold State.resolved; dsimp only; repeat' split
  all_goals
    repeat' first
      | with_reducible exact h
      | with_reducible apply hP.setUnknown
      | with_reducible apply hP.onPlace
      | with_reducible apply hP.loseMounted
      | with_reducible apply hP.resolveArm

theorem markChanged {s : State} (h : P s) (t) : P (s.markChanged t) := by
  unfold State.markChanged; split
  · exact h
  · exact hP.other h rfl rfl rfl rfl rfl rfl rfl rfl rfl rfl rfl rfl

/-- A take record lost from its RESERVED pocket (R154). -/
theorem loseTake {s : State} (h : P s) (a n) : P (loseTake a n s) := by
  unfold Machine.loseTake; exact hP.report (hP.raise (hP.onPlace _ _ _ h) _ _) _

theorem confirmDrop {s : State} (h : P s) (a) : P (confirmDrop a s) := by
  have hu : ∀ p : PocketId, P (s.modPocket p fun k =>
      if k.state = PocketState.reserved then { k with state := .empty, unexpected := true } else k) := by
    intro p
    refine hP.onPocket s p _ ?_ h
    intro n
    split <;> simp_all
  have ho : Onward fun c : Context =>
      { c with dropConfirmed := true, step := if c.take.isSome then .awaitPick else .awaitDrop } := by
    intro c; constructor <;> intros <;> dsimp only <;> split <;> simp
  unfold Machine.confirmDrop; split
  · exact h
  · dsimp only
    repeat' split
    all_goals
      repeat' first
        | with_reducible exact h
        | with_reducible exact hu _
        | with_reducible apply hP.raise
        | with_reducible apply hP.startStepTimer
        | with_reducible refine hP.onRack _ _ (fun h => h) ?_
        | with_reducible apply hP.dropReads
        | with_reducible refine hP.onContext _ _ _ ho ?_
        | with_reducible apply hP.setUnknown
        | with_reducible apply hP.onPlace

theorem confirmPick {s : State} (h : P s) (a n p) : P (confirmPick a n p s) := by
  have h0 := hP.onPlace s n (.mounted a) h
  unfold Machine.confirmPick; dsimp only
  generalize s.place n (.mounted a) = s0 at *
  have h1 : P (if (s0.pockets.get p).state = .reserved then s0.vacate p else s0) := by
    split
    · rename_i hr
      exact hP.onPocket s0 p _ (fun n => by simp [hr]) h0
    · exact h0
  generalize (if (s0.pockets.get p).state = .reserved then s0.vacate p else s0) = s1 at *
  refine hP.raise (hP.onRack _ _ (fun h => h) (hP.onContext _ _ (fun c => { c with pickConfirmed := true })
    (fun c => ⟨id, fun _ h => h⟩) ?_)) _ _
  unfold State.modProbe
  cases hn : s1.probes.get n with
  | none =>
    have : s1.setProbe n none = s1 := by
      unfold State.setProbe
      have : Table.put s1.probes n none = s1.probes := by
        rw [← hn]; exact Vector.set_getElem_self _
      rw [this]
    simpa [this] using h1
  | some r => exact hP.onRecord s1 n r _ hn rfl h1

theorem failPick {s : State} (h : P s) (a n r) : P (failPick a n r s).1 := by
  unfold Machine.failPick; dsimp only
  exact hP.report (hP.failOpen (hP.setUnknown (hP.onPlace _ _ _ h) _ _) _ _) _

theorem dropRead {s : State} (h : P s) (a r) : P (dropRead a r s).1 := by
  unfold Machine.dropRead; split
  · dsimp only; split
    · exact hP.confirmDrop h _
    · exact h
  · dsimp only; split
    · exact hP.confirmDrop h _
    · exact h
  · exact h

theorem pickRead {s : State} (h : P s) (a r) : P (pickRead a r s).1 := by
  unfold Machine.pickRead; split
  · exact h
  · split
    · exact h
    · dsimp only
      split
      · repeat' split
        all_goals first
          | exact hP.confirmPick h _ _ _
          | exact hP.failPick h _ _ _
      · exact h

theorem askDropRead {s : State} (h : P s) (a) : P (s.askDropRead a) := hP.onRack _ _ (fun h => h) (hP.askRead h a .drop)

theorem dropLevel {s : State} (h : P s) (a v) : P (dropLevel a v s) := by
  unfold Machine.dropLevel; split
  · exact hP.askDropRead h _
  · exact hP.dropReads h _

theorem reservedChange {s : State} (h : P s) (a c p v) : P (reservedChange a c p v s).1 := by
  unfold Machine.reservedChange; split
  · split
    all_goals first
      | exact h
      | exact hP.dropLevel h _ _
  · split
    · exact h
    · split
      · exact h
      · split
        · exact hP.loseTake h _ _
        · exact hP.loseTake h _ _
        · exact hP.failOpen (hP.loseTake h _ _) _ _
        · dsimp only; split
          · exact h
          · exact hP.askRead h _ _
        · exact h

/-! ### Pieces of work -/

theorem scan {s : State} (h : P s) : P (scan s).1 := by
  unfold Machine.scan; split
  · exact h
  · dsimp only; split
    · exact hP.takeZones (hP.onDropEntry _ _ h) _ _
    · exact hP.onGrantRack _ _ _ (hP.onDropEntry _ _ h)

theorem request {s : State} (h : P s) (a e) : P (request a e s).1 := by
  unfold Machine.request; dsimp only; split
  · split
    · exact h
    · split
      · exact hP.tidyLinger (hP.takeZones h _ _) _
      · dsimp only; split
        · exact hP.raise (hP.setPhase h _ _) _ _
        · exact h
  · exact h

theorem append {s : State} (h : P s) (a) : P (append a s).1 := by
  unfold Machine.append; split
  · exact h
  · exact hP.onAppendEntry _ _ h

theorem judge {s : State} (h : P s) (a) : P (judge a s).1 := by
  unfold Machine.judge; split
  · exact h
  · split
    · have h1 := fun (hs : List Handover) =>
        (hP.other (t := { s with handover := s.handover ++ hs }) h rfl rfl rfl rfl rfl rfl rfl rfl rfl rfl rfl rfl)
      dsimp only; split
      · exact hP.raiseAll (hP.hold (hP.endHead (hP.onDropEntry _ _ (h1 _)) _ _) _ _) _
      · exact h1 _
    · split
      · exact hP.raiseAll h _
      · exact h

theorem recomputeCore {s : State} (h : P s) (a b) : P (recomputeCore a b s).1 := by
  unfold Machine.recomputeCore; dsimp only
  refine hP.other (hP.onHolders s _ ?_ h) rfl rfl rfl rfl rfl rfl rfl rfl rfl rfl rfl rfl
  intro z c hz
  simp only [Table.get_mapIdx] at hz
  split at hz
  · unfold State.standingHolder at hz
    split at hz
    · split at hz
      · split at hz <;> simp at hz
      · cases hz
    · split at hz
      · exact hz
      · split at hz
        · split at hz <;> simp at hz
        · split at hz
          · split at hz
            · exact hz
            · split at hz <;> simp at hz
          · exact hz
  · exact hz

theorem recompute {s : State} (h : P s) (a b) : P (recompute a b s).1 := by
  unfold Machine.recompute; split
  · exact h
  · split
    · exact hP.other h rfl rfl rfl rfl rfl rfl rfl rfl rfl rfl rfl rfl
    · exact hP.recomputeCore h _ _

theorem recomputeOwed {s : State} (h : P s) (a) : P (recomputeOwed a s).1 := by
  unfold Machine.recomputeOwed; split
  · apply hP.recompute
    exact hP.other h rfl rfl rfl rfl rfl rfl rfl rfl rfl rfl rfl rfl
  · exact h

theorem startLinger {s : State} (h : P s) (a) : P (startLinger a s).1 := by
  unfold Machine.startLinger; dsimp only; repeat' split
  · exact hP.other h rfl rfl rfl rfl rfl rfl rfl rfl rfl rfl rfl rfl
  · exact h
  · exact hP.other h rfl rfl rfl rfl rfl rfl rfl rfl rfl rfl rfl rfl

theorem settleZones {s : State} (h : P s) (a) : P (settleZones a s).1 := by
  unfold Machine.settleZones; dsimp only; split
  · exact h
  · refine hP.onHolders s _ ?_ h
    intro z b hz
    simp only [Table.get_mapIdx] at hz
    split at hz
    · simp at hz
    · exact hz

theorem activate {s : State} (h : P s) (a) : P (activate a s).1 := by
  unfold Machine.activate; dsimp only; split
  · exact h
  · unfold activateZones
    rename_i hd tl e
    have h1 : P ((s.modMotion a fun m => { m with
        queue := tl, geometry := none, active := some (s.work a hd (s.motion.get a).geometry) }).setPhase a .moving) :=
      hP.setPhase (hP.modMotion h _ _ rfl fun hl => by rw [e] at hl; simp at hl ⊢; omega) _ _
    generalize (s.modMotion a fun m => { m with
        queue := tl, geometry := none, active := some (s.work a hd (s.motion.get a).geometry) }).setPhase a .moving = t at *
    refine hP.other (hP.onHolders t _ ?_ h1) rfl rfl rfl rfl rfl rfl rfl rfl rfl rfl rfl rfl
    intro z b hz
    simp only [Table.get_mapIdx] at hz
    split at hz
    · simp at hz
    · exact hz

theorem stages {s : State} (h : P s) (a m g) : P (stages a m g s).1 := by
  unfold Machine.stages; repeat' split
  · exact hP.endHeld h _ _ _
  · exact hP.endHeld h _ _ _
  · exact hP.hold (hP.modMotion h _ _) _ _
  · dsimp only; exact hP.modMotion h _ _

theorem evaluate {s : State} (h : P s) (a) : P (evaluate a s).1 := by
  unfold Machine.evaluate; dsimp only; repeat' split
  all_goals try dsimp only
  all_goals first
    | exact hP.stages h _ _ _
    | exact h
    | exact hP.setPhase h _ _
    | exact hP.modMotion h _ _
    | exact hP.endHeld h _ _ _
    | exact hP.raise (hP.setPhase h _ _) _ _
    | exact hP.endHead h _ _

theorem segmentEnd {s : State} (h : P s) (a o) : P (segmentEnd a o s).1 := by
  unfold Machine.segmentEnd; dsimp only; split
  · exact h
  · exact hP.addResult (hP.modMotion h _ _) _ _ _ _

theorem afterEnd {s : State} (h : P s) (a o) : P (afterEnd a o s).1 := by
  have h1 := hP.modMotion h a fun m => { m with holdPending := false }
  unfold Machine.afterEnd; dsimp only; repeat' split
  · exact hP.setPhase (hP.flush h1 _) _ _
  · exact hP.hold h1 _ _
  · exact hP.hold h1 _ _
  · exact hP.hold h1 _ _
  · exact h1

theorem completeReset {s : State} (h : P s) (a) : P (completeReset a s).1 := by
  unfold Machine.completeReset; dsimp only
  exact hP.modMotion (hP.flush h a) _ _

theorem finishReset {s : State} (h : P s) (a) : P (finishReset a s).1 :=
  hP.withdraw (hP.stopLinger (hP.setPhase (hP.modMotion (hP.modCapture h _ _) _ _) _ _) _) _ _

theorem releaseRack {s : State} (h : P s) (a) : P (releaseRack a s).1 := by
  unfold Machine.releaseRack; split
  · exact h
  · exact hP.freeRack h _

theorem armStopped {s : State} (h : P s) (a e) : P (armStopped a e s).1 := by
  unfold Machine.armStopped; split <;> dsimp only
  · exact h
  · exact h
  · split
    · exact hP.failOpen h _ _
    · exact h
  · split
    · exact hP.failOpen h _ _
    · exact h
  · exact h

theorem requestRack {s : State} (h : P s) (a) : P (requestRack a s).1 := by
  unfold Machine.requestRack; repeat' split
  · exact h
  · exact hP.onGrantRack _ _ _ h
  · exact h

theorem appendChange {s : State} (h : P s) (a) : P (appendChange a s).1 := by
  unfold Machine.appendChange; split
  · exact h
  · exact hP.onAppendEntry _ _ h

theorem openCheck {s : State} (h : P s) (a) : P (openCheck a s).1 := by
  unfold Machine.openCheck; dsimp only; split
  · refine hP.raise (hP.startStepTimer (hP.onRack _ _ (fun h => h) (hP.onContext _ _ _ ?_ h))) _ _
    intro c; constructor <;> intros <;> dsimp only <;> split <;> simp
  · exact h

omit hP in
theorem closedCheck {s : State} (h : P s) (a) : P (closedCheck a s).1 := by
  unfold Machine.closedCheck; repeat' split
  all_goals exact h

theorem endChange {s : State} (h : P s) (a o) : P (endChange a o s).1 := by
  unfold Machine.endChange; split
  · exact h
  · have h1 := hP.onRack _ (fun r => { r with rackTimer := none, stepTimer := none, req := false }) (by simp)
      (hP.dropReads h a)
    dsimp only; repeat' split
    all_goals first
      | exact hP.withdraw h _ _
      | exact hP.withdraw (hP.restore h _ _) _ _
      | exact h1
      | exact hP.restore h1 _ _

theorem removeChange {s : State} (h : P s) (a o) : P (removeChange a o s).1 := by
  refine hP.raise ?_ _ _
  exact hP.other (hP.onDropContext _ a h) rfl rfl rfl rfl rfl rfl rfl rfl rfl rfl rfl rfl

theorem setRackFault {s : State} (h : P s) : P (setRackFault s).1 := hP.raise (hP.onRack _ _ (fun h => h) h) _ _

theorem sensorConflict {s : State} (h : P s) : P (sensorConflict s).1 := hP.setRackFault (hP.report h _)

theorem holdRequest {s : State} (h : P s) (a) : P (holdRequest a s).1 := by
  unfold Machine.holdRequest; split
  · exact hP.hold h _ _
  · exact hP.hold h _ _
  · exact hP.hold (hP.withdraw (hP.modMotion h _ _) _ _) _ _
  · exact hP.enterStop (hP.modMotion h _ _) _ _
  · dsimp only; exact hP.modMotion h _ _
  all_goals exact h

theorem startInventory {s : State} (h : P s) : P (startInventory s).1 := by
  have h1 := Keeps.foldl (P := P) State.judgePocket (fun t p (ht : P t) => hP.judgePocket ht p) allPockets h
  unfold Machine.startInventory; dsimp only
  generalize allPockets.foldl State.judgePocket s = s1 at *
  have h2 : ∀ i : Inventory, P { s1 with inventory := i } := fun i => hP.other h1 rfl rfl rfl rfl rfl rfl rfl rfl rfl rfl rfl rfl
  cases s.readArms.a <;> cases s.readArms.b
  · exact h2 _
  · exact hP.askRead (h2 _) _ _
  · exact hP.askRead (h2 _) _ _
  · exact hP.askRead (hP.askRead (h2 _) _ _) _ _

theorem askInventory {s : State} (h : P s) : P (askInventory s).1 := by
  unfold Machine.askInventory; split
  · exact hP.startInventory h
  · exact hP.other h rfl rfl rfl rfl rfl rfl rfl rfl rfl rfl rfl rfl

theorem resolveInventory {s : State} (h : P s) : P (resolveInventory s).1 := by
  unfold Machine.resolveInventory; split
  · exact h
  · exact hP.markChanged (hP.resolved h _) _

theorem becomeReady {s : State} (h : P s) : P (becomeReady s).1 := by
  have ready : ∀ x : LinkState, x.attn = attnOf x.flags x.mask →
      (x.atReady s.loadFaults).attn = attnOf (x.atReady s.loadFaults).flags (x.atReady s.loadFaults).mask := by
    intro x hx
    unfold LinkState.atReady
    repeat' split
    all_goals exact hx
  have h1 := hP.modLink (hP.modLink (hP.modLink h .A _ ready) .B _ ready) .S _ ready
  unfold Machine.becomeReady; dsimp only
  apply hP.raiseAll
  exact hP.other h1 rfl rfl rfl rfl rfl rfl rfl rfl rfl rfl rfl rfl

theorem endInventory {s : State} (h : P s) : P (endInventory s).1 := by
  unfold Machine.endInventory; split
  · exact h
  · rename_i changed _
    dsimp only
    have h1 : P (if (changed && s.ready) = true then s.raise .S .pocketChanged else s) := by
      split
      · exact hP.raise h _ _
      · exact h
    generalize (if (changed && s.ready) = true then s.raise .S .pocketChanged else s) = s1 at *
    split
    · exact hP.startInventory h1
    · split
      · apply hP.becomeReady
        exact hP.other h1 rfl rfl rfl rfl rfl rfl rfl rfl rfl rfl rfl rfl
      · exact hP.other h1 rfl rfl rfl rfl rfl rfl rfl rfl rfl rfl rfl rfl

/-- Every piece of work keeps such a property. -/
theorem perform (t : Task) {s : State} (h : P s) : P (perform t s).1 := by
  cases t <;> simp only [Machine.perform]
  case evaluate => exact hP.evaluate h _
  case request => exact hP.request h _ _
  case activate => exact hP.activate h _
  case release => exact hP.release h _ _
  case releaseLoose => exact hP.release h _ _
  case releaseRack => exact hP.releaseRack h _
  case scan => exact hP.scan h
  case append => exact hP.append h _
  case judge => exact hP.judge h _
  case appendChange => exact hP.appendChange h _
  case recompute => exact hP.recompute h _ _
  case recomputeEnd => exact hP.recompute h _ _
  case recomputeOwed => exact hP.recomputeOwed h _
  case linger => exact hP.startLinger h _
  case settleZones => exact hP.settleZones h _
  case segmentEnd => exact hP.segmentEnd h _ _
  case afterEnd => exact hP.afterEnd h _ _
  case completeReset => exact hP.completeReset h _
  case finishReset => exact hP.finishReset h _
  case clearFlags => exact hP.modLink h _ _
  case armStopped => exact hP.armStopped h _ _
  case requestRack => exact hP.requestRack h _
  case openCheck => exact hP.openCheck h _
  case closedCheck => exact Keeps.closedCheck h _
  case endChange => exact hP.endChange h _ _
  case removeChange => exact hP.removeChange h _ _
  case sensorConflict => exact hP.sensorConflict h
  case holdRequest => exact hP.holdRequest h _
  case askInventory => exact hP.askInventory h
  case resolveInventory => exact hP.resolveInventory h
  case endInventory => exact hP.endInventory h

/-- Every cascade keeps such a property. -/
theorem settle {e : Eff} (h : P e.1) : P (settle e) := settle_keeps P (fun t _ hs => hP.perform t hs) e h

end Keeps

end Sys2Proof.Machine
end

