-- ==== Sys2Proof/Laws/Invariants.lean ====
section
/-! SUPPORT. The shared operations keep each invariant of Sys2Proof/Safety.lean: the bounds of the lists and counters, DEN
with the arm state, ATTN with the flags, the agreement of the probe and pocket tables, the rack held and asked open for a
change alone, and one waiter entry per arm. So every piece of work keeps them. -/
namespace Sys2Proof.Machine
open Sys2Proof.Safety

/-! ### Fields a placed record leaves -/

theorem State.leave_fields (s : State) (n : Slot) (pl : Place) : ∃ ks, s.leave n pl = { s with pockets := ks } := by
  unfold State.leave
  split
  · split <;> exact ⟨_, rfl⟩
  · exact ⟨_, rfl⟩

theorem State.displace_fields (s : State) (n : Slot) (pl : Place) : ∃ ps, s.displace n pl = { s with probes := ps } := by
  unfold State.displace; split <;> exact ⟨_, rfl⟩

/-- A record put in a place touches the tables of records and pockets and the UNKNOWN flags alone. -/
theorem State.place_fields (s : State) (n : Slot) (pl : Place) : ∃ (ps : Table 32 (Option Probe)) (ks : Table 12 Pocket)
    (us : PerArm Bool), s.place n pl = { s with probes := ps, pockets := ks, unknown := us } := by
  unfold State.place
  split
  · exact ⟨_, _, _, rfl⟩
  · rename_i p _
    obtain ⟨ks, h⟩ := s.leave_fields n p.place
    dsimp only
    rw [h]
    obtain ⟨ps, h⟩ := State.displace_fields { s with pockets := ks } n pl
    rw [h]
    split <;> exact ⟨_, _, _, rfl⟩

/-- What a grant of the RACK zone leaves of the fields the invariants speak of. -/
theorem grantRack_fields {a : Arm} {s : State} (zs : List ZoneId) (h : s.stepOf a = some .waitRack) :
    (grantRack a zs s).1.holders = Table.mapIdx s.holders (fun z h => if zs.contains z then some (a, .change) else h)
    ∧ (grantRack a zs s).1.change = (s.modContext a fun c => { c with step := .opening }).change
    ∧ (grantRack a zs s).1.waiters = s.waiters ∧ (grantRack a zs s).1.probes = s.probes
    ∧ (grantRack a zs s).1.pockets = s.pockets := by
  unfold grantRack
  rw [if_pos h]
  simp [State.startRackTimer, State.modContext]

/-- What an entry into CLOSING leaves of the fields the invariants speak of. -/
theorem enterClosing_fields (a : Arm) (o : ChangeOutcome) (s : State) :
    (enterClosing a o s).1.holders = s.holders
    ∧ (enterClosing a o s).1.change = (s.modContext a fun c => { c with step := .closing, closing := some o }).change
    ∧ (enterClosing a o s).1.rack.req = false ∧ (enterClosing a o s).1.waiters = s.waiters
    ∧ (enterClosing a o s).1.probes = s.probes ∧ (enterClosing a o s).1.pockets = s.pockets := by
  simp [enterClosing, State.startRackTimer, State.dropReads, State.modContext]

/-! ### One waiter entry per arm -/

theorem State.entry_none {s : State} {a : Arm} (h : s.entry a = none) : a ∉ s.waiters.map (·.arm) := by
  simp only [State.entry, List.find?_eq_none] at h
  intro hm
  obtain ⟨w, hw, rfl⟩ := List.mem_map.1 hm
  simpa using h w hw

theorem OneEntry_appendEntry {s : State} (w : Waiter) (h : OneEntry s) : OneEntry (s.appendEntry w) := by
  unfold State.appendEntry
  split
  · exact h
  · rename_i hn
    have hn : s.entry w.arm = none := by simpa using hn
    unfold OneEntry at *
    simp only [List.map_append, List.map_cons, List.map_nil]
    rw [List.nodup_append]
    refine ⟨h, by simp, ?_⟩
    intro x hx y hy e
    subst e
    simp only [List.mem_singleton] at hy
    subst hy
    exact State.entry_none hn hx

theorem OneEntry_dropEntry {s : State} (a : Arm) (h : OneEntry s) : OneEntry (s.dropEntry a) :=
  List.Nodup.sublist (List.Sublist.map _ List.filter_sublist) h

theorem OneEntry_same {s t : State} (h : OneEntry s) (e : t.waiters = s.waiters) : OneEntry t := by
  unfold OneEntry; rw [e]; exact h

theorem OneEntry_keeps : Keeps OneEntry where
  same _ _ _ _ _ _ _ _ _ h _ _ _ _ hs := OneEntry_same hs h
  onLink _ _ _ _ h := OneEntry_same h rfl
  onCount _ h := OneEntry_same h rfl
  onSnapshot _ _ _ h := OneEntry_same h rfl
  onPhase _ _ _ h := OneEntry_same h rfl
  onResult _ _ _ _ _ h := OneEntry_same h rfl
  onMotion _ _ _ _ _ _ _ h := OneEntry_same h rfl
  onAxes _ _ _ _ _ h := OneEntry_same h rfl
  onCapture _ _ _ _ _ h := OneEntry_same h rfl
  onHolders _ _ _ h := h
  onDropEntry _ a h := OneEntry_dropEntry a h
  onAppendEntry _ w h := OneEntry_appendEntry w h
  onGrantRack a zs s h := by
    by_cases hw : s.stepOf a = some .waitRack
    · exact OneEntry_same h (grantRack_fields zs hw).2.2.1
    · unfold grantRack; rw [if_neg hw]; exact h
  onPlace s n pl h := by
    obtain ⟨_, _, _, e⟩ := s.place_fields n pl
    rw [e]; exact h
  onPocket _ _ _ _ h := h
  onRecord _ _ _ _ _ _ h := h
  onRack _ _ _ h := h
  onContext _ _ _ _ h := h
  onClosing a o s h := OneEntry_same h (enterClosing_fields a o s).2.2.2.1
  onDropContext _ _ h := OneEntry_same h rfl

/-! ### The rack held and asked open for a change -/

/-- A step in which the cover is asked open (R146). -/
theorem open_iff (c : Context) : (c.step = .opening ∨ c.step = .awaitDrop ∨ c.step = .awaitPick ∨ c.step = .failedOpen)
    ↔ (c.step ≠ .waitRack ∧ c.step ≠ .closing) := by
  cases c.step <;> simp

theorem State.asksOpen_iff (s : State) (a : Arm) : s.asksOpen a = true ↔ ∃ c, s.change.get a = some c
    ∧ (c.step = .opening ∨ c.step = .awaitDrop ∨ c.step = .awaitPick ∨ c.step = .failedOpen) := by
  unfold State.asksOpen
  cases h : s.change.get a with
  | none => simp
  | some c => simp [open_iff]

theorem RackHeld_same {s t : State} (h : RackHeld s) (h1 : t.holders = s.holders) (h2 : t.change = s.change)
    (h3 : t.rack.req = s.rack.req) : RackHeld t := by
  unfold RackHeld; rw [h1, h2, h3]; exact h

theorem RackHeld_holders {s : State} {hs : Table 16 (Option (Arm × HoldWhy))}
    (e : ∀ z a, hs.get z = some (a, .change) → s.holders.get z = some (a, .change)) (h : RackHeld s) :
    RackHeld { s with holders := hs } :=
  ⟨fun z a hz => h.1 z a (e z a hz), h.2⟩

theorem RackHeld_rack {s : State} {f : Rack → Rack} (e : (f s.rack).req = true → s.rack.req = true) (h : RackHeld s) :
    RackHeld (s.modRack f) :=
  ⟨h.1, fun hr => h.2 (e hr)⟩

/-- A read of a context after another has been written. -/
theorem get_modContext (s : State) (a b : Arm) (f : Context → Context) :
    (s.modContext a f).change.get b = if b = a then (s.change.get b).map f else s.change.get b := by
  unfold State.modContext State.setContext
  rw [PerArm.get_set_if]
  split
  · rename_i h; rw [h]
  · rfl

theorem RackHeld_context {s : State} {a : Arm} {f : Context → Context} (e : Onward f) (h : RackHeld s) :
    RackHeld (s.modContext a f) := by
  constructor
  · intro z b hz
    obtain ⟨c, hc, hw⟩ := h.1 z b hz
    rw [get_modContext]
    split
    · exact ⟨f c, by simp [hc], (e c).1 hw⟩
    · exact ⟨c, hc, hw⟩
  · intro hr
    obtain ⟨b, c, hc, hs⟩ := h.2 hr
    refine ⟨b, ?_⟩
    rw [get_modContext]
    rw [open_iff] at hs
    split
    · exact ⟨f c, by simp [hc], (open_iff _).2 ⟨(e c).1 hs.1, (e c).2 hs.1 hs.2⟩⟩
    · exact ⟨c, hc, (open_iff _).2 hs⟩

theorem State.stepOf_some {s : State} {a : Arm} {x : Step} (h : s.stepOf a = some x) :
    ∃ c, s.change.get a = some c ∧ c.step = x := by
  unfold State.stepOf at h
  cases hc : s.change.get a with
  | none => simp [hc] at h
  | some c => exact ⟨c, rfl, by simpa [hc] using h⟩

theorem RackHeld_grantRack {s : State} (a : Arm) (zs : List ZoneId) (h : RackHeld s) :
    RackHeld (grantRack a zs s).1 := by
  by_cases hw : s.stepOf a = some .waitRack
  · obtain ⟨hh, hc, -⟩ := grantRack_fields zs hw
    obtain ⟨c, hs, -⟩ := State.stepOf_some hw
    unfold RackHeld
    rw [hh, hc]
    constructor
    · intro z b hz
      rw [Table.get_mapIdx] at hz
      rw [get_modContext]
      split
      · rename_i hb; subst hb
        exact ⟨_, by rw [hs]; rfl, by simp⟩
      · rename_i hb
        split at hz
        · simp only [Option.some.injEq, Prod.mk.injEq, and_true] at hz; exact absurd hz.symm hb
        · exact h.1 z b hz
    · intro _
      exact ⟨a, { c with step := .opening }, by rw [get_modContext, if_pos rfl, hs]; rfl, Or.inl rfl⟩
  · unfold grantRack; rw [if_neg hw]; exact h

theorem RackHeld_enterClosing {s : State} (a : Arm) (o : ChangeOutcome) (h : RackHeld s) :
    RackHeld (enterClosing a o s).1 := by
  obtain ⟨hh, hc, hq, -⟩ := enterClosing_fields a o s
  constructor
  · intro z b hz
    rw [hh] at hz
    obtain ⟨c, hb, hw⟩ := h.1 z b hz
    rw [hc, get_modContext]
    split
    · exact ⟨_, by rw [hb]; rfl, by simp⟩
    · exact ⟨c, hb, hw⟩
  · intro hr
    rw [hq] at hr; cases hr

theorem RackHeld_dropContext {s : State} (a : Arm) (h : RackHeld s) : RackHeld (s.dropContext a) := by
  have hh : (s.dropContext a).holders = Table.map (fun h => if h = some (a, .change) then none else h) s.holders := rfl
  have hc : (s.dropContext a).change = s.change.set a none := rfl
  have hq : (s.dropContext a).rack.req = (s.rack.req && s.asksOpen a.other) := rfl
  have ho : a.other ≠ a := by cases a <;> simp [Arm.other]
  unfold RackHeld
  rw [hh, hc, hq]
  constructor
  · intro z b hz
    rw [Table.get_map] at hz
    split at hz
    · cases hz
    · rename_i hn
      have hb : b ≠ a := by rintro rfl; exact hn hz
      obtain ⟨c, hb', hw⟩ := h.1 z b hz
      exact ⟨c, by rw [PerArm.get_set_ne _ _ hb]; exact hb', hw⟩
  · intro hr
    rw [Bool.and_eq_true] at hr
    obtain ⟨c, hb, hs⟩ := (State.asksOpen_iff _ _).1 hr.2
    exact ⟨a.other, c, by rw [PerArm.get_set_ne _ _ ho]; exact hb, hs⟩

theorem RackHeld_keeps : Keeps RackHeld where
  same _ _ _ _ _ _ _ _ h _ hc hr _ _ hs := RackHeld_same hs h hc hr
  onLink _ _ _ _ h := RackHeld_same h rfl rfl rfl
  onCount _ h := RackHeld_same h rfl rfl rfl
  onSnapshot _ _ _ h := RackHeld_same h rfl rfl rfl
  onPhase _ _ _ h := RackHeld_same h rfl rfl rfl
  onResult _ _ _ _ _ h := RackHeld_same h rfl rfl rfl
  onMotion _ _ _ _ _ _ _ h := RackHeld_same h rfl rfl rfl
  onAxes _ _ _ _ _ h := RackHeld_same h rfl rfl rfl
  onCapture _ _ _ _ _ h := RackHeld_same h rfl rfl rfl
  onHolders _ _ e h := RackHeld_holders e h
  onDropEntry _ _ h := RackHeld_same h rfl rfl rfl
  onAppendEntry s w h := by
    unfold State.appendEntry; split
    · exact h
    · exact RackHeld_same h rfl rfl rfl
  onGrantRack a zs _ h := RackHeld_grantRack a zs h
  onPlace s n pl h := by
    obtain ⟨_, _, _, e⟩ := s.place_fields n pl
    rw [e]; exact h
  onPocket _ _ _ _ h := RackHeld_same h rfl rfl rfl
  onRecord _ _ _ _ _ _ h := RackHeld_same h rfl rfl rfl
  onRack _ _ e h := RackHeld_rack e h
  onContext _ _ _ e h := RackHeld_context e h
  onClosing a o _ h := RackHeld_enterClosing a o h
  onDropContext _ a h := RackHeld_dropContext a h

/-! ### The tables of records and pockets -/

theorem Tables_same {s t : State} (h : Tables s) (h1 : t.probes = s.probes) (h2 : t.pockets = s.pockets) : Tables t := by
  unfold Tables; rw [h1, h2]; exact h

/-- A pocket whose occupant does not change. -/
theorem Tables_pocket {s : State} {p : PocketId} {f : Pocket → Pocket}
    (e : ∀ n, (f (s.pockets.get p)).state = .occupied n ↔ (s.pockets.get p).state = .occupied n) (h : Tables s) :
    Tables (s.modPocket p f) := by
  refine ⟨fun q n => ?_, h.2⟩
  show ((Table.put s.pockets p (f (s.pockets.get p))).get q).state = _ ↔ _
  rw [Table.get_put]
  split
  · rename_i hq; subst hq; exact (e n).trans (h.1 q n)
  · exact h.1 q n

/-- A record that keeps its place. -/
theorem Tables_record {s : State} {n : Slot} {p q : Probe} (hp : s.probes.get n = some p) (e : q.place = p.place)
    (h : Tables s) : Tables (s.setProbe n (some q)) := by
  have key : ∀ (m : Slot) (pl : Place), (∃ r, (Table.put s.probes n (some q)).get m = some r ∧ r.place = pl)
      ↔ ∃ r, s.probes.get m = some r ∧ r.place = pl := by
    intro m pl
    rw [Table.get_put]
    split
    · rename_i hm; subst hm
      constructor
      · rintro ⟨r, hr, rfl⟩; cases hr; exact ⟨p, hp, e.symm⟩
      · rintro ⟨r, hr, rfl⟩; rw [hp] at hr; cases hr; exact ⟨q, rfl, e⟩
    · rfl
  refine ⟨fun k m => (h.1 k m).trans (key m _).symm, fun a m k x y hx hy ha hb => ?_⟩
  obtain ⟨x', hx', ha'⟩ := (key m _).1 ⟨x, hx, ha⟩
  obtain ⟨y', hy', hb'⟩ := (key k _).1 ⟨y, hy, hb⟩
  exact h.2 a m k x' y' hx' hy' ha' hb'

/-- The place of every record after one has been put in a place: the record itself is there, any other that stood there,
where the place holds one module, is LOST, and every other record stays. -/
theorem get_displace (s : State) (n m : Slot) (pl : Place) :
    (s.displace n pl).probes.get m = if m = n ∨ pl.single = false then s.probes.get m
      else (s.probes.get m).map fun q => if q.place = pl then { q with place := .lost } else q := by
  unfold State.displace
  cases pl.single <;> simp

theorem Tables_place {s : State} (n : Slot) (pl : Place) (h : Tables s) : Tables (s.place n pl) := by
  cases hn : s.probes.get n with
  | none => unfold State.place; rw [hn]; exact h
  | some p =>
    -- the records and the pockets of the result
    have hr : ∀ m, (s.place n pl).probes.get m = if m = n then some { p with place := pl } else
        (s.displace n pl).probes.get m := by
      intro m
      obtain ⟨ks, hl⟩ := s.leave_fields n p.place
      have : (Table.put (State.displace { s with pockets := ks } n pl).probes n (some { p with place := pl })).get m
          = if m = n then some { p with place := pl } else (s.displace n pl).probes.get m := by
        rw [Table.get_put, get_displace, get_displace]
      unfold State.place; rw [hn]; dsimp only
      rw [hl]
      split <;> exact this
    have hk : ∀ k, ((s.place n pl).pockets.get k).state = if pl = .stored k then .occupied n
        else if p.place = .stored k then .empty else (s.pockets.get k).state := by
      intro k
      have hv : ((s.leave n p.place).pockets.get k).state
          = if p.place = .stored k then .empty else (s.pockets.get k).state := by
        unfold State.leave
        cases hp : p.place with
        | stored j =>
          dsimp only
          rw [if_pos ((h.1 j n).2 ⟨p, hn, hp⟩)]
          show ((Table.put s.pockets j _).get k).state = _
          rw [Table.get_put]
          by_cases hj : k = j
          · subst hj; simp
          · rw [if_neg hj, if_neg (by simpa using fun e => hj e.symm)]
        | _ => simp
      unfold State.place; rw [hn]; dsimp only
      obtain ⟨ps, hd⟩ := State.displace_fields (s.leave n p.place) n pl
      rw [hd, ← hv]
      cases pl with
      | stored i =>
        show ((Table.put (s.leave n p.place).pockets i _).get k).state = _
        rw [Table.get_put]
        by_cases hi : k = i
        · subst hi; simp
        · rw [if_neg hi, if_neg (by simpa using fun e => hi e.symm)]
      | _ => rfl
    -- which records stand at a place, after
    have hw : ∀ (m : Slot) (q : Place), q ≠ .lost → (∀ a, q ≠ .inTransit a) →
        ((∃ r, (s.place n pl).probes.get m = some r ∧ r.place = q) ↔
          if m = n then pl = q else pl ≠ q ∧ ∃ r, s.probes.get m = some r ∧ r.place = q) := by
      intro m q hl ht
      rw [hr m]
      by_cases hm : m = n
      · rw [if_pos hm, if_pos hm]
        constructor
        · rintro ⟨r, hr, rfl⟩; cases hr; rfl
        · rintro rfl; exact ⟨_, rfl, rfl⟩
      · rw [if_neg hm, if_neg hm, get_displace]
        split
        · rename_i hc
          have : pl ≠ q := by
            rintro rfl
            cases pl <;> simp_all [Place.single]
          simp [this]
        · constructor
          · rintro ⟨r, hr, rfl⟩
            cases hs : s.probes.get m with
            | none => rw [hs] at hr; cases hr
            | some x =>
              rw [hs] at hr
              simp only [Option.map_some, Option.some.injEq] at hr
              subst hr
              split
              · rename_i he
                rw [if_pos he] at hl
                exact absurd rfl hl
              · rename_i he; exact ⟨fun e => he e.symm, x, rfl, rfl⟩
          · rintro ⟨hne, r, hr, rfl⟩
            refine ⟨r, ?_, rfl⟩
            rw [hr]
            simp [Ne.symm hne]
    constructor
    · intro k m
      rw [hw m (.stored k) (by simp) (by simp), hk k]
      by_cases hpl : pl = .stored k
      · simp only [hpl, if_true, ne_eq, not_true_eq_false, false_and]
        constructor
        · intro e; cases e; simp
        · split
          · rename_i e; intro _; rw [e]
          · exact False.elim
      · simp only [hpl, if_false]
        by_cases hpk : p.place = .stored k
        · simp only [hpk, if_true, reduceCtorEq, false_iff]
          split
          · exact id
          · rename_i hm
            rintro ⟨-, x, hx, hxk⟩
            have h1 := (h.1 k m).2 ⟨x, hx, hxk⟩
            have h2 := (h.1 k n).2 ⟨p, hn, hpk⟩
            rw [h1] at h2
            exact hm (by simpa using h2)
        · simp only [hpk, if_false]
          rw [h.1 k m]
          split
          · rename_i hm; subst hm
            simp only [iff_false]
            rintro ⟨x, hx, hxk⟩
            rw [hn] at hx; cases hx
            exact hpk hxk
          · simp [hpl]
    · intro a m k x y hx hy ha hb
      have h1 := (hw m (.mounted a) (by simp) (by simp)).1 ⟨x, hx, ha⟩
      have h2 := (hw k (.mounted a) (by simp) (by simp)).1 ⟨y, hy, hb⟩
      split at h1 <;> split at h2
      · rename_i e1 e2; rw [e1, e2]
      · exact absurd h1 h2.1
      · exact absurd h2 h1.1
      · obtain ⟨-, u, hu, hua⟩ := h1
        obtain ⟨-, v, hv, hva⟩ := h2
        exact h.2 a m k u v hu hv hua hva

theorem Tables_keeps : Keeps Tables where
  same _ _ _ _ _ _ _ _ _ _ _ _ h1 h2 hs := Tables_same hs h1 h2
  onLink _ _ _ _ h := Tables_same h rfl rfl
  onCount _ h := Tables_same h rfl rfl
  onSnapshot _ _ _ h := Tables_same h rfl rfl
  onPhase _ _ _ h := Tables_same h rfl rfl
  onResult _ _ _ _ _ h := Tables_same h rfl rfl
  onMotion _ _ _ _ _ _ _ h := Tables_same h rfl rfl
  onAxes _ _ _ _ _ h := Tables_same h rfl rfl
  onCapture _ _ _ _ _ h := Tables_same h rfl rfl
  onHolders _ _ _ h := Tables_same h rfl rfl
  onDropEntry _ _ h := Tables_same h rfl rfl
  onAppendEntry s w h := by
    unfold State.appendEntry; split
    · exact h
    · exact Tables_same h rfl rfl
  onGrantRack a zs s h := by
    by_cases hw : s.stepOf a = some .waitRack
    · exact Tables_same h (grantRack_fields zs hw).2.2.2.1 (grantRack_fields zs hw).2.2.2.2
    · unfold grantRack; rw [if_neg hw]; exact h
  onPlace _ n pl h := Tables_place n pl h
  onPocket _ _ _ e h := Tables_pocket e h
  onRecord _ _ _ _ hp e h := Tables_record hp e h
  onRack _ _ _ h := Tables_same h rfl rfl
  onContext _ _ _ _ h := Tables_same h rfl rfl
  onClosing a o s h := Tables_same h (enterClosing_fields a o s).2.2.2.2.1 (enterClosing_fields a o s).2.2.2.2.2
  onDropContext _ _ h := Tables_same h rfl rfl

/-! ### Bounds, DEN and ATTN -/

theorem Bounds_same {s t : State} (h : Bounds s) (h1 : t.motion = s.motion) (h2 : t.axes = s.axes)
    (h3 : t.capture = s.capture) (h4 : t.faultCount = s.faultCount) (h5 : t.snapshot.epoch = s.snapshot.epoch) :
    Bounds t := by
  unfold Bounds ArmBounds; rw [h1, h2, h3, h4, h5]; exact h

/-- The bounds arm by arm. -/
theorem Bounds_iff (s : State) : Bounds s ↔ (∀ a, ArmBounds s a) ∧ s.faultCount ≤ 65535 ∧ s.snapshot.epoch < 65536 :=
  ⟨fun h => ⟨fun a => match a with | .A => h.1 | .B => h.2.1, h.2.2⟩, fun h => ⟨h.1 .A, h.1 .B, h.2⟩⟩

/-- A change of one arm's motion unit that keeps its bounds. -/
theorem Bounds_motion {s : State} {a : Arm} {f : Motion → Motion}
    (e : ((s.motion.get a).queue.length ≤ 16 → (f (s.motion.get a)).queue.length ≤ 16)
      ∧ ((s.motion.get a).results.length ≤ 8 → (f (s.motion.get a)).results.length ≤ 8)
      ∧ ((s.motion.get a).resultCount < 65536 → (f (s.motion.get a)).resultCount < 65536)) (h : Bounds s) :
    Bounds (s.modMotion a f) := by
  rw [Bounds_iff] at *
  refine ⟨fun b => ?_, h.2⟩
  have hb := h.1 b
  unfold ArmBounds at *
  simp only [State.modMotion_motion, State.modMotion_axes, State.modMotion_capture, PerArm.get_set_if]
  split
  · rename_i e'; subst e'
    exact ⟨e.1 hb.1, e.2.1 hb.2.1, e.2.2 hb.2.2.1, hb.2.2.2⟩
  · exact hb

theorem Bounds_axes {s : State} {a : Arm} {f : AxisUnit → AxisUnit}
    (e : (s.axes.get a).frameCount < 256 → (f (s.axes.get a)).frameCount < 256) (h : Bounds s) :
    Bounds (s.modAxes a f) := by
  rw [Bounds_iff] at *
  refine ⟨fun b => ?_, h.2⟩
  have hb := h.1 b
  unfold ArmBounds at *
  simp only [State.modAxes_motion, State.modAxes_axes, State.modAxes_capture, PerArm.get_set_if]
  split
  · rename_i e'; subst e'
    exact ⟨hb.1, hb.2.1, hb.2.2.1, hb.2.2.2.1, hb.2.2.2.2.1, e hb.2.2.2.2.2⟩
  · exact hb

theorem Bounds_capture {s : State} {a : Arm} {f : Capture → Capture}
    (e1 : (s.capture.get a).points.length ≤ 32 → (f (s.capture.get a)).points.length ≤ 32)
    (e2 : (s.capture.get a).seq < 65536 → (f (s.capture.get a)).seq < 65536) (h : Bounds s) :
    Bounds (s.modCapture a f) := by
  rw [Bounds_iff] at *
  refine ⟨fun b => ?_, h.2⟩
  have hb := h.1 b
  unfold ArmBounds at *
  simp only [State.modCapture_motion, State.modCapture_axes, State.modCapture_capture, PerArm.get_set_if]
  split
  · rename_i e'; subst e'
    exact ⟨hb.1, hb.2.1, hb.2.2.1, e1 hb.2.2.2.1, e2 hb.2.2.2.2.1, hb.2.2.2.2.2⟩
  · exact hb

theorem drive_frameCount (u : AxisUnit) (den : Bool) (h : u.frameCount < 256) : (u.drive den).frameCount < 256 := by
  unfold AxisUnit.drive
  split
  · exact Nat.mod_lt _ (by decide)
  · exact h

theorem drive_den (u : AxisUnit) (den : Bool) : (u.drive den).den = den := by
  unfold AxisUnit.drive
  split
  · rename_i h; simp at h; simp [h.2]
  · rfl

theorem Bounds_keeps : Keeps Bounds where
  same _ _ _ h1 h2 h3 h4 h5 _ _ _ _ _ _ h := Bounds_same h h1 h2 h3 h4 (by rw [h5])
  onLink _ _ _ _ h := Bounds_same h rfl rfl rfl rfl rfl
  onCount s h := ⟨h.1, h.2.1, by show min _ _ ≤ _; omega, h.2.2.2⟩
  onSnapshot _ _ e h := ⟨h.1, h.2.1, h.2.2.1, e h.2.2.2⟩
  onPhase _ _ _ h := Bounds_axes (drive_frameCount _ _) (Bounds_motion ⟨id, id, id⟩ h)
  onResult s a t o r h := by
    unfold State.addResult
    refine Bounds_same (Bounds_motion (s := s) (a := a) (f := fun m =>
      let n := (m.resultCount + 1) % 65536
      let rs := m.results ++ [⟨n, t, o, r⟩]
      { m with resultCount := n, results := rs.drop (rs.length - 8) })
      ⟨id, fun _ => ?_, fun _ => Nat.mod_lt _ (by decide)⟩ h) rfl rfl rfl rfl rfl
    simp; omega
  onMotion _ _ _ _ e2 e3 e4 h :=
    Bounds_motion ⟨e2, fun hr => Nat.le_trans e3 hr, fun hc => Nat.lt_of_le_of_lt e4 hc⟩ h
  onAxes _ _ _ _ e h := Bounds_axes e h
  onCapture _ _ _ e1 e2 h := Bounds_capture e1 e2 h
  onHolders _ _ _ h := Bounds_same h rfl rfl rfl rfl rfl
  onDropEntry _ _ h := Bounds_same h rfl rfl rfl rfl rfl
  onAppendEntry s w h := by
    unfold State.appendEntry; split
    · exact h
    · exact Bounds_same h rfl rfl rfl rfl rfl
  onGrantRack a zs s h := by
    unfold grantRack; split
    · refine Bounds_same h ?_ ?_ ?_ ?_ ?_ <;> simp [State.startRackTimer, State.modContext]
    · exact h
  onPlace s n pl h := by
    obtain ⟨_, _, _, e⟩ := s.place_fields n pl
    rw [e]; exact h
  onPocket _ _ _ _ h := Bounds_same h rfl rfl rfl rfl rfl
  onRecord _ _ _ _ _ _ h := Bounds_same h rfl rfl rfl rfl rfl
  onRack _ _ _ h := Bounds_same h rfl rfl rfl rfl rfl
  onContext _ _ _ _ h := Bounds_same h rfl rfl rfl rfl rfl
  onClosing a o s h := by
    refine Bounds_same h ?_ ?_ ?_ ?_ ?_ <;>
      simp [enterClosing, State.startRackTimer, State.dropReads, State.modContext]
  onDropContext _ _ h := Bounds_same h rfl rfl rfl rfl rfl

theorem DriveEnable_same {s t : State} (h : DriveEnable s) (h1 : t.motion = s.motion) (h2 : t.axes = s.axes) :
    DriveEnable t := by
  unfold DriveEnable; rw [h1, h2]; exact h

theorem DriveEnable_keeps : Keeps DriveEnable where
  same _ _ _ h1 h2 _ _ _ _ _ _ _ _ _ h := DriveEnable_same h h1 h2
  onLink _ _ _ _ h := DriveEnable_same h rfl rfl
  onCount _ h := DriveEnable_same h rfl rfl
  onSnapshot _ _ _ h := DriveEnable_same h rfl rfl
  onPhase s a p h := by
    intro b
    simp only [State.setPhase, State.modAxes_axes, State.modAxes_motion, State.modMotion_motion, State.modMotion_axes,
      PerArm.get_set_if]
    split
    · simp only [drive_den]
    · rename_i hb; simpa [hb] using h b
  onResult s a t o r h := by
    intro b
    have hb := h b
    simp only [State.addResult, State.raise_axes, State.raise_motion, State.modMotion_axes, State.modMotion_motion,
      PerArm.get_set_if]
    split
    · rename_i e; subst e; exact hb
    · exact hb
  onMotion s a f e _ _ _ h := by
    intro b
    simp only [State.modMotion_axes, State.modMotion_motion, PerArm.get_set_if]
    split
    · rename_i e'; subst e'; rw [e]; exact h b
    · exact h b
  onAxes s a f e _ h := by
    intro b
    simp only [State.modAxes_axes, State.modAxes_motion, PerArm.get_set_if]
    split
    · rename_i e'; subst e'; rw [e]; exact h b
    · exact h b
  onCapture _ _ _ _ _ h := DriveEnable_same h rfl rfl
  onHolders _ _ _ h := DriveEnable_same h rfl rfl
  onDropEntry _ _ h := DriveEnable_same h rfl rfl
  onAppendEntry s w h := by
    unfold State.appendEntry; split
    · exact h
    · exact DriveEnable_same h rfl rfl
  onGrantRack a zs s h := by
    unfold grantRack; split
    · refine DriveEnable_same h ?_ ?_ <;> simp [State.startRackTimer, State.modContext]
    · exact h
  onPlace s n pl h := by
    obtain ⟨_, _, _, e⟩ := s.place_fields n pl
    rw [e]; exact h
  onPocket _ _ _ _ h := DriveEnable_same h rfl rfl
  onRecord _ _ _ _ _ _ h := DriveEnable_same h rfl rfl
  onRack _ _ _ h := DriveEnable_same h rfl rfl
  onContext _ _ _ _ h := DriveEnable_same h rfl rfl
  onClosing a o s h := by
    refine DriveEnable_same h ?_ ?_ <;>
      simp [enterClosing, State.startRackTimer, State.dropReads, State.modContext]
  onDropContext _ _ h := DriveEnable_same h rfl rfl

theorem Attention_same {s t : State} (h : Attention s) (h1 : t.links = s.links) : Attention t := by
  unfold Attention; rw [h1]; exact h

/-- A change of one link that forms its ATTN line as its flags and mask ask. -/
theorem Attention_link {s : State} {l : Link} {f : LinkState → LinkState}
    (e : ∀ x : LinkState, x.attn = attnOf x.flags x.mask → (f x).attn = attnOf (f x).flags (f x).mask) (h : Attention s) :
    Attention (s.modLink l f) := by
  intro k
  simp only [State.modLink_links, PerLink.get_set_if]
  split
  · rename_i e'; subst e'; exact e _ (h k)
  · exact h k

theorem Attention_keeps : Keeps Attention where
  same _ _ h1 _ _ _ _ _ _ _ _ _ _ _ h := Attention_same h h1
  onLink _ _ _ e h := Attention_link e h
  onCount _ h := Attention_same h rfl
  onSnapshot _ _ _ h := Attention_same h rfl
  onPhase _ _ _ h := Attention_same h rfl
  onResult _ _ _ _ _ h := Attention_link (fun _ _ => rfl) (Attention_same h rfl)
  onMotion _ _ _ _ _ _ _ h := Attention_same h rfl
  onAxes _ _ _ _ _ h := Attention_same h rfl
  onCapture _ _ _ _ _ h := Attention_same h rfl
  onHolders _ _ _ h := Attention_same h rfl
  onDropEntry _ _ h := Attention_same h rfl
  onAppendEntry s w h := by
    unfold State.appendEntry; split
    · exact h
    · exact Attention_same h rfl
  onGrantRack a zs s h := by
    unfold grantRack; split
    · refine Attention_same h ?_; simp [State.startRackTimer, State.modContext]
    · exact h
  onPlace s n pl h := by
    obtain ⟨_, _, _, e⟩ := s.place_fields n pl
    rw [e]; exact h
  onPocket _ _ _ _ h := Attention_same h rfl
  onRecord _ _ _ _ _ _ h := Attention_same h rfl
  onRack _ _ _ h := Attention_same h rfl
  onContext _ _ _ _ h := Attention_same h rfl
  onClosing a o s h := by
    unfold enterClosing; dsimp only
    refine Attention_link (fun _ _ => rfl) (Attention_same h ?_)
    simp [State.startRackTimer, State.dropReads, State.modContext]
  onDropContext _ _ h := Attention_same h rfl

end Sys2Proof.Machine
end

