-- ==== Sys2Proof/Laws/Rows.lean ====
section
/-! SUPPORT. The rows whose meaning is made of the shared operations keep such a property, however their checks fall. -/
namespace Sys2Proof.Machine
-- One theorem at a time: many at once wait on each other, and each waiting one keeps a thread.
set_option Elab.async false
open Sys2Proof.Safety

namespace Keeps
variable {P : State → Prop} (hP : Keeps P)
include hP

/-! ### The link unit -/

theorem arrive {s : State} (h : P s) (l k) : P (s.arrive l k).1 := by
  unfold State.arrive; split <;> dsimp only
  · exact h
  · exact hP.modLink h _ _
  · split
    · exact hP.respond (hP.modLink h _ _) _ _ _
    · exact hP.modLink h _ _

/-- A request row keeps what its owner keeps. -/
theorem serve {s : State} {l : Link} {c : Instr} {f : State → State} (hf : ∀ t, P t → P (f t)) (h : P s) :
    P (serve l c f s) := by
  unfold Machine.serve; dsimp only; split
  · exact hf _ h
  · split
    · exact hf _ (hP.arrive h _ _)
    · exact hP.arrive h _ _

/-- A request with checks: what its effect keeps when they pass. -/
theorem passed {s : State} {l : Link} {cs : List (Bool × Code)} {f : State → State}
    (hf : (∀ x ∈ cs, x.1 = false) → P (f s)) (h : P s) : P (s.checked l cs f) := by
  unfold State.checked; split
  · exact hP.respond h _ _ _
  · rename_i hc
    simp only [firstFailure, Option.map_eq_none_iff, List.find?_eq_none] at hc
    exact hf fun x hx => by simpa using hc x hx

theorem checked {s : State} {l : Link} {cs : List (Bool × Code)} {f : State → State} (hf : P (f s)) (h : P s) :
    P (s.checked l cs f) := hP.passed (fun _ => hf) h

theorem ownArm {s : State} {l : Link} {f : Arm → State → State} (hf : ∀ a t, P t → P (f a t)) (h : P s) :
    P (ownArm l f s) := by
  unfold Machine.ownArm; split
  · exact hf _ _ h
  · exact hP.respond h _ _ _

theorem namedArm {s : State} {l : Link} {x} {f : Arm → State → State} (hf : ∀ a t, P t → P (f a t)) (h : P s) :
    P (namedArm l x f s) := by
  unfold Machine.namedArm; repeat' split
  · exact hf _ _ h
  · exact hf _ _ h
  · exact hP.respond h _ _ _

theorem await {s : State} (h : P s) (l w) : P (s.await l w) := hP.modLink h _ _

theorem atRecord {s : State} {l : Link} {n : Nat} {f : Slot → Probe → State}
    (hf : ∀ n p, s.probes.get n = some p → P (f n p)) (h : P s) : P (s.onRecord l n f) := by
  unfold State.onRecord; split
  · exact hP.respond h _ _ _
  · split
    · exact hP.respond h _ _ _
    · rename_i hp; exact hf _ _ hp

/-! ### Arms -/

theorem post {s : State} (h : P s) (l es a) : P (post l es a s) := by
  unfold Machine.post; repeat' split
  · exact hP.respond h _ _ _
  · exact hP.respond h _ _ _
  · rename_i segs _
    refine hP.passed (fun hc => hP.settle ?_) h
    have hr := hc (decide (16 - (s.motion.get a).queue.length < segs.length), .queueFull) (by simp [State.postChecks])
    unfold postAccepted State.appendSegments; dsimp only
    refine hP.modMotion (hP.respond h _ _ _) _ _ rfl fun hl => ?_
    simp at hr hl ⊢; omega

omit hP in
theorem flush_queue (a : Arm) (s : State) : ((Machine.flush a s).1.motion.get a).queue = [] := by
  unfold Machine.flush; dsimp only
  split
  · assumption
  · split
    · unfold Machine.withdraw; repeat' split
      all_goals simp [State.addResult, State.dropEntry]
    · simp [State.addResult]

theorem replaceAccepted {s : State} (h : P s) (a segs) (hl : segs.length ≤ 16) : P (replaceAccepted a segs s).1 := by
  have hq := Keeps.flush_queue a s
  unfold Machine.replaceAccepted State.appendSegments; dsimp only
  split <;> dsimp only
  · refine hP.modMotion (hP.setPhase (hP.flush h _) _ _) _ _ rfl fun _ => ?_
    simp [State.setPhase, hq, hl]
  · refine hP.modMotion (hP.flush h _) _ _ rfl fun _ => ?_
    simp [hq, hl]
  · refine hP.modMotion (hP.flush h _) _ _ rfl fun _ => ?_
    simp [hq, hl]

theorem replace {s : State} (h : P s) (l es a) : P (replace l es a s) := by
  unfold Machine.replace; repeat' split
  · exact hP.respond h _ _ _
  · exact hP.respond h _ _ _
  · rename_i segs _
    refine hP.passed (fun hc => hP.settle (hP.replaceAccepted (hP.respond h _ _ _) _ _ ?_)) h
    have hr := hc (decide (16 < segs.length), .queueFull) (by simp [State.postChecks])
    simpa using hr

theorem haltArm {s : State} (h : P s) (a) : P (haltArm a s).1 := by
  unfold Machine.haltArm
  cases (s.motion.get a).phase <;> dsimp only
  all_goals first
    | exact h
    | exact hP.enterStop (hP.flush h _) _ _
    | exact hP.setPhase (hP.flush h _) _ _
    | exact hP.flush h _

theorem resetArm {s : State} (h : P s) (a) : P (resetArm a s).1 := by
  have h1 := hP.modMotion h a fun m => { m with resetPending := true }
  unfold Machine.resetArm; dsimp only; repeat' split
  · exact h
  · exact hP.enterStop h1 _ _
  · exact h1
  · exact h1

theorem resume {s : State} (h : P s) (l a) : P (resume l a s) :=
  hP.checked (hP.settle (hP.respond (hP.setPhase h _ _) _ _ _)) h

theorem clear {s : State} (h : P s) (l a) : P (clear l a s) := by
  unfold Machine.clear; split
  · exact hP.respond (hP.setPhase h _ _) _ _ _
  · exact hP.checked (hP.respond (hP.setPhase h _ _) _ _ _) h
  · exact hP.respond h _ _ _

theorem enable {s : State} (h : P s) (l a) : P (enable l a s) :=
  hP.checked (hP.settle (hP.respond (hP.setPhase (hP.modAxes h _ _) _ _) _ _ _)) h

theorem disable {s : State} (h : P s) (l a) : P (disable l a s) := by
  have h1 : P (disableArm a s).1 := hP.stopLinger (hP.setPhase (hP.flush h _) _ _) _
  unfold Machine.disable; split
  all_goals first
    | exact hP.respond h _ _ _
    | exact hP.checked (hP.settle (hP.respond h1 _ _ _)) h

theorem illegalTransition {s : State} (h : P s) (a i) : P (illegalTransition a i s).1 := by
  have h1 := fun r => hP.report (hP.modAxes h a fun u => { u with axis := u.axis.set i (AxisState.illegal (u.axis.get i)) }) r
  unfold Machine.illegalTransition; dsimp only; split <;> dsimp only
  · exact h1 _
  · exact hP.enterFault (h1 _) _ _

theorem referenceMark {s : State} (h : P s) (a i) : P (referenceMark a i s).1 := by
  unfold Machine.referenceMark; split <;> dsimp only
  · exact hP.enterStop (hP.modMotion (hP.modAxes h _ _) _ _) _ _
  · exact h

theorem driveFault {s : State} (h : P s) (a v) : P (driveFault a v s).1 := by
  unfold Machine.driveFault; dsimp only; split
  · exact hP.enterFault (hP.report (hP.modAxes h _ _) _) _ _
  · dsimp only; exact hP.modAxes h _ _

theorem expiryStep {s : State} (h : P s) (a) : P (expiryStep a s).1 := by
  have h1 := hP.modAxes (hP.modMotion h a fun m => { m with active := (s.motionStep a).2.1 }) a
    (·.sendSetpoints (s.motionStep a).1) rfl fun _ => Nat.mod_lt _ (by decide)
  unfold Machine.expiryStep; dsimp only; split
  · exact h1
  · exact hP.setStanding h1 _ _

theorem setpointExpiry {s : State} (h : P s) (a) : P (setpointExpiry a s).1 := by
  have h1 := hP.modAxes (hP.modTimer h a SetpointTimer.startPeriod) a AxisUnit.clearSkips
  unfold Machine.setpointExpiry; dsimp only; repeat' split
  · exact h
  · exact h1
  · exact hP.enterFault (hP.report h1 _) _ _
  · exact hP.expiryStep h1 _

/-! ### Capture -/

theorem capturePoint {s : State} (h : P s) (a k) : P (s.capturePoint a k).1 := by
  unfold State.capturePoint; dsimp only
  refine hP.modCapture h _ _ (fun hl => ?_) (fun _ => ?_)
  · unfold Capture.take; dsimp only; repeat' split
    · simp; omega
    · exact hl
    · exact hl
  · have : ∀ p : Point, p.seq < 65536 → ((s.capture.get a).take (s.takeLatch a k) p).seq < 65536 := by
      intro p hp
      unfold Capture.take; dsimp only; repeat' split
      all_goals exact hp
    exact this _ (Nat.mod_lt _ (by decide))

theorem contactStop {s : State} (h : P s) (a) : P (contactStop a s).1 := by
  unfold Machine.contactStop; dsimp only; split
  · exact hP.enterStop (hP.flush h _) _ _
  · exact hP.setPhase (hP.flush h _) _ _

theorem triggerEdge {s : State} (h : P s) (a) : P (triggerEdge a s) := by
  have h1 := hP.modCapture h a fun c => { c with trig := true }
  unfold Machine.triggerEdge; split
  · exact h
  · dsimp only; split
    · exact hP.raise (hP.settle (hP.enterStop (hP.capturePoint h1 _ _) _ _)) _ _
    · exact hP.raise (hP.settle (hP.contactStop (hP.report (hP.capturePoint h1 _ _) _) _)) _ _
    · exact h1
    · exact h1

theorem readPoints {s : State} (h : P s) (l a) : P (readPoints l a s) := by
  unfold Machine.readPoints; dsimp only
  refine hP.settle (e := freeSpace a _ _) (hP.respond (hP.modCapture h _ _ fun hl => ?_) _ _ _)
  simp at hl ⊢; omega

/-! ### The change sequencer -/

theorem closeBy {s : State} (h : P s) (l a o) : P (closeBy l a o s) :=
  hP.settle (hP.onClosing _ _ _ (hP.respond h _ _ _))

theorem changeDone {s : State} (h : P s) (l a) : P (changeDone l a s) := by
  unfold Machine.changeDone; repeat' split
  all_goals first
    | exact hP.respond h _ _ _
    | exact hP.checked (hP.closeBy h _ _ _) h

theorem abortChange {s : State} (h : P s) (l a) : P (abortChange l a s) := by
  unfold Machine.abortChange; repeat' split
  all_goals first
    | exact hP.respond h _ _ _
    | exact hP.settle (hP.endChange (hP.respond h _ _ _) _ _)
    | exact hP.checked (hP.closeBy h _ _ _) h

theorem rackLevels {s : State} (h : P s) (o c) : P (rackLevels o c s).1 := by
  have h1 := hP.onRack s (fun r => { r with opened := o, closed := c }) id h
  unfold Machine.rackLevels; dsimp only; repeat' split
  all_goals exact h1

theorem stepTimeout {s : State} (h : P s) : P (stepTimeout s).1 := by
  have h1 := hP.onRack s (fun r => { r with stepTimer := none }) id h
  unfold Machine.stepTimeout; repeat' split
  · exact hP.report (hP.failOpen h _ _) _
  · exact h1
  · exact h1

theorem rackTimeout {s : State} (h : P s) : P (rackTimeout s).1 := by
  have h1 := hP.onRack s (fun r => { r with rackTimer := none }) id h
  unfold Machine.rackTimeout; dsimp only; split
  · split
    · exact hP.report (hP.onRack _ _ (by simp) h1) _
    · split
      · exact hP.report (hP.setRackFault h1) _
      · exact h1
  · exact h1

theorem dropRepeat {s : State} (h : P s) : P (dropRepeat s) := by
  have h1 := hP.onRack s (fun r => { r with dropTimer := none }) id h
  unfold Machine.dropRepeat; repeat' split
  · exact hP.askDropRead h _
  · exact h1
  · exact h1

theorem clearRackFault {s : State} (h : P s) (l) : P (clearRackFault l s) :=
  hP.checked (hP.respond (hP.onRack s (fun r => { r with fault := false }) id h) _ _ _) h

/-! ### The probe table unit -/

theorem qualify {s : State} (h : P s) (l e) : P (qualify l e s) := by
  unfold Machine.qualify; repeat' split
  all_goals first
    | exact hP.respond h _ _ _
    | skip
  rename_i hp
  refine hP.checked ?_ h
  dsimp only
  exact hP.respond (hP.onRecord _ _ _ _ hp (by rfl) h) _ _ _

theorem writeProbe {s : State} (h : P s) (l e) : P (writeProbe l e s) := by
  unfold Machine.writeProbe
  refine hP.checked ?_ h
  repeat' split
  all_goals first
    | exact hP.respond h _ _ _
    | skip
  rename_i hp _ _
  exact hP.settle (hP.respond (hP.onRecord _ _ _ _ hp (by rfl) h) _ _ _)

theorem writePocket {s : State} (h : P s) (l n u) : P (writePocket l n u s) := by
  unfold Machine.writePocket
  refine hP.checked ?_ h
  repeat' split
  all_goals first
    | exact hP.respond h _ _ _
    | (rename_i he; exact hP.respond (hP.onPocket _ _ _ (fun n => by simp [he]) h) _ _ _)

theorem setProtection {s : State} (h : P s) (l n v) : P (setProtection l n v s) :=
  hP.checked (hP.atRecord (fun _ _ hp => hP.checked (hP.respond (hP.onRecord _ _ _ _ hp (by rfl) h) _ _ _) h) h) h

theorem setLock {s : State} (h : P s) (l n v) : P (setLock l n v s) :=
  hP.atRecord (fun _ _ hp => hP.respond (hP.onRecord _ _ _ _ hp (by rfl) h) _ _ _) h

theorem inventoryAsked {s : State} (h : P s) (l) : P (inventoryAsked l s) :=
  hP.checked (hP.settle (hP.askInventory (hP.respond h _ _ _))) h

theorem watch {s : State} (h : P s) (p v) : P (watch p v s).1 := by
  unfold Machine.watch; dsimp only; repeat' split
  all_goals first
    | exact h
    | exact hP.report (hP.raise (hP.onPlace _ _ _ h) _ _) _
    | exact hP.raise (hP.onPocket _ _ _ (fun _ => Iff.rfl) h) _ _
    | exact hP.reservedChange h _ _ _ _

theorem pocketLevel {s : State} (h : P s) (p v) : P (pocketLevel p v s).1 := by
  have h1 := hP.onPocket s p (fun k => { k with level := v }) (fun _ => Iff.rfl) h
  unfold Machine.pocketLevel; dsimp only; repeat' split
  · exact h
  · exact hP.watch h1 _ _
  · exact h1

/-! ### The configuration writes -/

/-- No zone with a holder. -/
theorem clearHolders {s : State} (h : P s) : P s.clearHolders := by
  refine hP.other (hP.onHolders s (Vector.replicate 16 none) ?_ h) rfl rfl rfl rfl rfl rfl rfl rfl rfl rfl rfl rfl
  intro z a hz
  have : (Vector.replicate 16 (none : Option (Arm × HoldWhy))).get z = none := by
    show (Vector.replicate 16 (none : Option (Arm × HoldWhy)))[z.1] = none
    simp
  rw [this] at hz; cases hz

theorem writeZone {s : State} (h : P s) (l n e) : P (writeZone l n e s) := by
  unfold Machine.writeZone
  refine hP.checked ?_ h
  split
  · exact hP.respond h _ _ _
  · refine hP.checked (hP.settle (hP.respond (hP.clearHolders ?_) _ _ _)) h
    exact hP.other h rfl rfl rfl rfl rfl rfl rfl rfl rfl rfl rfl rfl

theorem writeCalibration {s : State} (h : P s) (l x e) : P (writeCalibration l x e s) := by
  unfold Machine.writeCalibration
  refine hP.checked ?_ h
  split
  · exact hP.respond h _ _ _
  · refine hP.settle (hP.respond ?_ _ _ _)
    exact hP.other h rfl rfl rfl rfl rfl rfl rfl rfl rfl rfl rfl rfl

theorem putSettings {s : State} (h : P s) (v a b c) : P (s.putSettings v a b c) := by
  refine hP.modLink (hP.modLink (hP.modLink ?_ _ _) _ _) _ _
  exact hP.other h rfl rfl rfl rfl rfl rfl rfl rfl rfl rfl rfl rfl

theorem publish {s : State} (h : P s) (t) : P (s.publish t) := by
  unfold State.publish State.raiseThermal; dsimp only
  have h1 := hP.onSnapshot s { t with epoch := (s.snapshot.epoch + 1) % 65536 } (fun _ => Nat.mod_lt _ (by decide)) h
  repeat' split
  · exact hP.raise (hP.raise h1 _ _) _ _
  · exact hP.raise h1 _ _
  · exact hP.raise h1 _ _
  · exact h1

theorem conversion {s : State} (h : P s) (code) : P (conversion code s) := by
  unfold Machine.conversion
  split
  · exact h
  · split
    · exact hP.other h rfl rfl rfl rfl rfl rfl rfl rfl rfl rfl rfl rfl
    · rename_i ch _
      dsimp only
      have h1 : P { s with channels := Table.put s.channels ch ((s.channels.get ch).convert code).1 } :=
        hP.other h rfl rfl rfl rfl rfl rfl rfl rfl rfl rfl rfl rfl
      have h2 : P (if ((s.channels.get ch).convert code).2 = true then
          State.raise { s with channels := Table.put s.channels ch ((s.channels.get ch).convert code).1 } .S .sensorFault
          else { s with channels := Table.put s.channels ch ((s.channels.get ch).convert code).1 }) := by
        split
        · exact hP.raise h1 _ _
        · exact h1
      split
      · exact hP.other h2 rfl rfl rfl rfl rfl rfl rfl rfl rfl rfl rfl rfl
      · exact hP.other (hP.publish h2 _) rfl rfl rfl rfl rfl rfl rfl rfl rfl rfl rfl rfl

theorem scanEnd {s : State} (h : P s) : P (scanEnd s) := by
  have h1 : P s.startScanInterval := hP.other h rfl rfl rfl rfl rfl rfl rfl rfl rfl rfl rfl rfl
  unfold Machine.scanEnd; split
  · unfold State.startPass; repeat' split
    all_goals first
      | exact h1
      | exact hP.raise h1 _ _
      | exact hP.other h1 rfl rfl rfl rfl rfl rfl rfl rfl rfl rfl rfl rfl
  · exact h

theorem csync {s : State} (h : P s) : P (csync s) := by
  have h1 : ∀ {t : State} (a : Arm), P t → P (t.syncTimer a) := by
    intro t a ht
    unfold State.syncTimer; split
    · exact hP.modTimer ht _ _
    · exact ht
  unfold Machine.csync; split
  · unfold State.syncScan; split
    · exact hP.other (h1 .B (h1 .A h)) rfl rfl rfl rfl rfl rfl rfl rfl rfl rfl rfl rfl
    · exact h1 _ (h1 _ h)
  · exact h

theorem pageEnds {s : State} (h : P s) (ack) : P (pageEnds ack s) := by
  unfold Machine.pageEnds; repeat' split
  all_goals first
    | exact h
    | exact hP.other h rfl rfl rfl rfl rfl rfl rfl rfl rfl rfl rfl rfl
    | (apply hP.raise; exact hP.other h rfl rfl rfl rfl rfl rfl rfl rfl rfl rfl rfl rfl)

theorem tick {s : State} (h : P s) : P (tick s) := by
  have e : ∀ (t : State) a, (AxisUnit.tick (t.axes.get a)).den = (t.axes.get a).den
      ∧ (AxisUnit.tick (t.axes.get a)).frameCount = (t.axes.get a).frameCount := by
    intro t a; unfold AxisUnit.tick; split <;> exact ⟨rfl, rfl⟩
  have step : ∀ {t : State} (a : Arm), P t → P (t.modAxes a AxisUnit.tick) := fun {t} a ht =>
    hP.modAxes ht a _ (e t a).1 (fun hf => by rw [(e t a).2]; exact hf)
  have h1 := step .B (step .A h)
  unfold Machine.tick; dsimp only; split
  · exact hP.other h1 rfl rfl rfl rfl rfl rfl rfl rfl rfl rfl rfl rfl
  · exact h1

end Keeps

end Sys2Proof.Machine
end

