-- ==== Sys2Proof/Laws/Edits.lean ====
section
/-! SUPPORT. The edits of the probe table that need their checks, the start of a change, the load of a section, RESET and
RELOAD keep the three invariants. -/
namespace Sys2Proof.Machine
open Sys2Proof.Safety

/-! ### Records and pockets, read through -/

/-- The agreement of the tables from a reading of every pocket's occupant and of which record stands where. -/
theorem Tables_of {s : State} (h1 : ∀ (p : PocketId) (n : Slot),
      (s.pockets.get p).state = .occupied n ↔ ∃ r, s.probes.get n = some r ∧ r.place = .stored p)
    (h2 : ∀ (a : Arm) (m n : Slot), (∃ r, s.probes.get m = some r ∧ r.place = .mounted a) →
      (∃ r, s.probes.get n = some r ∧ r.place = .mounted a) → m = n) : Tables s :=
  ⟨h1, fun a m n q r hq hr ha hb => h2 a m n ⟨q, hq, ha⟩ ⟨r, hr, hb⟩⟩

theorem get_setProbe (s : State) (n m : Slot) (p : Option Probe) :
    (s.setProbe n p).probes.get m = if m = n then p else s.probes.get m := Table.get_put _ _ _ _

theorem get_modPocket (s : State) (p q : PocketId) (f : Pocket → Pocket) :
    (s.modPocket p f).pockets.get q = if q = p then f (s.pockets.get p) else s.pockets.get q := Table.get_put _ _ _ _

/-! ### Registration and retirement -/

theorem findProbe_none {s : State} {f : Probe → Bool} (h : s.findProbe f = none) {n : Slot} {p : Probe}
    (hp : s.probes.get n = some p) : f p = false := by
  unfold State.findProbe at h
  rw [List.find?_eq_none] at h
  have := h n (List.mem_finRange n)
  simpa [hp] using this

/-- A new record at an EMPTY pocket from a FREE slot (R130). -/
theorem Tables_registerAt {s : State} {n : Slot} {p : PocketId} (e : RegisterEntry) (hn : s.probes.get n = none)
    (hp : (s.pockets.get p).state = .empty) (h : Tables s) : Tables (s.registerAt n p e) := by
  have hr : ∀ m, (s.registerAt n p e).probes.get m = if m = n then some (newRecord e (.stored p)) else s.probes.get m :=
    fun m => get_setProbe s n m _
  have hk : ∀ q, ((s.registerAt n p e).pockets.get q).state = if q = p then .occupied n else (s.pockets.get q).state := by
    intro q
    have : (s.registerAt n p e).pockets.get q = _ := get_modPocket (s.setProbe n (some (newRecord e (.stored p)))) p q _
    rw [this]; split <;> rfl
  refine Tables_of (fun q m => ?_) (fun a m k hm hk => ?_)
  · rw [hk, hr]
    by_cases hq : q = p
    · subst hq
      rw [if_pos rfl]
      by_cases hm : m = n
      · subst hm; simp [newRecord]
      · rw [if_neg hm]
        constructor
        · intro e; cases e; exact absurd rfl hm
        · intro hx; have := (h.1 q m).2 hx; rw [hp] at this; cases this
    · rw [if_neg hq, h.1 q m]
      by_cases hm : m = n
      · subst hm
        rw [if_pos rfl, hn]
        simp [newRecord, Ne.symm hq]
      · rw [if_neg hm]
  · rw [hr] at hm hk
    split at hm
    · obtain ⟨r, hr, hp⟩ := hm; cases hr; cases hp
    · split at hk
      · obtain ⟨r, hr, hp⟩ := hk; cases hr; cases hp
      · obtain ⟨q, hq, ha⟩ := hm
        obtain ⟨r, hr, hb⟩ := hk
        exact h.2 a m k q r hq hr ha hb

/-- A new record MOUNTED on an arm that carries none, from a FREE slot (R130). -/
theorem Tables_mountNew {s : State} {n : Slot} {a : Arm} (e : RegisterEntry) (hn : s.probes.get n = none)
    (hm : s.mountedOn a = none) (h : Tables s) : Tables (s.setProbe n (some (newRecord e (.mounted a)))) := by
  have hmn : ∀ m r, s.probes.get m = some r → r.place ≠ .mounted a := fun m r hr => by
    simpa using findProbe_none hm hr
  refine Tables_of (fun q m => ?_) (fun b m k hx hy => ?_)
  · show (s.pockets.get q).state = _ ↔ _
    rw [h.1 q m, get_setProbe]
    split
    · rename_i e'; subst e'; rw [hn]; simp [newRecord]
    · rfl
  · rw [get_setProbe] at hx hy
    split at hx <;> split at hy
    · rename_i e1 e2; rw [e1, e2]
    · obtain ⟨r, hr, hb⟩ := hx; cases hr; cases hb
      obtain ⟨r, hr, hb⟩ := hy; exact absurd hb (hmn k r hr)
    · obtain ⟨r, hr, hb⟩ := hy; cases hr; cases hb
      obtain ⟨r, hr, hb⟩ := hx; exact absurd hb (hmn m r hr)
    · obtain ⟨q, hq, ha⟩ := hx
      obtain ⟨r, hr, hb⟩ := hy
      exact h.2 b m k q r hq hr ha hb

/-- A retired record leaves its slot FREE, and its pocket EMPTY (R132). -/
theorem Tables_retire {s : State} {n : Slot} {p : Probe} (hp : s.probes.get n = some p)
    (h : Tables s) : Tables (s.retire n p) := by
  have two : ∀ t : State, t.probes = Table.put s.probes n none → (∀ (a : Arm) (m k : Slot),
      (∃ r, t.probes.get m = some r ∧ r.place = .mounted a) → (∃ r, t.probes.get k = some r ∧ r.place = .mounted a) →
      m = k) := by
    intro t ht a m k hx hy
    rw [ht, Table.get_put] at hx hy
    split at hx
    · obtain ⟨_, e, _⟩ := hx; cases e
    · split at hy
      · obtain ⟨_, e, _⟩ := hy; cases e
      · obtain ⟨q, hq, ha⟩ := hx
        obtain ⟨r, hr, hb⟩ := hy
        exact h.2 a m k q r hq hr ha hb
  unfold State.retire
  split
  · rename_i k hk
    refine Tables_of (fun q m => ?_) (two _ rfl)
    have hst : (((s.setProbe n none).vacate k).pockets.get q).state = if q = k then .empty else (s.pockets.get q).state := by
      have : ((s.setProbe n none).vacate k).pockets.get q = _ := get_modPocket (s.setProbe n none) k q _
      rw [this]; split <;> rfl
    have hpr : ((s.setProbe n none).vacate k).probes.get m = if m = n then none else s.probes.get m := get_setProbe s n m _
    rw [hst, hpr]
    have hocc := (h.1 k n).2 ⟨p, hp, hk⟩
    by_cases hq : q = k
    · subst hq
      rw [if_pos rfl]
      constructor
      · intro e; cases e
      · split
        · rintro ⟨_, e, _⟩; cases e
        · rename_i hm
          intro hx
          have := (h.1 q m).2 hx
          rw [hocc] at this
          exact absurd (by simpa using this.symm) hm
    · rw [if_neg hq, h.1 q m]
      split
      · rename_i hm; subst hm
        rw [hp]
        constructor
        · rintro ⟨r, e, hr⟩; cases e; rw [hk] at hr; exact absurd (by simpa using hr.symm) hq
        · rintro ⟨_, e, _⟩; cases e
      · rfl
  · rename_i hk
    refine Tables_of (fun q m => ?_) (two _ rfl)
    show (s.pockets.get q).state = _ ↔ _
    rw [h.1 q m, get_setProbe]
    split
    · rename_i hm; subst hm
      rw [hp]
      constructor
      · rintro ⟨r, e, hr'⟩; cases e; exact absurd hr' (hk q)
      · rintro ⟨_, e, _⟩; cases e
    · rfl

/-! ### The start of a change -/

/-- A pocket RESERVED that no record stands at. -/
theorem Tables_reserve {s : State} {p : PocketId} (hp : ∀ n, (s.pockets.get p).state ≠ .occupied n) (h : Tables s) :
    Tables (s.reserve p) :=
  Tables_pocket (fun n => by simp [hp n]) h

/-- A STORED record on its way to an arm, its pocket RESERVED first (R148). -/
theorem Tables_takeOut {s : State} {p : PocketId} {n : Slot} {r : Probe} (a : Arm) (hr : s.probes.get n = some r)
    (hp : r.place = .stored p) (h : Tables s) : Tables ((s.reserve p).place n (.inTransit a)) := by
  have ho := (h.1 p n).2 ⟨r, hr, hp⟩
  have hpr : ∀ m, ((s.reserve p).place n (.inTransit a)).probes.get m
      = if m = n then some { r with place := .inTransit a } else s.probes.get m := by
    intro m
    unfold State.place
    rw [show (s.reserve p).probes.get n = some r from hr]
    dsimp only
    rw [get_setProbe]
    split
    · rfl
    · rw [get_displace]
      simp only [Place.single, or_true, if_true]
      obtain ⟨ks, e⟩ := (s.reserve p).leave_fields n r.place
      rw [e]; rfl
  have hk : ∀ q, (((s.reserve p).place n (.inTransit a)).pockets.get q).state
      = if q = p then .reserved else (s.pockets.get q).state := by
    intro q
    have hres : (s.reserve p).pockets.get q = _ := get_modPocket s p q _
    unfold State.place
    rw [show (s.reserve p).probes.get n = some r from hr]
    dsimp only
    have hl : (s.reserve p).leave n r.place = s.reserve p := by
      rw [hp]; unfold State.leave; dsimp only
      have : ((s.reserve p).pockets.get p).state = .reserved := by
        have : (s.reserve p).pockets.get p = _ := get_modPocket s p p _
        rw [this, if_pos rfl]
      rw [if_neg (by rw [this]; simp)]
    rw [hl]
    show ((s.reserve p).pockets.get q).state = _
    rw [hres]; split <;> rfl
  refine Tables_of (fun q m => ?_) (fun b m k hx hy => ?_)
  · rw [hk, hpr]
    by_cases hq : q = p
    · subst hq
      rw [if_pos rfl]
      constructor
      · intro e; cases e
      · split
        · rintro ⟨x, e, hx⟩; cases e; cases hx
        · rename_i hm
          intro hx
          have := (h.1 q m).2 hx
          rw [ho] at this
          exact absurd (by simpa using this.symm) hm
    · rw [if_neg hq, h.1 q m]
      split
      · rename_i hm; subst hm
        rw [hr]
        constructor
        · rintro ⟨x, e, hx⟩; cases e; rw [hp] at hx; exact absurd (by simpa using hx.symm) hq
        · rintro ⟨x, e, hx⟩; cases e; cases hx
      · rfl
  · rw [hpr] at hx hy
    split at hx
    · obtain ⟨x, e, hx⟩ := hx; cases e; cases hx
    · split at hy
      · obtain ⟨x, e, hy⟩ := hy; cases e; cases hy
      · obtain ⟨q, hq, ha⟩ := hx
        obtain ⟨x, hr, hb⟩ := hy
        exact h.2 b m k q x hq hr ha hb

/-- The start of a change whose drop pocket is EMPTY and whose take record is STORED in the take pocket, with the dropped
record MOUNTED (R147, R148). -/
theorem Tables_startChange {s : State} {a : Arm} {c : Context}
    (hd : ∀ p x, c.drop = some (p, x) → (s.pockets.get p).state = .empty)
    (hm : ∀ p n, c.drop = some (p, .slot n) → ∃ r, s.probes.get n = some r ∧ r.place = .mounted a)
    (ht : ∀ p n, c.take = some (p, n) → ∃ r, s.probes.get n = some r ∧ r.place = .stored p)
    (h : Tables s) : Tables (s.startChange a c) := by
  have key : ∀ t : State, Tables t → (∀ p n, c.take = some (p, n) → ∃ r, t.probes.get n = some r ∧ r.place = .stored p) →
      Tables (match c.take with
        | some (p, n) => (t.reserve p).place n (.inTransit a)
        | none => t) := by
    intro t hT hs
    split
    · rename_i p n e
      obtain ⟨r, hr, hp⟩ := hs p n e
      exact Tables_takeOut a hr hp hT
    · exact hT
  unfold State.startChange
  refine Tables_same (key _ ?_ ?_) rfl rfl
  · split
    · rename_i p n e
      exact Tables_place _ _ (Tables_reserve (by simp [hd p _ e]) h)
    · rename_i p e
      exact Tables_reserve (by simp [hd p _ e]) h
    · exact h
  · intro p n e
    obtain ⟨r, hr, hp⟩ := ht p n e
    split
    · rename_i q m e'
      obtain ⟨x, hx, hxm⟩ := hm q m e'
      have hne : n ≠ m := by rintro rfl; rw [hr] at hx; cases hx; rw [hp] at hxm; cases hxm
      refine ⟨r, ?_, hp⟩
      unfold State.place
      rw [show (s.reserve q).probes.get m = some x from hx]
      dsimp only
      rw [get_setProbe, if_neg hne, get_displace]
      simp only [Place.single, or_true, if_true]
      obtain ⟨ks, e⟩ := (s.reserve q).leave_fields m x.place
      rw [e]; exact hr
    · exact ⟨r, hr, hp⟩
    · exact ⟨r, hr, hp⟩

/-- The start of a change touches the records, the pockets, the UNKNOWN flags, the arm's context and its last outcome. -/
theorem startChange_fields (s : State) (a : Arm) (c : Context) : ∃ ps ks us, s.startChange a c = { s with
    probes := ps, pockets := ks, unknown := us, change := s.change.set a (some c)
    lastChange := s.lastChange.set a none } := by
  have out : ∀ (t : State) (p : PocketId) (n : Slot), (∃ ps ks us, t = { s with probes := ps, pockets := ks, unknown := us }) →
      ∃ ps ks us, (t.reserve p).place n (.inTransit a) = { s with probes := ps, pockets := ks, unknown := us } := by
    rintro t p n ⟨ps, ks, us, rfl⟩
    obtain ⟨ps', ks', us', e⟩ := State.place_fields (State.reserve { s with probes := ps, pockets := ks, unknown := us } p) n
      (.inTransit a)
    exact ⟨ps', ks', us', e⟩
  have fin : ∀ t : State, (∃ ps ks us, t = { s with probes := ps, pockets := ks, unknown := us }) → ∃ ps ks us,
      { t.setContext a (some c) with lastChange := t.lastChange.set a none } = { s with
        probes := ps, pockets := ks, unknown := us, change := s.change.set a (some c)
        lastChange := s.lastChange.set a none } := by
    rintro t ⟨ps, ks, us, rfl⟩; exact ⟨ps, ks, us, rfl⟩
  unfold State.startChange
  refine fin _ ?_
  have hd : ∃ ps ks us, (match c.drop with
      | some (p, .slot n) => (s.reserve p).place n (.inTransit a)
      | some (p, .unknown) => s.reserve p
      | none => s) = { s with probes := ps, pockets := ks, unknown := us } := by
    split
    · exact out s _ _ ⟨_, _, _, rfl⟩
    · exact ⟨_, _, _, rfl⟩
    · exact ⟨_, _, _, rfl⟩
  split
  · exact out _ _ _ hd
  · exact hd

/-- The context of an arm that had none: it holds no zone and asks no cover open (R108, R148). -/
theorem RackHeld_setContext {s : State} {a : Arm} {c : Context} (hn : s.change.get a = none) (h : RackHeld s) :
    RackHeld (s.setContext a (some c)) := by
  constructor
  · intro z b hz
    obtain ⟨k, hk, hw⟩ := h.1 z b hz
    have hb : b ≠ a := by rintro rfl; rw [hn] at hk; cases hk
    exact ⟨k, (PerArm.get_set_ne _ _ hb).trans hk, hw⟩
  · intro hr
    obtain ⟨b, k, hk, hs⟩ := h.2 hr
    have hb : b ≠ a := by rintro rfl; rw [hn] at hk; cases hk
    exact ⟨b, k, (PerArm.get_set_ne _ _ hb).trans hk, hs⟩

/-! ### The load of a section -/

/-- A property that says nothing of the records and the pockets. -/
def Blind (P : State → Prop) : Prop :=
  ∀ s t : State, t.links = s.links → t.motion = s.motion → t.axes = s.axes → t.capture = s.capture →
    t.faultCount = s.faultCount → t.snapshot.epoch = s.snapshot.epoch → t.holders = s.holders →
    t.waiters = s.waiters → t.change = s.change → t.rack = s.rack → P s → P t

/-- A section's installation keeps what says nothing of the records and the pockets. -/
theorem Keeps.install {P : State → Prop} (hP : Keeps P) (hb : Blind P) {s : State} (im : Image) (h : P s) :
    P (s.install im).1 := by
  cases im with
  | calibration => exact hb s _ rfl rfl rfl rfl rfl rfl rfl rfl rfl rfl h
  | zones => exact hb s _ rfl rfl rfl rfl rfl rfl rfl rfl rfl rfl h
  | channels => exact hb s _ rfl rfl rfl rfl rfl rfl rfl rfl rfl rfl h
  | probes => exact hb s _ rfl rfl rfl rfl rfl rfl rfl rfl rfl rfl h
  | pockets ds =>
    refine Keeps.foldl (fun t p => if ds.get p then t.disablePocket p else t) (fun t x ht => ?_) allPockets h
    split
    · unfold State.disablePocket; dsimp only
      split <;> exact hb t _ rfl rfl rfl rfl rfl rfl rfl rfl rfl rfl ht
    · exact ht
  | settings e =>
    have h2 : P (allSlots.foldl State.dropDuplicate (s.putSettings (loadSettings e).1 e.maskA e.maskB e.maskS)) := by
      refine Keeps.foldl State.dropDuplicate (fun t x ht => ?_) allSlots (hP.putSettings h _ _ _ _)
      unfold State.dropDuplicate; dsimp only; repeat' split
      all_goals first
        | exact ht
        | exact hb t _ rfl rfl rfl rfl rfl rfl rfl rfl rfl rfl ht
    show P { (allSlots.foldl State.dropDuplicate _) with probes := Table.map _ _ }
    generalize allSlots.foldl State.dropDuplicate (s.putSettings (loadSettings e).1 e.maskA e.maskB e.maskS) = t at *
    exact hb t _ rfl rfl rfl rfl rfl rfl rfl rfl rfl rfl h2

/-- The records a PROBES section leaves: no two stand at one pocket or on one arm. -/
theorem loadProbes_apart (es : Table 32 (Option StoredProbe)) (m n : Slot) (p q : Probe)
    (hm : (loadProbes es).1.get m = some p) (hn : (loadProbes es).1.get n = some q) (e : p.place = q.place)
    (hl : p.place ≠ .lost) : m = n := by
  have key : ∀ (xs : List Slot) (acc : Table 32 (Option Probe) × Bool), xs.Nodup →
      (∀ k ∈ xs, acc.1.get k = none) →
      (∀ m n p q, acc.1.get m = some p → acc.1.get n = some q → p.place = q.place → p.place ≠ .lost → m = n) →
      let r := xs.foldl (fun acc n =>
        match es.get n with
        | none => acc
        | some e => if badStored e then (acc.1, true) else (Table.put acc.1 n (some (loadProbe acc.1 e)), acc.2)) acc
      ∀ m n p q, r.1.get m = some p → r.1.get n = some q → p.place = q.place → p.place ≠ .lost → m = n := by
    intro xs
    induction xs with
    | nil => intro acc _ _ h; exact h
    | cons x xs ih =>
      intro acc hnd hfree h
      rw [List.nodup_cons] at hnd
      dsimp only
      rw [List.foldl_cons]
      refine ih _ hnd.2 ?_ ?_
      · intro k hk
        have hne : k ≠ x := by rintro rfl; exact hnd.1 hk
        have h0 := hfree k (List.mem_cons_of_mem _ hk)
        split
        · exact h0
        · split
          · exact h0
          · dsimp only; rw [Table.get_put, if_neg hne]; exact h0
      · split
        · exact h
        · split
          · exact h
          · rename_i e _ _
            have free : ∀ k r, acc.1.get k = some r → (loadProbe acc.1 e).place ≠ .lost → r.place ≠ (loadProbe acc.1 e).place := by
              intro k r hr hl he
              unfold loadProbe at hl he
              dsimp only at hl he
              split at hl
              · exact hl rfl
              · rename_i ht
                rw [if_neg ht] at he
                apply ht
                unfold placeTaken
                rw [Bool.and_eq_true]
                refine ⟨by simpa using hl, List.any_eq_true.2 ⟨k, List.mem_finRange k, ?_⟩⟩
                rw [hr]; simpa using he
            intro m n p q hm hn hpq hl
            dsimp only at hm hn
            rw [Table.get_put] at hm hn
            split at hm <;> split at hn
            · rename_i a b; rw [a, b]
            · cases hm; exact absurd hpq.symm (free n q hn hl)
            · cases hn; exact absurd hpq (free m p hm (by rw [← hpq]; exact hl))
            · exact h m n p q hm hn hpq hl
  exact key allSlots (Vector.replicate 32 none, false) (List.nodup_finRange 32)
    (fun k _ => by show (Vector.replicate 32 (none : Option Probe))[k.1] = none; simp)
    (fun m n p q hm => by
      have : (Vector.replicate 32 (none : Option Probe)).get m = none := by
        show (Vector.replicate 32 (none : Option Probe))[m.1] = none; simp
      dsimp only at hm; rw [this] at hm; cases hm) m n p q hm hn e hl

theorem findProbe_some {s : State} {f : Probe → Bool} {n : Slot} (h : s.findProbe f = some n) :
    ∃ p, s.probes.get n = some p ∧ f p = true := by
  unfold State.findProbe at h
  have := List.find?_some h
  cases hp : s.probes.get n with
  | none => rw [hp] at this; cases this
  | some p => exact ⟨p, rfl, by simpa [hp] using this⟩

theorem Tables_installProbes (s : State) (es : Table 32 (Option StoredProbe)) : Tables (s.installProbes es).1 := by
  have ha := loadProbes_apart es
  have hk : ∀ k, ((s.installProbes es).1.pockets.get k).state =
      match State.storedAt { s with probes := (loadProbes es).1, unknown := .both false } k with
      | some n => .occupied n
      | none => .empty := by
    intro k
    exact congrArg Pocket.state (Table.get_mapIdx s.pockets _ k)
  have hp : (s.installProbes es).1.probes = (loadProbes es).1 := rfl
  refine Tables_of (fun k n => ?_) (fun a m n hm hn => ?_)
  · rw [hk, hp]
    cases h : State.storedAt { s with probes := (loadProbes es).1, unknown := .both false } k with
    | none =>
      dsimp only
      constructor
      · intro e; cases e
      · rintro ⟨r, hr, hrk⟩
        have := findProbe_none h (n := n) (p := r) hr
        simp [hrk] at this
    | some m =>
      dsimp only
      obtain ⟨x, hx, hxk⟩ := findProbe_some h
      have hxk : x.place = .stored k := by simpa using hxk
      constructor
      · intro e; cases e; exact ⟨x, hx, hxk⟩
      · rintro ⟨r, hr, hrk⟩
        rw [ha m n x r hx hr (by rw [hxk, hrk]) (by rw [hxk]; simp)]
  · rw [hp] at hm hn
    obtain ⟨q, hq, hqa⟩ := hm
    obtain ⟨r, hr, hra⟩ := hn
    exact ha m n q r hq hr (by rw [hqa, hra]) (by rw [hqa]; simp)

theorem Tables_disablePocket {s : State} (k : PocketId) (h : Tables s) : Tables (s.disablePocket k) := by
  cases hs : s.storedAt k with
  | none =>
    have : s.disablePocket k = s.modPocket k fun q => { q with state := .disabled } := by
      unfold State.disablePocket; rw [hs]
    rw [this]
    refine Tables_pocket (fun n => ?_) h
    constructor
    · intro e; cases e
    · intro e
      obtain ⟨r, hr, hrk⟩ := (h.1 k n).1 e
      have := findProbe_none hs hr
      simp [hrk] at this
  | some m =>
    obtain ⟨x, hx, hxk⟩ := findProbe_some hs
    have hxk : x.place = .stored k := by simpa using hxk
    have ho := (h.1 k m).2 ⟨x, hx, hxk⟩
    have hp : ∀ n, (s.disablePocket k).probes.get n = if n = m then some { x with place := .lost } else s.probes.get n := by
      intro n
      unfold State.disablePocket; rw [hs]; dsimp only
      show (State.modProbe s m _).probes.get n = _
      unfold State.modProbe; rw [get_setProbe, hx]; rfl
    have hq : ∀ q, ((s.disablePocket k).pockets.get q).state = if q = k then .disabled else (s.pockets.get q).state := by
      intro q
      unfold State.disablePocket; rw [hs]; dsimp only
      rw [get_modPocket]; split <;> rfl
    refine Tables_of (fun q n => ?_) (fun a u v hu hv => ?_)
    · rw [hq, hp]
      by_cases e : q = k
      · subst e
        rw [if_pos rfl]
        constructor
        · intro e; cases e
        · split
          · rintro ⟨r, e, hr⟩; cases e; cases hr
          · rename_i hn
            intro hx'
            have := (h.1 q n).2 hx'
            rw [ho] at this
            exact absurd (by simpa using this.symm) hn
      · rw [if_neg e, h.1 q n]
        split
        · rename_i hn; subst hn
          rw [hx]
          constructor
          · rintro ⟨r, e', hr⟩; cases e'; rw [hxk] at hr; exact absurd (by simpa using hr.symm) e
          · rintro ⟨r, e', hr⟩; cases e'; cases hr
        · rfl
    · rw [hp] at hu hv
      split at hu
      · obtain ⟨r, e, hr⟩ := hu; cases e; cases hr
      · split at hv
        · obtain ⟨r, e, hr⟩ := hv; cases e; cases hr
        · obtain ⟨q, hq, ha⟩ := hu
          obtain ⟨r, hr, hb⟩ := hv
          exact h.2 a u v q r hq hr ha hb

theorem Tables_dropDuplicate {s : State} (n : Slot) (h : Tables s) : Tables (s.dropDuplicate n) := by
  unfold State.dropDuplicate
  split
  · cases hp : s.probes.get n with
    | none =>
      dsimp only [Option.map_none]
      refine Tables_of (fun q m => ?_) (fun a u v hu hv => ?_)
      · show (s.pockets.get q).state = _ ↔ _
        rw [h.1 q m, get_setProbe]; split
        · rename_i e; rw [e, hp]
        · rfl
      · rw [get_setProbe] at hu hv
        split at hu
        · obtain ⟨_, e, _⟩ := hu; cases e
        · split at hv
          · obtain ⟨_, e, _⟩ := hv; cases e
          · obtain ⟨q, hq, ha⟩ := hu
            obtain ⟨r, hr, hb⟩ := hv
            exact h.2 a u v q r hq hr ha hb
    | some p =>
      have hr := Tables_retire hp h
      unfold State.retire at hr
      cases hpl : p.place with
      | stored k =>
        rw [hpl] at hr
        dsimp only [Option.map_some] at hr ⊢
        rw [hpl]
        dsimp only
        have hv : ∀ q, (((s.setProbe n none).vacate k).pockets.get q).state
            = (((s.setProbe n none).modPocket k fun q => { q with state := .empty }).pockets.get q).state := by
          intro q
          have e1 : ((s.setProbe n none).vacate k).pockets.get q = _ := get_modPocket (s.setProbe n none) k q _
          rw [e1, get_modPocket]; split <;> rfl
        exact ⟨fun q m => by rw [← hv]; exact hr.1 q m, hr.2⟩
      | _ =>
        rw [hpl] at hr
        dsimp only [Option.map_some] at hr ⊢
        rw [hpl]
        exact hr
  · exact h

theorem Tables_install {s : State} (im : Image) (h : Tables s) : Tables (s.install im).1 := by
  have fold : ∀ {α : Type} (f : State → α → State), (∀ t x, Tables t → Tables (f t x)) → ∀ (xs : List α) (t : State),
      Tables t → Tables (xs.foldl f t) := fun f hf xs t => Keeps.foldl f hf xs
  cases im with
  | calibration => exact Tables_same h rfl rfl
  | zones => exact Tables_same h rfl rfl
  | channels => exact Tables_same h rfl rfl
  | probes es => exact Tables_installProbes s es
  | pockets ds =>
    refine fold (fun t p => if ds.get p then t.disablePocket p else t) ?_ allPockets s h
    intro t x ht
    split
    · exact Tables_disablePocket x ht
    · exact ht
  | settings e =>
    have h1 : Tables (s.putSettings (loadSettings e).1 e.maskA e.maskB e.maskS) := Tables_keeps.putSettings h _ _ _ _
    have h2 := fold State.dropDuplicate (fun t x ht => Tables_dropDuplicate x ht) allSlots _ h1
    show Tables { (allSlots.foldl State.dropDuplicate _) with probes := Table.map _ _ }
    generalize allSlots.foldl State.dropDuplicate (s.putSettings (loadSettings e).1 e.maskA e.maskB e.maskS) = t at *
    have key : ∀ n pl, (∃ r, (Table.map (fun p : Option Probe => p.map fun q => { q with locked := (loadSettings e).1.startLocked })
        t.probes).get n = some r ∧ r.place = pl) ↔ ∃ r, t.probes.get n = some r ∧ r.place = pl := by
      intro n pl
      rw [Table.get_map]
      cases t.probes.get n <;> simp
    exact Tables_of (fun q m => (h2.1 q m).trans (key m _).symm) (fun a u v hu hv => by
      obtain ⟨x, hx, ha⟩ := (key u _).1 hu
      obtain ⟨y, hy, hb⟩ := (key v _).1 hv
      exact h2.2 a u v x y hx hy ha hb)

/-! ### RESET and RELOAD -/

theorem get_replicate {α : Type} {n : Nat} (x : α) (i : Fin n) : (Vector.replicate n x).get i = x := by
  show (Vector.replicate n x)[i.1] = x; simp

theorem Tables_resetPart (s : State) : Tables (resetPart s) := by
  have hp : ∀ n, (resetPart s).probes.get n = none := fun n => get_replicate _ n
  refine Tables_of (fun q m => ?_) (fun a m n hm _ => ?_)
  · have : ((resetPart s).pockets.get q).state = .empty := by
      simp only [resetPart, Table.get_map]
    rw [this, hp]; simp
  · rw [hp] at hm; obtain ⟨_, e, _⟩ := hm; cases e

theorem RackHeld_free {s : State} (h1 : ∀ z, s.holders.get z = none) (h2 : s.rack.req = false) : RackHeld s :=
  And.intro (fun z a hz => by rw [h1] at hz; cases hz) (fun hr => by rw [h2] at hr; cases hr)

theorem RackHeld_resetPart (s : State) : RackHeld (resetPart s) := RackHeld_free (fun z => get_replicate _ z) rfl

/-- An accepted RELOAD finds no change, so RACK-REQ is not asserted (R146, R212). -/
theorem RackHeld_startReload {s : State} (l : Link) (hn : ∀ a, s.change.get a = none) (h : RackHeld s) :
    RackHeld (startReload l s) := by
  refine RackHeld_free (fun z => get_replicate (none : Option (Arm × HoldWhy)) z) ?_
  show s.rack.req = false
  cases hr : s.rack.req with
  | false => rfl
  | true =>
    obtain ⟨a, c, hc, -⟩ := h.2 hr
    rw [hn a] at hc; cases hc

end Sys2Proof.Machine
end

