-- ==== Sys2Proof/Laws/Lasting.lean ====
section
/-! SUPPORT. A property that the shared operations keep, and that RESET, a section's load and the commands that make,
move or remove records keep, every command keeps. -/
namespace Sys2Proof.Machine
open Sys2Proof.Safety

/-- A property that the shared operations keep and the commands that no shared operation is made of: RESET, the
installation of a section, the start of a change, the two registrations, RETIRE PROBE and RELOAD. -/
structure Lasting (P : State → Prop) : Prop extends Keeps P where
  reset : ∀ s, P s → P (resetPart s)
  install : ∀ s im, P s → P (s.install im).1
  startChange : ∀ s a (e : ChangeEntry), (s.change.get a).isSome = false → s.badChange a e = false →
    s.changeInUse a e = false → P s → P (s.startChange a (s.newContext a e))
  registerAt : ∀ s n p e, s.probes.get n = none → (s.pockets.get p).state = .empty → P s → P (s.registerAt n p e)
  mountNew : ∀ (s : State) n a e, s.probes.get n = none → s.mountedOn a = none → P s →
    P (s.setProbe n (some (newRecord e (.mounted a))))
  retire : ∀ s n p, s.probes.get n = some p → P s → P (s.retire n p)
  reload : ∀ s l, (∀ a, s.change.get a = none) → P s → P (startReload l s)

namespace Lasting
variable {P : State → Prop} (hP : Lasting P)
include hP

omit hP in
theorem freeSlot_none {s : State} {n : Slot} (h : s.freeSlot = some n) : s.probes.get n = none := by
  have := List.find?_some h
  simpa using this

theorem requestChange {s} (h : P s) (l e a) : P (requestChange l e a s) := by
  unfold Machine.requestChange; dsimp only
  unfold State.checked
  split
  · exact hP.respond h _ _ _
  · rename_i hc
    refine hP.settle (hP.respond (hP.startChange s a e ?_ ?_ ?_ h) _ _ _)
    all_goals
      simp only [firstFailure, Option.map_eq_none_iff, List.find?_eq_none, List.mem_cons, List.not_mem_nil, or_false,
        forall_eq_or_imp, forall_eq] at hc
      simp at hc
      simp [hc]

theorem registerProbe {s} (h : P s) (l e) : P (registerProbe l e s) := by
  unfold Machine.registerProbe
  refine hP.checked ?_ h
  split
  · split
    · rename_i hf
      unfold State.checked; split
      · exact hP.respond h _ _ _
      · rename_i hc
        have : firstFailure _ = none := hc
        simp only [firstFailure, Option.map_eq_none_iff, List.find?_eq_none] at hc
        have h1 := hc (_, _) (List.mem_cons_self ..)
        exact hP.respond (hP.registerAt _ _ _ _ (freeSlot_none hf) (by simpa using h1) h) _ _ _
    · exact hP.respond h _ _ _
  · exact hP.checked (hP.await (hP.askRead h _ _) _ _) h
  · exact hP.respond h _ _ _

theorem registerDone {s} (h : P s) (l e a r) : P (registerDone l e a r s).1 := by
  unfold Machine.registerDone; dsimp only
  split <;> dsimp only
  · rename_i hc hf
    simp only [firstFailure, Option.map_eq_none_iff, List.find?_eq_none] at hc
    have h1 := hc ((s.mountedOn a).isSome, .inUse) (by simp)
    exact hP.respond (hP.setUnknown (hP.mountNew _ _ _ _ (freeSlot_none hf) (by simpa using h1) h) _ _) _ _ _
  · exact hP.respond h _ _ _
  · exact hP.respond h _ _ _

theorem retireProbe {s} (h : P s) (l n) : P (retireProbe l n s) := by
  unfold Machine.retireProbe
  refine hP.checked (hP.atRecord (fun _ _ hp => hP.checked (hP.respond (hP.retire _ _ _ hp h) _ _ _) h) h) h

theorem deliver {s} (h : P s) (a r k) : P (deliver a r k s).1 := by
  unfold Machine.deliver; split
  · unfold verifyDone; split <;> dsimp only
    · exact hP.respond h _ _ _
    · exact h
  · unfold registered; split
    · split
      · exact hP.registerDone h _ _ _ _
      · exact h
    · exact h
  · unfold inventoryRead; split
    · exact h
    · exact hP.other h rfl rfl rfl rfl rfl rfl rfl rfl rfl rfl rfl rfl
  · exact hP.dropRead h _ _
  · exact hP.pickRead h _ _

theorem readEnds {s} (h : P s) (a ans) : P (readEnds a ans s) := by
  unfold Machine.readEnds; split
  · exact h
  · refine hP.modReader ?_ _ _
    exact Keeps.foldl _ (fun t k ht => hP.settle (hP.deliver ht _ _ _)) _ h

theorem reload' {s} (h : P s) (l) : P (Machine.reload l s) := by
  unfold Machine.reload State.checked
  split
  · exact hP.respond h _ _ _
  · rename_i hc
    simp only [firstFailure, Option.map_eq_none_iff, List.find?_eq_none] at hc
    have h1 := hc (_, .wrongState) (by simp; rfl)
    simp [State.anyContext] at h1
    exact hP.reload _ _ (fun a => by cases a <;> simp_all) h

theorem sectionEnds {s} (h : P s) (x r) : P (sectionEnds x r s).1 := by
  unfold Machine.sectionEnds; dsimp only; split
  · exact hP.other (hP.install _ _ h) rfl rfl rfl rfl rfl rfl rfl rfl rfl rfl rfl rfl
  · exact hP.other (hP.install _ _ h) rfl rfl rfl rfl rfl rfl rfl rfl rfl rfl rfl rfl

theorem writePeriodEnd {s : State} (h : P s) (l b) : P (writePeriodEnd l b s) := by
  unfold Machine.writePeriodEnd; dsimp only
  repeat' split
  · exact h
  · exact h
  · exact hP.arrive (hP.modLink h _ _) _ _
  · exact hP.modLink (hP.arrive (hP.modLink h _ _) _ _) _ _
  · exact hP.arrive (hP.modLink h _ _) _ _

omit hP in
theorem read_attn (n : Nat) (x : LinkState) : (x.read n).attn = x.attn ∧ (x.read n).flags = x.flags ∧ (x.read n).mask = x.mask := by
  unfold LinkState.read; repeat' split
  all_goals exact ⟨rfl, rfl, rfl⟩

/-- Every command keeps such a property. -/
theorem exec (c : Instr) {s t : State} (h : P s) (e : exec c s = .next t) : P t := by
  cases c
  case reset => cases e; exact hP.reset _ h
  case sectionLoadComplete => cases e; split; exact h; exact hP.settle (hP.sectionEnds h _ _)
  case writePeriod => cases e; exact hP.writePeriodEnd h _ _
  case unassignedCommand => cases e; unfold unassigned; split; exact h; exact hP.arrive h _ _
  case readPeriod => cases e; exact hP.modLink h _ _ (fun x hx => by obtain ⟨h1, h2, h3⟩ := read_attn _ x; rw [h1, h2, h3]; exact hx)
  case enable => cases e; exact hP.serve (fun t ht => hP.ownArm (fun _ _ ht => hP.enable ht _ _) ht) h
  case disable => cases e; exact hP.serve (fun t ht => hP.ownArm (fun _ _ ht => hP.disable ht _ _) ht) h
  case post => cases e; exact hP.serve (fun t ht => hP.ownArm (fun _ _ ht => hP.post ht _ _ _) ht) h
  case replace => cases e; exact hP.serve (fun t ht => hP.ownArm (fun _ _ ht => hP.replace ht _ _ _) ht) h
  case halt => cases e; exact hP.serve (fun t ht => hP.namedArm (fun _ _ ht => hP.settle (hP.haltArm (hP.respond ht _ _ _) _)) ht) h
  case resume => cases e; exact hP.serve (fun t ht => hP.ownArm (fun _ _ ht => hP.resume ht _ _) ht) h
  case clear => cases e; exact hP.serve (fun t ht => hP.ownArm (fun _ _ ht => hP.clear ht _ _) ht) h
  case override => cases e; exact hP.serve (fun t ht => hP.ownArm (fun _ _ ht => hP.respond (hP.modMotion ht _ _) _ _ _) ht) h
  case readPoints => cases e; exact hP.serve (fun t ht => hP.ownArm (fun _ _ ht => hP.readPoints ht _ _) ht) h
  case requestChange => cases e; exact hP.serve (fun t ht => hP.ownArm (fun _ _ ht => hP.requestChange ht _ _ _) ht) h
  case changeDone => cases e; exact hP.serve (fun t ht => hP.ownArm (fun _ _ ht => hP.changeDone ht _ _) ht) h
  case abortChange => cases e; exact hP.serve (fun t ht => hP.namedArm (fun _ _ ht => hP.abortChange ht _ _) ht) h
  case qualify => cases e; exact hP.serve (fun t ht => hP.qualify ht _ _) h
  case verifyProbe => cases e; exact hP.serve (fun t ht => hP.ownArm (fun _ _ ht => hP.await (hP.askRead ht _ _) _ _) ht) h
  case armReset => cases e; exact hP.serve (fun t ht => hP.namedArm (fun _ _ ht => hP.settle (hP.resetArm (hP.respond ht _ _ _) _)) ht) h
  case armStatus => cases e; exact hP.serve (fun t ht => by unfold readArm; split <;> exact hP.respond ht _ _ _) h
  case readSnapshot => cases e; exact hP.serve (fun t ht => hP.respond ht _ _ _) h
  case readProbe => cases e; exact hP.serve (fun t ht => by unfold readProbe; split <;> exact hP.respond ht _ _ _) h
  case readPocket => cases e; exact hP.serve (fun t ht => by unfold readPocket; split <;> exact hP.respond ht _ _ _) h
  case readZone => cases e; exact hP.serve (fun t ht => by unfold readZone; split <;> exact hP.respond ht _ _ _) h
  case readChannel => cases e; exact hP.serve (fun t ht => by unfold readChannel; split <;> exact hP.respond ht _ _ _) h
  case readCalibration => cases e; exact hP.serve (fun t ht => by unfold readCalibration; split <;> exact hP.respond ht _ _ _) h
  case readTrap => cases e; exact hP.serve (fun t ht => hP.respond ht _ _ _) h
  case identify => cases e; exact hP.serve (fun t ht => hP.respond ht _ _ _) h
  case status => cases e; exact hP.serve (fun t ht => hP.respond (hP.modLink ht _ _) _ _ _) h
  case writeCalibration => cases e; exact hP.serve (fun t ht => hP.writeCalibration ht _ _ _) h
  case writeWorkpiece =>
    cases e
    refine hP.serve (fun t ht => hP.checked (hP.respond (hP.publish ?_ _) _ _ _) ht) h
    exact hP.other ht rfl rfl rfl rfl rfl rfl rfl rfl rfl rfl rfl rfl
  case writeZone => cases e; exact hP.serve (fun t ht => hP.writeZone ht _ _ _) h
  case writeChannel =>
    cases e
    refine hP.serve (fun t ht => ?_) h
    unfold writeChannel; split
    · exact hP.respond ht _ _ _
    · refine hP.checked (hP.respond ?_ _ _ _) ht
      exact hP.other ht rfl rfl rfl rfl rfl rfl rfl rfl rfl rfl rfl rfl
  case editScanList =>
    cases e
    refine hP.serve (fun t ht => ?_) h
    unfold editScanList; split
    · exact hP.respond ht _ _ _
    · refine hP.checked (hP.respond ?_ _ _ _) ht
      exact hP.other ht rfl rfl rfl rfl rfl rfl rfl rfl rfl rfl rfl rfl
  case setScanInterval =>
    cases e
    refine hP.serve (fun t ht => ?_) h
    refine hP.checked (hP.respond ?_ _ _ _) ht
    exact hP.other ht rfl rfl rfl rfl rfl rfl rfl rfl rfl rfl rfl rfl
  case setTimer =>
    cases e
    refine hP.serve (fun t ht => ?_) h
    unfold setTimer; split
    · exact hP.respond ht _ _ _
    · exact hP.checked (hP.respond (hP.modTimer ht _ _) _ _ _) ht
  case setSync =>
    cases e
    refine hP.serve (fun t ht => hP.respond ?_ _ _ _) h
    exact hP.other ht rfl rfl rfl rfl rfl rfl rfl rfl rfl rfl rfl rfl
  case writeSettings => cases e; exact hP.serve (fun t ht => hP.checked (hP.respond (hP.putSettings ht _ _ _ _) _ _ _) ht) h
  case registerProbe => cases e; exact hP.serve (fun t ht => hP.registerProbe ht _ _) h
  case writeProbe => cases e; exact hP.serve (fun t ht => hP.writeProbe ht _ _) h
  case retireProbe => cases e; exact hP.serve (fun t ht => hP.retireProbe ht _ _) h
  case setProtection => cases e; exact hP.serve (fun t ht => hP.setProtection ht _ _ _) h
  case freezeProtection =>
    cases e
    refine hP.serve (fun t ht => hP.respond ?_ _ _ _) h
    exact hP.other ht rfl rfl rfl rfl rfl rfl rfl rfl rfl rfl rfl rfl
  case lockProbe => cases e; exact hP.serve (fun t ht => hP.setLock ht _ _ _) h
  case unlockProbe => cases e; exact hP.serve (fun t ht => hP.setLock ht _ _ _) h
  case writePocket => cases e; exact hP.serve (fun t ht => hP.writePocket ht _ _ _) h
  case inventory => cases e; exact hP.serve (fun t ht => hP.inventoryAsked ht _) h
  case clearRackFault => cases e; exact hP.serve (fun t ht => hP.clearRackFault ht _) h
  case clearTrap =>
    cases e
    refine hP.serve (fun t ht => hP.respond ?_ _ _ _) h
    exact hP.other ht rfl rfl rfl rfl rfl rfl rfl rfl rfl rfl rfl rfl
  case save =>
    cases e
    refine hP.serve (fun t ht => hP.checked (hP.respond ?_ _ _ _) ht) h
    exact hP.other ht rfl rfl rfl rfl rfl rfl rfl rfl rfl rfl rfl rfl
  case reload => cases e; exact hP.serve (fun t ht => hP.reload' ht _) h
  case setpointExpiry => cases e; exact hP.settle (hP.setpointExpiry h _)
  case scanExpiry => cases e; exact hP.scanEnd h
  case conversionComplete => cases e; exact hP.conversion h _
  case lingerExpiry =>
    cases e
    refine hP.settle ?_
    unfold lingerEnds; split
    · exact h
    · exact hP.other h rfl rfl rfl rfl rfl rfl rfl rfl rfl rfl rfl rfl
  case stepTimerExpiry => cases e; exact hP.settle (hP.stepTimeout h)
  case rackTimerExpiry => cases e; exact hP.settle (hP.rackTimeout h)
  case dropReadRepeat => cases e; exact hP.dropRepeat h
  case identityReadComplete => cases e; exact hP.readEnds h _ _
  case savePageWritten => cases e; exact hP.pageEnds h _
  case quadratureCount => cases e; exact hP.modAxes h _ _
  case illegalTransition => cases e; exact hP.settle (hP.illegalTransition h _ _)
  case referenceMark => cases e; exact hP.settle (hP.referenceMark h _ _)
  case dfltChange => cases e; exact hP.settle (hP.driveFault h _ _)
  case csyncEdge => cases e; exact hP.csync h
  case triggerEdge => cases e; exact hP.triggerEdge h _
  case triggerRelease => cases e; exact hP.modCapture h _ _
  case pocketChange => cases e; exact hP.settle (hP.pocketLevel h _ _)
  case rackOpenChange => cases e; exact hP.settle (hP.rackLevels h _ _)
  case rackClosedChange => cases e; exact hP.settle (hP.rackLevels h _ _)
  case driveFrameEnd => cases e; exact hP.modAxes h _ _

end Lasting

/-! ### The properties of Safety.lean -/

/-- A publication writes the snapshot and the links, no more (R38). -/
theorem State.publish_fields (s : State) (t : Snapshot) :
    ∃ ls, s.publish t = { s with links := ls, snapshot := { t with epoch := (s.snapshot.epoch + 1) % 65536 } } := by
  unfold State.publish State.raiseThermal; dsimp only
  repeat' split
  all_goals exact ⟨_, rfl⟩

/-- What says nothing of the records and the pockets, the commands that move them keep. -/
theorem Lasting.ofBlind {P : State → Prop} (hP : Keeps P) (hb : Blind P) (reset : ∀ s, P s → P (resetPart s))
    (change : ∀ (s : State) (a : Arm) (c : Context), s.change.get a = none → P s → P (s.setContext a (some c)))
    (reload : ∀ s l, (∀ a, s.change.get a = none) → P s → P (startReload l s)) : Lasting P where
  toKeeps := hP
  reset := reset
  install _ im h := hP.install hb im h
  startChange s a e hn _ _ h := by
    obtain ⟨ps, ks, us, e'⟩ := startChange_fields s a (s.newContext a e)
    rw [e']
    exact hb (s.setContext a (some (s.newContext a e))) _ rfl rfl rfl rfl rfl rfl rfl rfl rfl rfl (change s a (s.newContext a e) (by simpa using hn) h)
  registerAt s _ _ _ _ _ h := hb s _ rfl rfl rfl rfl rfl rfl rfl rfl rfl rfl h
  mountNew s _ _ _ _ _ h := hb s _ rfl rfl rfl rfl rfl rfl rfl rfl rfl rfl h
  retire s n p _ h := by
    unfold State.retire; split <;> exact hb s _ rfl rfl rfl rfl rfl rfl rfl rfl rfl rfl h
  reload := reload

theorem oneEntry : Lasting OneEntry :=
  .ofBlind OneEntry_keeps (fun _ _ _ _ _ _ _ _ _ e _ _ h => OneEntry_same h e) (fun _ _ => List.nodup_nil)
    (fun _ _ _ _ h => h) (fun _ _ _ _ => List.nodup_nil)

theorem rackHeld : Lasting RackHeld :=
  .ofBlind RackHeld_keeps (fun _ _ _ _ _ _ _ _ e _ e' e'' h => RackHeld_same h e e' (by rw [e'']))
    (fun s _ => RackHeld_resetPart s) (fun _ _ _ hn h => RackHeld_setContext hn h) (fun _ l hn h => RackHeld_startReload l hn h)

theorem bounds : Lasting Bounds :=
  .ofBlind Bounds_keeps (fun _ _ _ e1 e2 e3 e4 e5 _ _ _ _ h => Bounds_same h e1 e2 e3 e4 e5)
    (fun s _ => by
      have zero : (0 : Nat) ≤ 16 ∧ (0 : Nat) ≤ 8 ∧ (0 : Nat) < 65536 ∧ (0 : Nat) ≤ 32 ∧ (0 : Nat) < 65536 ∧ (0 : Nat) < 256 := by
        decide
      exact ⟨zero, zero, Nat.zero_le _, Nat.zero_lt_succ _⟩)
    (fun _ _ _ _ h => h)
    (fun s l _ h => by
      obtain ⟨ls, e⟩ := s.publish_fields (.cold 0 s.workpiece)
      unfold startReload State.reloadThermal; rw [e]
      exact ⟨h.1, h.2.1, h.2.2.1, Nat.mod_lt _ (by decide)⟩)

theorem driveEnable : Lasting DriveEnable :=
  .ofBlind DriveEnable_keeps (fun _ _ _ e1 e2 _ _ _ _ _ _ _ h => DriveEnable_same h e1 e2)
    (fun s _ a => by cases a <;> rfl) (fun _ _ _ _ h => h) (fun s l _ h a => by
      obtain ⟨ls, e⟩ := s.publish_fields (.cold 0 s.workpiece)
      unfold startReload State.reloadThermal; rw [e]
      cases a
      · exact h .A
      · exact h .B)

theorem attention : Lasting Attention :=
  .ofBlind Attention_keeps (fun _ _ e1 _ _ _ _ _ _ _ _ _ h => Attention_same h e1)
    (fun s _ k => by cases k <;> rfl) (fun _ _ _ _ h => h)
    (fun s l _ h => by
      unfold startReload; dsimp only
      refine Attention_keeps.await (Attention_keeps.modLink (Attention_keeps.modLink ?_ _ _) _ _) _ _
      exact Attention_same (Attention_keeps.publish h (.cold 0 s.workpiece)) rfl)

/-- What a new context drops (R148). -/
theorem newContext_drop {s : State} {a : Arm} {e : ChangeEntry} {p : PocketId} {x : Dropped}
    (h : (s.newContext a e).drop = some (p, x)) : e.drop = true ∧ s.dropPocket a e = some p ∧ s.droppedOf a = x := by
  change (if e.drop then (s.dropPocket a e).map fun p => (p, s.droppedOf a) else none) = some (p, x) at h
  split at h
  · rename_i hd
    cases hp : s.dropPocket a e with
    | none => rw [hp] at h; cases h
    | some q => rw [hp] at h; cases h; exact ⟨hd, rfl, rfl⟩
  · cases h

/-- What a new context takes (R148). -/
theorem newContext_take {s : State} {a : Arm} {e : ChangeEntry} {x : PocketId × Slot}
    (h : (s.newContext a e).take = some x) : s.takeOf e = some x := by
  change (if e.take then s.takeOf e else none) = some x at h
  split at h
  · exact h
  · cases h

theorem droppedOf_slot {s : State} {a : Arm} {n : Slot} (h : s.droppedOf a = .slot n) : s.mount a = .record n := by
  unfold State.droppedOf at h
  split at h
  · rename_i k e; cases h; exact e
  · cases h

theorem changeInUse_drop {s : State} {a : Arm} {e : ChangeEntry} {p : PocketId} (h : s.changeInUse a e = false)
    (hd : e.drop = true) (hp : s.dropPocket a e = some p) : (s.pockets.get p).open? = true := by
  unfold State.changeInUse at h
  rw [Bool.or_eq_false_iff, hd, hp] at h
  simpa using h.1

theorem Pocket.empty_of_open {p : Pocket} (h : p.open? = true) : p.state = .empty := by
  unfold Pocket.open? at h
  rw [Bool.and_eq_true, Bool.and_eq_true] at h
  exact of_decide_eq_true h.1.1

theorem tables : Lasting Tables where
  toKeeps := Tables_keeps
  reset s _ := Tables_resetPart s
  install s im h := Tables_install im h
  startChange s a e hn hb hu h := by
    refine Tables_startChange ?_ ?_ ?_ h
    · intro p x hx
      exact Pocket.empty_of_open (changeInUse_drop hu (newContext_drop hx).1 (newContext_drop hx).2.1)
    · intro p n hx
      have hn : s.change.get a = none := by simpa using hn
      have e := droppedOf_slot (newContext_drop hx).2.2
      unfold State.mount at e
      split at e
      · rename_i j hj
        obtain ⟨r, hr, hp⟩ := findProbe_some hj
        cases e
        exact ⟨r, hr, by simpa using hp⟩
      · have ht : s.transitOf a = none := by unfold State.transitOf; rw [hn]
        rw [ht] at e
        dsimp only at e
        split at e <;> cases e
    · intro p n hx
      have hx := newContext_take hx
      unfold State.takeOf at hx
      rw [Option.bind_eq_some_iff] at hx
      obtain ⟨x, hi, hx⟩ := hx
      split at hx
      · rename_i r hr
        split at hx
        · rename_i k hk
          cases hx
          exact ⟨r, hr, hk⟩
        · cases hx
      · cases hx
  registerAt s n p e h1 h2 h := Tables_registerAt e h1 h2 h
  mountNew s n a e h1 h2 h := Tables_mountNew e h1 h2 h
  retire s n p hp h := Tables_retire hp h
  reload s l _ h := by
    unfold startReload State.reloadThermal; dsimp only
    refine Tables_keeps.await (Tables_keeps.modLink (Tables_keeps.modLink ?_ _ _) _ _) _ _
    exact Tables_same (Tables_keeps.publish h (.cold 0 s.workpiece)) rfl rfl

end Sys2Proof.Machine
end

