-- ==== Sys2Proof/Laws/Links.lean ====
section
/-! SUPPORT. What the link unit does with a request, by link state and by its checks, how a list of checks decides, and
which bits of a mask field stand for the notice kinds. -/
namespace Sys2Proof.Machine
open Sys2Proof.Safety

/-! ### Checks in order -/

@[simp] theorem firstFailure_nil : firstFailure [] = none := rfl

@[simp] theorem firstFailure_cons (b : Bool) (c : Code) (xs : List (Bool × Code)) :
    firstFailure ((b, c) :: xs) = if b then some c else firstFailure xs := by
  cases b <;> rfl

theorem checked_pass {s : State} {l : Link} {checks : List (Bool × Code)} {f : State → State}
    (h : firstFailure checks = none) : s.checked l checks f = f s := by simp [State.checked, h]

theorem checked_fail {s : State} {l : Link} {checks : List (Bool × Code)} {f : State → State} {c : Code}
    (h : firstFailure checks = some c) : s.checked l checks f = s.respond l c := by simp [State.checked, h]

/-! ### A request by link state -/

theorem arrive_retry {s : State} {l : Link} (h : (s.links.get l).phase = .retry) (k : Option Code) :
    s.arrive l k = (s, false) := by simp [State.arrive, h]

theorem arrive_pending {s : State} {l : Link} (h : (s.links.get l).phase = .pending) (k : Option Code) :
    s.arrive l k = (s.modLink l fun x => { x with overrun := true }, false) := by simp [State.arrive, h]

theorem arrive_open {s : State} {l : Link}
    (h : (s.links.get l).phase = .idle ∨ (s.links.get l).phase = .ready) :
    s.arrive l none = (s.modLink l LinkState.take, true) := by
  rcases h with h | h <;> simp [State.arrive, h]

theorem arrive_refused {s : State} {l : Link}
    (h : (s.links.get l).phase = .idle ∨ (s.links.get l).phase = .ready) (c : Code) :
    s.arrive l (some c) = ((s.modLink l LinkState.take).respond l c, false) := by
  rcases h with h | h <;> simp [State.arrive, h]

theorem not_holds {s : State} {l : Link} (h : (s.links.get l).phase ≠ .pending) (c : Instr) :
    s.holdsRequest l c = false := by simp [State.holdsRequest, h]

theorem serve_held {s : State} {l : Link} {c : Instr} (h : s.holdsRequest l c = true) (f : State → State) :
    serve l c f s = f s := by simp [serve, h]

theorem serve_open {s : State} {l : Link} {c : Instr}
    (h : (s.links.get l).phase = .idle ∨ (s.links.get l).phase = .ready) (hc : linkCheck l c = none)
    (f : State → State) : serve l c f s = f (s.modLink l LinkState.take) := by
  have hn : s.holdsRequest l c = false := not_holds (by rcases h with h | h <;> simp [h]) c
  simp [serve, hn, hc, arrive_open h]

theorem serve_refused {s : State} {l : Link} {c : Instr}
    (h : (s.links.get l).phase = .idle ∨ (s.links.get l).phase = .ready) {k : Code} (hc : linkCheck l c = some k)
    (f : State → State) : serve l c f s = (s.modLink l LinkState.take).respond l k := by
  have hn : s.holdsRequest l c = false := not_holds (by rcases h with h | h <;> simp [h]) c
  simp [serve, hn, hc, arrive_refused h]

theorem serve_retry {s : State} {l : Link} {c : Instr} (h : (s.links.get l).phase = .retry) (f : State → State) :
    serve l c f s = s := by
  simp [serve, not_holds (l := l) (c := c) (by simp [h] : (s.links.get l).phase ≠ .pending), arrive_retry h]

theorem serve_overrun {s : State} {l : Link} {c : Instr} (h : (s.links.get l).phase = .pending)
    (hn : s.holdsRequest l c = false) (f : State → State) :
    serve l c f s = s.modLink l fun x => { x with overrun := true } := by
  simp [serve, hn, arrive_pending h]

/-! ### Answers -/

/-- A request that arrives, then its answer. -/
theorem respond_take {s : State} {l : Link} (h : (s.links.get l).phase = .idle ∨ (s.links.get l).phase = .ready)
    (c : Code) (p : Payload) : (s.modLink l LinkState.take).respond l c p = answered s l c p := by
  rcases h with h | h <;> simp [State.respond, answered, State.modLink, LinkState.take, h]

/-- A request that waited, then its answer. -/
theorem respond_held {s : State} {l : Link} {r : Instr} (h : s.holdsRequest l r = true) (c : Code) (p : Payload) :
    s.respond l c p = answered s l c p := by
  have h1 : (s.links.get l).phase = .pending := by
    simp only [State.holdsRequest, Bool.and_eq_true, decide_eq_true_eq] at h; exact h.1.1
  simp [State.respond, answered, State.modLink, h1]

/-- A request taken by its owner: the owner acts on the state as it is, or on the state with the link's request taken. -/
theorem serve_takes {s : State} {l : Link} {c : Instr} (h : Takes s l c) (hc : linkCheck l c = none) {f : State → State}
    {t : State} (ho : (s.links.get l).phase ≠ .pending → f (s.modLink l LinkState.take) = t)
    (hh : (s.links.get l).phase = .pending → f s = t) : serve l c f s = t := by
  rcases h with h | h
  · rw [serve_open h hc]; exact ho (by rcases h with h | h <;> simp [h])
  · rw [serve_held h]
    exact hh (by simp only [State.holdsRequest, Bool.and_eq_true, decide_eq_true_eq] at h; exact h.1.1)

/-- A request taken by an owner that answers, then goes on: it goes on from the answered state. -/
theorem serve_answers {s u : State} {l : Link} {c : Instr} {k : Code} {p : Payload} {f F : State → State}
    (h : Takes s l c) (hc : linkCheck l c = none) (hu : u.links.get l = s.links.get l)
    (e1 : f s = F (u.respond l k p)) (e2 : f (s.modLink l LinkState.take) = F ((u.modLink l LinkState.take).respond l k p)) :
    serve l c f s = F (answered u l k p) := by
  rcases h with h | h
  · rw [serve_open h hc, e2, respond_take (by rw [hu]; exact h)]
  · rw [serve_held h, e1]
    have h1 : (s.links.get l).phase = .pending := by
      simp only [State.holdsRequest, Bool.and_eq_true, decide_eq_true_eq] at h; exact h.1.1
    simp [State.respond, answered, State.modLink, hu, h1]

/-! ### The bits of a mask field -/

/-- The placed bits are free ones, none twice. -/
theorem placeBits_spec {free : List Nat} (hf : free.Nodup) : ∀ {ks : List Notice}, ks.length ≤ free.length →
    (∀ b ∈ (placeBits free ks).map Prod.snd, b ∈ free) ∧ ((placeBits free ks).map Prod.snd).Nodup
      ∧ (placeBits free ks).map Prod.fst = ks := by
  intro ks
  induction ks generalizing free with
  | nil => simp [placeBits]
  | cons k ks ih =>
    intro h
    have hl : 0 < free.length := by simp at h; omega
    have hi : Config.noticeChoice k % free.length < free.length := Nat.mod_lt _ hl
    have hb : free.getD (Config.noticeChoice k % free.length) 0 ∈ free := by
      rw [List.getD_eq_getElem?_getD, List.getElem?_eq_getElem hi]; exact List.getElem_mem hi
    generalize hg : free.getD (Config.noticeChoice k % free.length) 0 = b at hb
    have he : (free.erase b).length = free.length - 1 := List.length_erase_of_mem hb
    obtain ⟨h1, h2, h3⟩ := ih (hf.erase b) (by simp at h; omega)
    have hp : placeBits free (k :: ks) = (k, b) :: placeBits (free.erase b) ks := by rw [placeBits, hg]
    simp only [hp, List.map_cons, List.mem_cons, List.nodup_cons, h3, and_true]
    exact ⟨fun c hc => hc.elim (· ▸ hb) fun hc => List.mem_of_mem_erase (h1 c hc),
      fun hc => ((hf.mem_erase_iff).1 (h1 b hc)).1 rfl, h2⟩

/-- A kind's bit is among the placed ones. -/
theorem noticeBit_mem (k : Notice) : (k, noticeBit k) ∈ placeBits (List.range 32) allNotices := by
  have h3 := (placeBits_spec (List.nodup_range (n := 32)) (ks := allNotices) (by decide)).2.2
  have hk : k ∈ (placeBits (List.range 32) allNotices).map Prod.fst := by rw [h3]; cases k <;> decide
  unfold noticeBit
  generalize placeBits (List.range 32) allNotices = xs at hk
  clear h3
  induction xs with
  | nil => cases hk
  | cons x xs ih =>
    obtain ⟨j, b⟩ := x
    by_cases hj : k = j
    · subst hj; simp
    · have : (k == j) = false := by simpa using hj
      simp only [List.lookup_cons, this]
      refine List.mem_cons_of_mem _ (ih ?_)
      simpa [hj] using hk

/-- Each kind has one of the 32 bits (R203). -/
theorem noticeBit_lt (k : Notice) : noticeBit k < 32 := by
  have h := (placeBits_spec (List.nodup_range (n := 32)) (ks := allNotices) (by decide)).1
  exact List.mem_range.1 (h _ (List.mem_map_of_mem (noticeBit_mem k)))

/-- No two kinds share a bit (R203). -/
theorem noticeBit_injective {k j : Notice} (h : noticeBit k = noticeBit j) : k = j := by
  have h2 := (placeBits_spec (List.nodup_range (n := 32)) (ks := allNotices) (by decide)).2.1
  have hk := noticeBit_mem k
  have hj := noticeBit_mem j
  rw [← h] at hj
  generalize placeBits (List.range 32) allNotices = xs at h2 hk hj
  induction xs with
  | nil => cases hk
  | cons x xs ih =>
    simp only [List.map_cons, List.nodup_cons, List.mem_map, not_exists, not_and] at h2
    rcases List.mem_cons.1 hk with e | hk
    · rcases List.mem_cons.1 hj with f | hj
      · rw [← e] at f; exact (congrArg Prod.fst f).symm
      · exact absurd (congrArg Prod.snd e) (h2.1 (j, noticeBit k) hj)
    · rcases List.mem_cons.1 hj with f | hj
      · exact absurd (congrArg Prod.snd f) (h2.1 (k, noticeBit k) hk)
      · exact ih h2.2 hk hj
end Sys2Proof.Machine
end

