-- ==== Sys2Proof/Laws/Paths.lean ====
section
/-! SUPPORT. What the shared operations over boxes, paths, mounts, byte fields and payloads compute, and what the completion of
an ARM RESET leaves, each in one lemma in the words of Safety.lean: citing it spares a proof the operation's text. -/
namespace Sys2Proof.Machine
open Sys2Proof.Safety

/-! ### Boxes and zones -/

theorem boxMeets_iff (x y : Box) : boxMeets x y = true ↔ Meets x y := by
  simp only [boxMeets, PerAxis.every, PerAxis.of, Meets, id, Bool.and_eq_true, decide_eq_true_eq]
  exact ⟨fun h i => (by cases i; exact h.1.1; exact h.1.2; exact h.2), fun h => ⟨⟨h .X, h .Y⟩, h .Z⟩⟩

theorem mem_allZones (z : ZoneId) : z ∈ allZones := List.mem_finRange z

/-- Stage 4's FORBIDDEN test (R81). -/
theorem State.forbidden_iff (s : State) (a : Arm) (g : Geometry) : s.forbidden a g = true ↔ InForbidden s a g := by
  simp only [State.forbidden, InForbidden, List.any_eq_true, mem_allZones, true_and, Bool.and_eq_true,
    decide_eq_true_eq]
  refine exists_congr fun z => and_congr_right fun _ => ?_
  have e : ∀ p r, expand p r = Around p r := fun _ _ => rfl
  simp only [e]
  by_cases h : Meets (Around g.start (s.reach a)) (s.zones.get z).box
  · rw [if_pos ((boxMeets_iff _ _).2 h), boxMeets_iff]; simp [h]
  · rw [if_neg (fun x => h ((boxMeets_iff _ _).1 x)), boxMeets_iff]; simp [h]

/-- Stage 4's RACK test (R81). -/
theorem State.meetsRack_iff (s : State) (g : Geometry) : s.meetsRack g.swept = true ↔ InRackZone s g := by
  simp only [State.meetsRack, State.zonesMet, InRackZone, Bool.not_eq_true', List.isEmpty_eq_false_iff_exists_mem,
    List.mem_filter, mem_allZones, true_and, Bool.and_eq_true, decide_eq_true_eq, boxMeets_iff]

/-- The hand-over check (R120). -/
theorem State.barred_iff (s : State) (a : Arm) (g : Geometry) :
    s.barred a g.needed (expand g.finish (s.reach a)) = true ↔ HandoverBars s a g := by
  have e : ∀ p r, expand p r = Around p r := fun _ _ => rfl
  simp only [State.barred, HandoverBars, e, List.any_eq_true, Bool.and_eq_true, decide_eq_true_eq,
    List.contains_iff_mem, boxMeets_iff, and_assoc]

/-! ### Paths -/

theorem vecNorm_eq (v : Vec3) : vecNorm v = lengthOf v := by
  have e : ∀ x : Int, ((x.natAbs ^ 2 : Nat) : Int) = x * x := fun x => by
    rw [Nat.pow_two, Int.natCast_mul, Int.natAbs_mul_self']
  unfold vecNorm lengthOf
  rw [← e v.x, ← e v.y, ← e v.z]
  rfl

theorem clamp32_eq (x : Int) : clamp32 x = max (-2147483648) (min x 2147483647) := by
  unfold clamp32 clamp
  split <;> (try split) <;> omega

/-- The geometry of stages 3 and 4 (R80, R81, R111). -/
theorem State.formGeometry_spec (s : State) (a : Arm) (m : Move) (t : Vec3) :
    Formed s a m t (s.formGeometry a m t) := by
  have n : ∀ v : Vec3, lengthOf v = vecNorm v := fun v => (vecNorm_eq v).symm
  refine ⟨fun i => ?_, fun i => ?_, fun i => ?_, ?_, fun i => ?_, fun z => ?_⟩
  · exact .trans (by cases i <;> rfl) (clamp32_eq _)
  · rw [n]
    cases m <;> cases i <;> rfl
  · cases i <;> rfl
  · rw [n]; rfl
  · cases i <;> exact ⟨rfl, rfl⟩
  · simp only [State.formGeometry, List.mem_append, State.zonesMet, List.mem_filter, mem_allZones, true_and,
      Bool.and_eq_true, decide_eq_true_eq, boxMeets_iff]
    by_cases h : m.kind = .rack <;> simp [h, Option.mem_toList]

theorem roundDiv_nonneg {x y : Int} (hx : 0 ≤ x) (hy : 0 ≤ y) : 0 ≤ roundDiv x y := by
  have sg : ∀ z : Int, 0 ≤ z → 0 ≤ z.sign := fun z hz => by
    cases z with
    | ofNat k => cases k with
      | zero => exact Int.le_refl 0
      | succ k => exact (by decide : (0 : Int) ≤ 1)
    | negSucc k => exact absurd hz (by omega)
  exact Int.mul_nonneg (Int.mul_nonneg (sg x hx) (sg y hy)) (Int.natCast_nonneg _)

theorem feedVelocity_eq (feed vMax n d : Nat) :
    let per := fun f : Nat => roundDiv (f * n) (d * 1000000)
    ((feedVelocity feed vMax n d : Nat) : Int) = max 1 (min (per feed) (if per vMax = 0 then 1 else per vMax)) := by
  intro per
  have p : ∀ f : Nat, 0 ≤ per f := fun f =>
    roundDiv_nonneg (Int.mul_nonneg (Int.natCast_nonneg f) (Int.natCast_nonneg n)) (by omega)
  have h1 := p feed
  have h2 := p vMax
  show ((clampNat (per feed).toNat 1 (if (per vMax).toNat = 0 then 1 else (per vMax).toNat) : Nat) : Int) = _
  unfold clampNat
  (repeat' split) <;> omega

/-- The working record at activation of a segment with a target (R83, R84). -/
theorem State.work_spec (s : State) (a : Arm) (h : Segment) (g : Geometry) (hm : h.move.target? ≠ none) :
    PathOf s a h g (s.work a h (some g)) := by
  obtain ⟨tag, feed, mv⟩ := h
  have v := feedVelocity_eq feed (s.cal.get a).vMax (s.timers.get a).n (s.timers.get a).d
  cases mv with
  | home i d n => simp [Move.target?] at hm
  | position t => exact ⟨rfl, rfl, rfl, rfl, rfl, rfl, fun i => by cases i <;> rfl, v, rfl, rfl, rfl⟩
  | probe t b => exact ⟨rfl, rfl, rfl, rfl, rfl, rfl, fun i => by cases i <;> rfl, v, rfl, rfl, rfl⟩
  | rack t => exact ⟨rfl, rfl, rfl, rfl, rfl, rfl, fun i => by cases i <;> rfl, v, rfl, rfl, rfl⟩

theorem wrap32_spec (x : Int) :
    -2147483648 ≤ wrap32 x ∧ wrap32 x ≤ 2147483647 ∧ (wrap32 x - x) % 4294967296 = 0 := by
  unfold wrap32
  have h1 := Int.le_bmod (x := x) (m := 4294967296) (by decide)
  have h2 := Int.bmod_lt (x := x) (m := 4294967296) (by decide)
  have h3 := Int.bmod_emod (x := x) (m := 4294967296)
  omega

/-- The setpoints of a working record (R86). -/
theorem Working.setpoints_spec (w : Working) : OnPath w w.setpoints := by
  intro i
  have e : w.setpoints.get i = wrap32 (w.rawStart.get i + roundDiv (w.span i * w.p) w.len) := by cases i <;> rfl
  obtain ⟨h1, h2, h3⟩ := wrap32_spec (w.rawStart.get i + roundDiv (w.span i * w.p) w.len)
  refine ⟨w.span i, ?_, by rw [e]; exact h1, by rw [e]; exact h2, by rw [e]; exact h3⟩
  unfold Working.span
  cases w.seg.move with
  | home j d n => exact wrap32_spec _
  | _ => rfl

/-! ### Mount and reach -/

/-- The reach (R106). -/
theorem State.reach_spec (s : State) (a : Arm) : ReachIs s a (s.reach a) := by
  refine ⟨fun h => ⟨fun n p hm hp => ?_, fun hm => ?_, fun hm => ?_⟩,
    fun c hc hw => ⟨fun ht => ?_, fun ht hp => ?_, fun p n k ht hp hk => ?_⟩⟩
  all_goals simp only [State.reach, State.probeReach, State.slotReach, maxReach]
  · cases hc : s.change.get a with
    | none => simp [hm, hp]
    | some c => simp [hm, hp, h c hc]
  · cases hc : s.change.get a with
    | none => simp [hm]
    | some c => simp [hm, h c hc]
  · cases hc : s.change.get a with
    | none => simp [hm]
    | some c => simp [hm, h c hc]
  · cases hd : c.drop <;> simp [hc, hw, ht, hd]
  · cases hd : c.drop <;> cases hk : c.take <;> simp_all
  · cases hd : c.drop <;> simp [hc, hw, ht, hp, hk, hd]

theorem mountedOn_some {s : State} {a : Arm} {n : Slot} (h : s.mountedOn a = some n) :
    ∃ r, s.probes.get n = some r ∧ r.place = .mounted a := by
  have := List.find?_some h
  cases hp : s.probes.get n with
  | none => simp [hp] at this
  | some r => exact ⟨r, rfl, by simpa [hp] using this⟩

theorem mountedOn_none {s : State} {a : Arm} (h : s.mountedOn a = none) (n : Slot) :
    ¬ ∃ r, s.probes.get n = some r ∧ r.place = .mounted a := by
  rintro ⟨r, hr, hp⟩
  have := List.find?_eq_none.1 h n (List.mem_finRange n)
  simp [hr, hp] at this

theorem transitOf_some {s : State} {a : Arm} {n : Slot} :
    s.transitOf a = some n ↔ ∃ c p r, s.change.get a = some c ∧ c.drop = some (p, .slot n)
      ∧ c.dropConfirmed = false ∧ s.probes.get n = some r ∧ r.place = .inTransit a := by
  constructor
  · intro h
    unfold State.transitOf at h
    split at h
    · next c hc =>
      split at h
      · next p m hd =>
        split at h
        · next hg =>
          cases h
          simp only [Bool.and_eq_true, Bool.not_eq_true', Option.any_eq_true, decide_eq_true_eq] at hg
          obtain ⟨hf, r, hr, hp⟩ := hg
          exact ⟨c, p, r, hc, hd, hf, hr, hp⟩
        · cases h
      · cases h
    · cases h
  · rintro ⟨c, p, r, hc, hd, hf, hr, hp⟩
    simp [State.transitOf, hc, hd, hf, hr, hp]

/-- The mount (R126). -/
theorem State.mount_spec (s : State) (a : Arm) (ht : Tables s) : MountIs s a (s.mount a) := by
  refine ⟨fun n ⟨r, hr, hp⟩ => ?_, fun n hn hm => ?_, fun hn hm => ?_⟩
  · cases h : s.mountedOn a with
    | none => exact absurd ⟨r, hr, hp⟩ (mountedOn_none h n)
    | some k =>
      obtain ⟨q, hq, hk⟩ := mountedOn_some h
      rw [ht.2 a k n q r hq hr hk hp] at h
      simp [State.mount, h]
  all_goals
    have h : s.mountedOn a = none := by
      cases h : s.mountedOn a with
      | none => rfl
      | some k => exact absurd (mountedOn_some h) (hn k)
  · simp [State.mount, h, transitOf_some.2 hm]
  · have h2 : s.transitOf a = none := by
      cases h2 : s.transitOf a with
      | none => rfl
      | some k => exact absurd (transitOf_some.1 h2) (hm k)
    simp only [State.mount, h, h2]

/-! ### Fields of bytes -/

/-- A field does not see the bytes before it. -/
theorem field_append (pre bs : List Byte) (n : Nat) : ∀ i, field (pre ++ bs) (pre.length + i) n = field bs i n := by
  induction n with
  | zero => intro i; rfl
  | succ n ih =>
    intro i
    have h : (pre ++ bs).getD (pre.length + i) 0#8 = bs.getD i 0#8 := by
      rw [List.getD_eq_getElem?_getD, List.getD_eq_getElem?_getD, List.getElem?_append_right (Nat.le_add_right _ _),
        Nat.add_sub_cancel_left]
    rw [field, field, h, Nat.add_assoc, ih]

/-- The bytes of a number, least significant first, one at a time. -/
theorem bytesLE_succ (n v : Nat) : bytesLE (n + 1) v = BitVec.ofNat 8 v :: bytesLE n (v / 256) := by
  simp only [bytesLE, List.range_succ_eq_map, List.map_cons, List.map_map, Nat.pow_zero, Nat.div_one]
  congr 1
  refine List.map_congr_left fun i _ => ?_
  simp only [Function.comp, Nat.pow_succ, Nat.div_div_eq_div_mul, Nat.succ_eq_add_one, Nat.mul_comm]

/-- The field that a number's bytes are at the head of a list (10.7). -/
theorem field_bytesLE (n : Nat) : ∀ (v : Nat) (bs : List Byte), field (bytesLE n v ++ bs) 0 n = v % 256 ^ n := by
  induction n with
  | zero => intro v bs; simp [field, Nat.mod_one]
  | succ n ih =>
    intro v bs
    have h := field_append [BitVec.ofNat 8 v] (bytesLE n (v / 256) ++ bs) n 0
    rw [bytesLE_succ, List.cons_append, field]
    simp only [List.singleton_append, List.length_singleton, Nat.add_zero] at h
    rw [Nat.zero_add, h, ih, List.getD_cons_zero, BitVec.toNat_ofNat, show 256 ^ (n + 1) = 256 * 256 ^ n from Nat.pow_succ',
      show v % (256 * 256 ^ n) = v % 256 + 256 * (v / 256 % 256 ^ n) from Nat.mod_mul]

/-- The same behind other bytes. -/
theorem field_bytesLE_after (pre bs : List Byte) (n v : Nat) :
    field (pre ++ (bytesLE n v ++ bs)) pre.length n = v % 256 ^ n := by
  have h := field_append pre (bytesLE n v ++ bs) n 0
  rw [Nat.add_zero] at h; rw [h, field_bytesLE]

/-! ### Payloads -/

/-- A payload keeps to 1,024 bytes where it carries at most six points (R179, R201). -/
theorem Payload.bytes_length (p : Payload) (h : ∀ contact left ps, p = .points contact left ps → ps.length ≤ 6) :
    p.bytes.length ≤ 1024 := by
  have point : ∀ q : Point, q.bytes.length = 24 := fun q => by
    simp only [Point.bytes, bytesS32, bytesLE, List.length_append, List.length_map, List.length_range]
  have flat : ∀ ps : List Point, (ps.flatMap Point.bytes).length = 24 * ps.length := fun ps => by
    induction ps with
    | nil => rfl
    | cons q qs ih => rw [List.flatMap_cons, List.length_append, ih, point, List.length_cons]; omega
  unfold Payload.bytes
  split
  · exact Nat.zero_le _
  · next c l ps =>
    have h6 := h c l ps rfl
    have hd := Config.pointsHeadLength.isLt
    rw [List.length_append, flat, List.length_map, List.length_range]
    omega
  · rw [List.length_map, List.length_range]
    exact Nat.le_of_lt_succ (Config.payloadLength p).isLt

/-! ### The completion of an ARM RESET -/

/-- What the completion of an ARM RESET leaves of its arm, and that the other arm and link S stay (R101). -/
theorem resetDone_spec (s : State) (a : Arm) :
    ((resetDone s a).motion.get a).phase = .off ∧ ((resetDone s a).motion.get a).queue = []
      ∧ ((resetDone s a).motion.get a).results = [] ∧ ((resetDone s a).motion.get a).resetPending = false
      ∧ ((resetDone s a).axes.get a).den = false ∧ ((resetDone s a).capture.get a).points = []
      ∧ ((resetDone s a).links.get a.link).flags = []
      ∧ (resetDone s a).motion.get a.other = s.motion.get a.other ∧ (resetDone s a).axes.get a.other = s.axes.get a.other
      ∧ (resetDone s a).links.get .S = s.links.get .S ∧ (resetDone s a).waiters = s.waiters := by
  have h : ∀ u : AxisUnit, (u.drive false).den = false := fun u => by
    cases hu : u.den <;> simp [AxisUnit.drive, hu]
  cases a <;> exact ⟨rfl, rfl, rfl, rfl, h _, rfl, rfl, rfl, rfl, rfl, rfl⟩

end Sys2Proof.Machine
end

