-- ==== Sys2Proof/Laws/Zones.lean ====
section
/-! SUPPORT. While no arm waits for zones, what a standing recompute, a release, a linger and the settling of an ended
segment's zones set off stays within the zone arbiter: the state after them is the state before but for its zone
fields. -/
namespace Sys2Proof.Machine
open Sys2Proof.Safety

/-! ### The zone fields alone -/

theorem ExceptZones_refl (s : State) : ExceptZones s s := rfl

theorem ExceptZones_trans {s t u : State} (h : ExceptZones s t) (k : ExceptZones t u) : ExceptZones s u := by
  unfold ExceptZones at *
  rw [k, h]

theorem ExceptZones_waiters {s t : State} (h : ExceptZones s t) : t.waiters = s.waiters := by rw [h]

theorem ExceptZones_tidyLinger {s t : State} (a : Arm) (h : ExceptZones s t) : ExceptZones s (t.tidyLinger a) := by
  unfold State.tidyLinger
  split
  · unfold ExceptZones at *; rw [h]
  · exact h

/-! ### One piece, with no waiter on the list -/

/-- One piece of work runs to its end within a number of steps and leaves a state that differs in the zone fields. -/
def Contained (w : Nat) (t : Task) : Prop :=
  ∀ s : State, s.waiters = [] → ∃ s' k, 1 ≤ k ∧ k ≤ w ∧ ExceptZones s s' ∧ ∀ n ts, runTasks (n + k) (t :: ts) s = runTasks n ts s'

/-- A piece that sets off nothing. -/
theorem Contained_last {w : Nat} {t : Task} {s s' : State} (hw : 1 ≤ w) (h : perform t s = (s', []))
    (k : ExceptZones s s') :
    ∃ s' k, 1 ≤ k ∧ k ≤ w ∧ ExceptZones s s' ∧ ∀ n ts, runTasks (n + k) (t :: ts) s = runTasks n ts s' :=
  ⟨s', 1, Nat.le_refl 1, hw, k, fun n ts => by rw [runTasks_cons, h]; rfl⟩

/-- A piece that sets off one contained piece. -/
theorem Contained_next {w : Nat} {t u : Task} {s s' : State} (hw : s.waiters = []) (h : perform t s = (s', [u]))
    (k : ExceptZones s s') (hu : Contained w u) :
    ∃ s' k, 1 ≤ k ∧ k ≤ w + 1 ∧ ExceptZones s s' ∧ ∀ n ts, runTasks (n + k) (t :: ts) s = runTasks n ts s' := by
  obtain ⟨s2, j, -, hj, e, hr⟩ := hu s' (by rw [ExceptZones_waiters k, hw])
  refine ⟨s2, j + 1, Nat.succ_le_succ (Nat.zero_le j), Nat.succ_le_succ hj, ExceptZones_trans k e, fun n ts => ?_⟩
  rw [← Nat.add_assoc, runTasks_cons, h]
  exact hr n ts

theorem Contained_mono {v w : Nat} {t : Task} (h : v ≤ w) (c : Contained v t) : Contained w t := by
  intro s hs
  obtain ⟨s', k, h1, hk, e, hr⟩ := c s hs
  exact ⟨s', k, h1, Nat.le_trans hk h, e, hr⟩

theorem scan_contained : Contained 1 .scan := by
  intro s hw
  refine Contained_last (s' := s) (Nat.le_refl 1) ?_ rfl
  simp [perform, scan, hw]

theorem release_contained (a : Arm) (zs : List ZoneId) : Contained 2 (.release a zs) := by
  intro s hw
  by_cases h : (zs.filter fun z => s.holds a z).isEmpty
  · refine Contained_last (s' := s) (by omega) ?_ rfl
    simp only [perform, release, h, if_true]
  · refine Contained_next hw (u := .scan) (s' := (release a zs s).1) ?_ ?_ scan_contained
    · simp only [perform, release, h, if_false, Bool.false_eq_true]
    · simp only [release, h, if_false, Bool.false_eq_true]
      exact ExceptZones_tidyLinger a rfl

theorem releaseLoose_contained (a : Arm) : Contained 2 (.releaseLoose a) := by
  intro s hw
  obtain ⟨s', k, h1, hk, e, hr⟩ := release_contained a (s.loose a) s hw
  obtain ⟨j, rfl⟩ := Nat.exists_eq_add_of_le' h1
  exact ⟨s', j + 1, h1, hk, e, fun n ts => (hr n ts).symm ▸ rfl⟩

theorem linger_contained (a : Arm) : Contained 3 (.linger a) := by
  intro s hw
  by_cases h : (s.heldFor a .linger).isEmpty
  · refine Contained_last (s' := (startLinger a s).1) (by omega) ?_ ?_
    · simp only [perform, startLinger, h, if_true]
    · simp only [startLinger, h, if_true]; rfl
  · by_cases h0 : s.settings.linger = 0
    · refine Contained_next hw (u := .release a (s.heldFor a .linger)) (s' := s) ?_ rfl (release_contained _ _)
      simp only [perform, startLinger, h, h0, if_true, if_false, Bool.false_eq_true]
    · refine Contained_next hw (u := .release a ((s.heldFor a .linger).filter fun z =>
        (((s.entry a.other).map (·.needed)).getD []).contains z)) (s' := (startLinger a s).1) ?_ ?_
        (release_contained _ _)
      · simp only [perform, startLinger, h, h0, if_false, Bool.false_eq_true]
      · simp only [startLinger, h, h0, if_false, Bool.false_eq_true]; rfl

theorem recompute_piece (a : Arm) (b : List ZoneId) (s : State) (hw : s.waiters = []) (t : Task)
    (ht : perform t s = recompute a b s) :
    ∃ s' k, 1 ≤ k ∧ k ≤ 4 ∧ ExceptZones s s' ∧ ∀ n ts, runTasks (n + k) (t :: ts) s = runTasks n ts s' := by
  by_cases h : s.startup = .loading
  · refine Contained_last (s' := s) (by omega) ?_ rfl
    rw [ht]; simp [recompute, h]
  · have hr : recompute a b s = recomputeCore a b s := by
      simp [recompute, h, State.entry, hw]
    have he : ExceptZones s (recomputeCore a b s).1 := rfl
    by_cases hd : denOf (s.motion.get a).phase = true
    · refine Contained_next hw (u := .linger a) (s' := (recomputeCore a b s).1) ?_ he (linger_contained a)
      rw [ht, hr]; simp [recomputeCore, hd]
    · obtain ⟨s', k, h1, hk, e, hrun⟩ := Contained_next (w := 2) hw (t := t) (s' := (recomputeCore a b s).1)
        (u := .release a ((s.heldFor a .standing ++ s.heldFor a .claim).filter fun z =>
          !(s.standingSet a).contains z)) (by rw [ht, hr]; simp only [recomputeCore, if_neg hd]) he
        (release_contained _ _)
      exact ⟨s', k, h1, by omega, e, hrun⟩

theorem recompute_contained (a : Arm) : Contained 4 (.recompute a) := fun s hw =>
  recompute_piece a _ s hw _ rfl

theorem recomputeEnd_contained (a : Arm) (needed : List ZoneId) : Contained 4 (.recomputeEnd a needed) := fun s hw =>
  recompute_piece a needed s hw _ rfl

theorem recomputeOwed_contained (a : Arm) : Contained 4 (.recomputeOwed a) := by
  intro s hw
  by_cases hd : s.deferred.get a = true
  · obtain ⟨s', k, h1, hk, e, hr⟩ :=
      recompute_piece a _ { s with deferred := s.deferred.set a false } hw (.recompute a) rfl
    obtain ⟨j, rfl⟩ := Nat.exists_eq_add_of_le' h1
    refine ⟨s', j + 1, h1, hk, ExceptZones_trans (t := { s with deferred := s.deferred.set a false }) rfl e, ?_⟩
    intro n ts
    rw [← hr n ts, ← Nat.add_assoc, runTasks_cons, runTasks_cons]
    simp only [perform, recomputeOwed, hd, if_true]
    rfl
  · refine Contained_last (s' := s) (by omega) ?_ rfl
    simp only [perform, recomputeOwed, hd, if_false, Bool.false_eq_true]

theorem settleZones_contained (a : Arm) : Contained 4 (.settleZones a) := by
  intro s hw
  by_cases h : ((s.motion.get a).active.isSome || decide ((s.motion.get a).phase = .waiting .zone)
      || !denOf (s.motion.get a).phase) = true
  · refine Contained_last (s' := s) (by omega) ?_ rfl
    simp only [perform, settleZones, h, if_true]
  · by_cases hz : (State.heldFor { s with
        holders := s.holders.mapIdx fun _ x => if x = some (a, .segment) then some (a, .linger) else x } a
        .linger).isEmpty = true
    · refine Contained_last (s' := (settleZones a s).1) (by omega) ?_ ?_
      · simp only [perform, settleZones, h, if_false, Bool.false_eq_true]; rw [if_pos hz]
      · simp only [settleZones, h, if_false, Bool.false_eq_true]; rfl
    · refine Contained_next hw (u := .linger a) (s' := (settleZones a s).1) ?_ ?_ (linger_contained a)
      · simp only [perform, settleZones, h, if_false, Bool.false_eq_true]; rw [if_neg hz]
      · simp only [settleZones, h, if_false, Bool.false_eq_true]; rfl

/-- A contained piece at the front of a cascade: the rest runs from a state that differs in the zone fields. -/
theorem run_contained {w : Nat} {t : Task} (c : Contained w t) {s : State} (hw : s.waiters = []) (n : Nat) (h : w ≤ n)
    (ts : List Task) : ∃ s' m, n ≤ m + w ∧ m ≤ n ∧ ExceptZones s s' ∧ runTasks n (t :: ts) s = runTasks m ts s' := by
  obtain ⟨s', k, -, hk, e, hr⟩ := c s hw
  refine ⟨s', n - k, by omega, by omega, e, ?_⟩
  rw [← hr (n - k) ts]
  congr 1
  omega

/-- A cascade of one contained piece. -/
theorem settle_contained {w : Nat} {t : Task} (c : Contained w t) (h : w ≤ cascadeBound) {s : State}
    (hw : s.waiters = []) : ExceptZones s (settle (s, [t])) := by
  obtain ⟨s', m, -, -, e, hr⟩ := run_contained c hw cascadeBound h []
  unfold settle
  rw [hr, runTasks_nil]
  exact e

end Sys2Proof.Machine
end

