-- ==== Sys2Proof/Tests/Slice0.lean ====
section
/-! SUPPORT. The author's tests: ill-formed commands that WellFormed refuses, worked examples of the spec, the boundary
values of the checks, and for each statement a state and operands that meet its hypotheses. -/
namespace Sys2Proof.Tests
-- One theorem at a time: many at once wait on each other, and each waiting one keeps a thread.
set_option Elab.async false
open Sys2Proof.Machine Sys2Proof.Safety

/-! ### States -/

/-- A link that waits for a request. -/
def idleLink (l : Link) : LinkState := { LinkState.reset l with phase := .idle }

/-- The part READY, both arms OFF. -/
def ready : State :=
  { State.reset with startup := .ready, loading := none, links := ⟨idleLink .A, idleLink .B, idleLink .S⟩ }

/-- A calibration with soft limits. -/
def cal1 : Calibration :=
  { defaultCalibration with
    axis := .all { sign := 1, base := 0, reference := 0, alpha := 12, softMin := -5000000, softMax := 5000000 } }

/-- Both arms enabled, referenced and IDLE. -/
def up : State :=
  { ready with
    cal := .both cal1
    axes := .both { axis := .all { AxisState.reset with referenced := true }, den := true, dflt := false, frameCount := 7,
                    line := [], bits := 0 }
    motion := .both { Motion.reset with phase := .idle } }

/-- Arm A's motion unit changed. -/
def withA (s : State) (f : Motion → Motion) : State := s.modMotion .A f

def homeSeg : Segment := ⟨5, 8000, .home .X .rising 1000⟩
def posSeg : Segment := ⟨9, 8000, .position (.all 200)⟩
def probeSeg : Segment := ⟨6, 100, .probe (.all 1000) 50⟩
def homeEntry : SegEntry :=
  { tag := 5, kind := some .home, target := .all 0, feed := 8000, overtravel := 0, axis := some .X,
    direction := some .rising, search := 1000 }

/-- A working record of arm A. -/
def work (g : Segment) (p v : Nat) (st : SegStatus) : Working := { up.work .A g none with p := p, v := v, status := st }

/-- Arm A MOVING on a HOME. -/
def moving : State := withA up fun m => { m with phase := .moving, active := some (work homeSeg 100 7 .active) }

/-- Arm A STOPPING with a pending outcome. -/
def stopping (o : Outcome) : State :=
  withA up fun m => { m with phase := .stopping, active := some (work homeSeg 100 7 (.stopping o)) }

/-- Arm A WAITING(ZONE) with its entry on the list. -/
def waiting : State :=
  { withA up fun m => { m with phase := .waiting .zone, queue := [posSeg] } with waiters := [⟨.A, .segment, [0]⟩] }

/-- Arm A HELD with a queue. -/
def held (q : List Segment) : State := withA up fun m => { m with phase := .held .missed, queue := q }

/-- A probe record in a place. -/
def record (pl : Place) : Probe :=
  { place := pl, identity := 0x0102, home := none, reach := 1000, tau := 5, qual := .both none, mountCount := 65535,
    corrupt := true, guarded := false, locked := false }

/-- Slot 4 MOUNTED on arm A, slot 6 STORED in pocket 3, zone 3 the rack. -/
def cell : State :=
  { up with
    probes := Table.put (Table.put up.probes 4 (some (record (.mounted .A)))) 6
      (some { record (.stored 3) with identity := 9 })
    pockets := Table.put up.pockets 3 { state := .occupied 6, unexpected := false, level := true }
    zones := Table.put up.zones 3 { kind := .rack, box := ⟨.all 100, .all 5000⟩, k := 0 } }

/-- A change context at a step. -/
def context (st : Step) : Context :=
  { drop := some (9, .slot 4), take := some (3, 6), step := st, dropConfirmed := false, pickConfirmed := false,
    failure := none, closing := none, dropReach := 1000, takeReach := 1000 }

/-- Arm A with a change context, far from the rack. -/
def changing (st : Step) : State :=
  (cell.modAxis .A .X fun y => { y with count := 90000000 }).setContext .A (some (context st))

/-- Arm A with a change context whose two modules are IN_TRANSIT and whose two pockets are RESERVED. -/
def underway (st : Step) : State :=
  let s := changing st
  { s with
    probes := Table.put (Table.put s.probes 4 (some (record (.inTransit .A)))) 6
      (some { record (.inTransit .A) with identity := 9 })
    pockets := Table.put (Table.put s.pockets 3 { state := .reserved, unexpected := false, level := true }) 9
      { state := .reserved, unexpected := false, level := false }
    rack := { s.rack with req := true, rackTimer := some ⟨5, 5⟩, stepTimer := some ⟨5, 5⟩, dropTimer := some ⟨5, 5⟩ } }

/-- Such a change in WAIT_RACK, its entry on the list for a rack that arm B holds. -/
def waitingRack : State :=
  { underway .waitRack with
    holders := Table.put up.holders 3 (some (.B, .change)), waiters := [⟨.A, .change, [3]⟩], rack := up.rack }

/-- `Tables` in a form that evaluates. -/
abbrev TablesOk (s : State) : Prop :=
  let alone := fun a : Arm => ∀ m : Slot, (s.probes.get m).map (·.place) = some (.mounted a) →
    ∀ n : Slot, (s.probes.get n).map (·.place) = some (.mounted a) → m = n
  (∀ (p : PocketId) (n : Slot),
    ((s.pockets.get p).state = .occupied n) ↔ (s.probes.get n).map (·.place) = some (.stored p)) ∧ alone .A ∧ alone .B

theorem tables_of (s : State) (h : TablesOk s) : Tables s := by
  refine ⟨fun p n => (h.1 p n).trans (by simp), fun a m n q r hm hn hq hr => ?_⟩
  cases a
  · exact h.2.1 m (by rw [hm, Option.map_some, hq]) n (by rw [hn, Option.map_some, hr])
  · exact h.2.2 m (by rw [hm, Option.map_some, hq]) n (by rw [hn, Option.map_some, hr])

theorem tables_up : Tables up := tables_of _ (by decide +kernel)
theorem tables_cell : Tables cell := tables_of _ (by decide +kernel)
theorem tables_underway (st : Step) : Tables (underway st) := tables_of (underway .opening) (by decide +kernel)
theorem tables_waitingRack : Tables waitingRack := tables_underway .waitRack

theorem lonely_underway (st : Step) (k : Context) : Lonely (underway st) .A k := Or.inl rfl
theorem lonely_waitingRack : Lonely waitingRack .A (context .waitRack) :=
  Or.inr ⟨rfl, nofun, 3, .change, rfl, by decide⟩

/-- The result code a link holds after a command. -/
def codeAfter (c : Instr) (l : Link) (s : State) : Option Code :=
  match exec c s with
  | .next t => (t.links.get l).response.map (·.code)
  | _ => none

/-! ### Well-formed commands, decoding -/

def badEntry : SegEntry := { homeEntry with tag := 65536 }
def badCal : Calibration := { defaultCalibration with a := 65536 }

theorem test_wf_numbers_refused :
    (Instr.override .A 256).wf = false ∧ (Instr.readZone .A 256).wf = false ∧ (Instr.readProbe .A 256).wf = false
      ∧ (Instr.readPocket .A 256).wf = false ∧ (Instr.readChannel .A 256).wf = false
      ∧ (Instr.setScanInterval .S 65536).wf = false ∧ (Instr.setTimer .S none 65536 1).wf = false
      ∧ (Instr.setTimer .S none 1 256).wf = false ∧ (Instr.retireProbe .S 256).wf = false
      ∧ (Instr.setProtection .S 256 true).wf = false ∧ (Instr.lockProbe .S 256).wf = false
      ∧ (Instr.unlockProbe .S 256).wf = false ∧ (Instr.writePocket .S 256 none).wf = false
      ∧ (Instr.conversionComplete 65536).wf = false
      ∧ (Instr.identityReadComplete .A (.code 4294967296)).wf = false := by decide

theorem test_wf_payloads_refused :
    (Instr.post .A [badEntry]).wf = false ∧ (Instr.replace .A (List.replicate 9 homeEntry)).wf = false
      ∧ (Instr.requestChange .A ⟨true, some 256, false, 0⟩).wf = false
      ∧ (Instr.qualify .A ⟨256, none, .all 0, 0⟩).wf = false ∧ (Instr.qualify .A ⟨0, none, .all 2147483648, 0⟩).wf = false
      ∧ (Instr.writeCalibration .S none badCal).wf = false
      ∧ (Instr.writeWorkpiece .S { defaultWorkpiece with alpha := 65536 }).wf = false
      ∧ (Instr.writeZone .S 0 ⟨none, ⟨.all 0, .all 0⟩, 256⟩).wf = false
      ∧ (Instr.writeZone .S 256 ⟨none, ⟨.all 0, .all 0⟩, 0⟩).wf = false
      ∧ (Instr.writeChannel .S 0 ⟨none, 65536, 0, 0, 0, 0, 0⟩).wf = false
      ∧ (Instr.editScanList .S none 0 [256]).wf = false
      ∧ (Instr.writeSettings .S ⟨none, none, 65536, 0, 0, 0, [], [], []⟩).wf = false
      ∧ (Instr.registerProbe .S ⟨4294967296, 0, 0, none, .neither⟩).wf = false
      ∧ (Instr.writeProbe .S ⟨0, 0, 65536, none⟩).wf = false := by decide

theorem test_wf_long_list_refused : (Instr.editScanList .S none 0 (List.replicate 238 0)).wf = false := by
  decide +kernel

theorem test_wf_frames_refused :
    (Instr.writePeriod .A []).wf = false ∧ (Instr.writePeriod .A [0#8]).wf = false
      ∧ (Instr.unassignedCommand .A 0#8).wf = false ∧ (Instr.unassignedCommand .A 0x12#8).wf = false
      ∧ (Instr.sectionLoadComplete (.region (some .zones) 0 (.pockets (Vector.replicate 12 false)) 0)).wf = false := by
  decide

theorem test_no_word_decodes : decodeTableWord 16 0xFFFF = none := rfl

/-! ### Worked examples of the spec -/

/-- R6's table of quotients. -/
theorem test_round_div :
    roundDiv 7 2 = 4 ∧ roundDiv (-7) 2 = -4 ∧ roundDiv 7 (-2) = -4 ∧ roundDiv 5 3 = 2 ∧ roundDiv (-5) 3 = -2
      ∧ roundDiv 1 3 = 0 ∧ roundDiv 440987633200000 1000000000000 = 441 ∧ roundDiv 4800 5000 = 1 := by decide

/-- R84's table: feeds 8,000, 250,000, 50 and 30,000. -/
theorem test_feed_velocity :
    feedVelocity 8000 200000 5000 1 = 40 ∧ feedVelocity 250000 200000 5000 1 = 1000 ∧ feedVelocity 50 200000 5000 1 = 1
      ∧ feedVelocity 30000 50000 12500 3 = 125 := by decide

/-- R24's rows and R25's first step. -/
theorem test_scaling :
    (-25000 : Int) + roundDiv (32768 * 50000) 65536 = 0 ∧ (-25000 : Int) + roundDiv (40000 * 50000) 65536 = 5518
      ∧ filterStep 300 0 3 = 263 ∧ filterStep 7 0 3 = 7 := by decide

/-! ### The hypotheses of the statements can be met: the queue, the load, the links -/

/-- Two timers due at once. -/
def dueTwo : State := { up with linger := ⟨some ⟨1, 1⟩, some ⟨1, 1⟩⟩ }

theorem test_meets_StepTakesFront : { up with pending := [.csyncEdge] }.pending = .csyncEdge :: [] := rfl

theorem test_meets_IdleStep :
    up.pending = [] ∧ due up = [] ∧ due { up with linger := ⟨some ⟨1, 1⟩, none⟩ } = [.lingerExpiry .A]
      ∧ due dueTwo = .lingerExpiry .A :: .lingerExpiry .B :: [] := by decide

theorem test_meets_SectionLoaded :
    State.reset.loading = some .calibration ∧ sectionAfter .calibration = some .zones
      ∧ (defaultImage .calibration).section = .calibration ∧ (some Section.zones ≠ some Section.calibration) := by
  decide

/-- A zone section with two RACK records. -/
def twoRacks : Table 16 ZoneEntry := Vector.replicate 16 ⟨some .rack, ⟨.all 0, .all 0⟩, 0⟩

theorem test_meets_SectionsInstalled :
    ((State.reset.install (.zones twoRacks)).1.zones.get 0).kind = .rack
      ∧ ((State.reset.install (.zones twoRacks)).1.zones.get 1).kind = .unused := by decide

/-- A probe section: slot 4 at pocket 3 with a bad check of its count. -/
def storedFour : StoredProbe :=
  { identity := 7, reach := 0, tau := 0, home := none, qual := .both none, guarded := false, place := .pocket 3,
    mountCount := 5, check := countCheck 5 + 1 }
def someProbes : Table 32 (Option StoredProbe) := Table.put (Vector.replicate 32 none) 4 (some storedFour)
def settingsEntry : SettingsEntry := ⟨some .full, some true, 500, 60, 80, 1000, [], [], []⟩

theorem test_meets_ProbesInstalled :
    ((State.reset.install (.probes someProbes)).1.probes.get 4).map (·.place) = some (.stored 3)
      ∧ (cell.probes.get 6).map (·.place) = some (.stored 3)
      ∧ (((cell.installPockets (Table.put (Vector.replicate 12 false) 3 true)).probes.get 6).map (·.place)) = some .lost
      ∧ (((cell.install (.settings settingsEntry)).1.probes.get 4).map (·.locked)) = some true
      ∧ (((cell.install (.settings settingsEntry)).1.probes.get 6).map (·.locked)) = some true := by
  refine ⟨?_, ?_, ?_, ?_, ?_⟩ <;> decide +kernel

theorem test_meets_LoadingEnds :
    let s := { State.reset with loading := some .settings }
    s.loading = some .settings ∧ s.unreferenced .A = true ∧ s.unreferenced .B = true ∧ s.change.get .A = none
      ∧ s.change.get .B = none ∧ denOf (s.motion.get .A).phase = false ∧ denOf (s.motion.get .B).phase = false
      ∧ s.readers.get .A = ⟨none, none⟩ ∧ s.readers.get .B = ⟨none, none⟩ ∧ s.waiters = []
      ∧ (∀ z : ZoneId, s.holders.get z = none) ∧ s.inventory = .idle := by decide

theorem test_meets_ReadyStarts :
    let s := { State.reset with
      startup := .inventory, inventory := .running false ⟨.asked, .got .absent⟩ false,
      readers := ⟨⟨some [.inventory], none⟩, ⟨none, none⟩⟩ }
    s.startup = .inventory ∧ s.inventory = .running false ⟨.asked, .got .absent⟩ false
      ∧ s.readers.get .A = ⟨some [.inventory], none⟩ ∧ s.waiters = []
      ∧ (s.rack.opened && s.rack.closed) = false ∧ (s.links.get .A).phase = .retry := by decide

/-- Links in each state. -/
def linkIn (p : LinkPhase) (r : Option Response) : State :=
  ready.modLink .A fun x => { x with phase := p, response := r }

theorem test_meets_WritePeriodJudged :
    (State.reset.links.get .A).phase = .retry ∧ ((linkIn .pending none).links.get .A).phase = .pending
      ∧ (ready.links.get .A).phase = .idle ∧ frameCheck .A [0x10#8, 0#8] = .ok (.enable .A)
      ∧ frameCheck .A [0x10#8, 1#8] = .error .badLength ∧ (0x10#8 : Byte) ≠ 0#8 := by
  refine ⟨?_, ?_, ?_, rfl, rfl, ?_⟩ <;> decide

theorem test_meets_FrameChecks :
    assigned 0xFF = false ∧ assigned 0x10 = true ∧ payloadLengthOk .A 0x10 1 = false
      ∧ decodeRequest .A 0x10 [] = some (.enable .A) ∧ payloadLengthOk .A 0x10 0 = true
      ∧ frameCheck .S [0x10#8, 0#8] = .error .notPermitted ∧ freeCode 0xFF#8 = true := by
  refine ⟨?_, ?_, ?_, ?_, ?_, rfl, ?_⟩ <;> rfl

theorem test_meets_RequestByLinkState :
    linkOf (.enable .A) = some .A ∧ (State.reset.links.get .A).phase = .retry
      ∧ (linkIn .pending none).holdsRequest .A (.enable .A) = false ∧ linkCheck .S (.enable .S) = some .notPermitted
      ∧ linkCheck .A (.post .A []) = some .badLength := by decide

theorem test_meets_LinkPermissions :
    linkOf (.status .A) = some .A ∧ commandClass (.status .A) = .read ∧ commandClass (.enable .A) = .arm
      ∧ commandClass (.save .S) = .config ∧ permitted .A (.qualify .A ⟨0, some .B, .all 0, 0⟩) = false := by decide

theorem test_meets_ReadPeriod :
    (ready.links.get .A).phase ≠ .ready ∧ ((linkIn .ready (some ⟨.ok, .none⟩)).links.get .A).phase = .ready
      ∧ (⟨.ok, .none⟩ : Response).bytes.length = 3 := by decide

/-- An idle link takes a request. -/
theorem test_takes (c : Instr) (l : Link) : Takes up l c := by
  cases l <;> exact Or.inl (Or.inl rfl)

theorem test_meets_Status : Takes up .A (.status .A) ∧ (up.links.get .A).flags = [] := ⟨test_takes _ _, rfl⟩

theorem test_meets_Trap : Takes up .A (.readTrap .A) ∧ Takes up .S (.clearTrap .S) ∧ up.trap = none
    ∧ Takes (up.report (up.armReport .drive .A)) .S (.clearTrap .S) :=
  ⟨test_takes _ _, test_takes _ _, rfl, Or.inl (Or.inl rfl)⟩

theorem test_meets_FaultReported :
    up.trap = none ∧ (up.report (up.armReport .drive .A)).trap ≠ none := by decide

/-- Each number at its table's last entry and one above. -/
theorem test_meets_RecordReads :
    codeAfter (.readZone .A 15) .A up = some .ok ∧ codeAfter (.readZone .A 16) .A up = some .badArgument
      ∧ codeAfter (.readProbe .B 31) .B up = some .ok ∧ codeAfter (.readProbe .B 32) .B up = some .badArgument
      ∧ codeAfter (.readPocket .S 11) .S up = some .ok ∧ codeAfter (.readPocket .S 12) .S up = some .badArgument
      ∧ codeAfter (.readChannel .A 23) .A up = some .ok ∧ codeAfter (.readChannel .A 24) .A up = some .badArgument
      ∧ codeAfter (.readCalibration .A none) .A up = some .badArgument
      ∧ codeAfter (.readCalibration .S (some .B)) .S up = some .ok ∧ codeAfter (.readSnapshot .A) .A up = some .ok
      ∧ codeAfter (.identify .B) .B up = some .ok := by decide

theorem test_meets_ArmStatusFields :
    codeAfter (.armStatus .A (some .B)) .A up = some .ok ∧ codeAfter (.armStatus .S none) .S up = some .badArgument := by
  decide
/-! ### The hypotheses can be met: the thermal unit, the time base, the axis unit -/

/-- A pass over channels 2 and 5, channel 2 a VALID WORKPIECE channel. -/
def scanning (pos : Nat) : State :=
  { up with
    pass := some ⟨[2, 5], pos⟩, scanList := [2, 5]
    channels := Table.put up.channels 2
      { Channel.default with role := .workpiece, gain := 50000, offset := -25000, low := 100, state := .valid, run := 2 } }

theorem test_meets_IntegerArithmetic : (2 : Int) ≠ 0 := by decide

/-- Codes at the low limit and one below. -/
theorem test_meets_ConversionStages :
    (scanning 0).pass = some ⟨[2, 5], 0⟩ ∧ ([2, 5] : List ChannelId)[0]? = some 2 ∧ 0 + 1 < 2
      ∧ ((scanning 0).channels.get 2).role ≠ .unused ∧ (99 < ((scanning 0).channels.get 2).low)
      ∧ ¬ (100 < ((scanning 0).channels.get 2).low ∨ ((scanning 0).channels.get 2).high < 100)
      ∧ ((scanning 0).channels.get 2).persistence ≤ min (((scanning 0).channels.get 2).run + 1) 15
      ∧ ((scanning 0).channels.get 2).state = .valid ∧ ((scanning 0).channels.get 5).role = .unused := by decide

theorem test_meets_PassEnds :
    (scanning 1).pass = some ⟨[2, 5], 1⟩ ∧ ([2, 5] : List ChannelId)[1]? = some 5 ∧ 1 + 1 = 2 := by decide

theorem test_meets_MeansAndFilters : ([3, 5] : List Int) ≠ [] ∧ ∀ f ∈ ([3, 5] : List Int), 3 ≤ f ∧ f ≤ 5 := by decide

theorem test_meets_ScanExpiry :
    up.startup = .ready ∧ up.scanList = [] ∧ (scanning 0).scanList ≠ [] ∧ (scanning 0).pass ≠ none
      ∧ { scanning 0 with pass := none }.pass = none := by decide

/-- The limits of a workpiece record and one beyond. -/
theorem test_meets_WorkpieceWritten :
    codeAfter (.writeWorkpiece .S ⟨0, .all 100000000, 32767⟩) .S up = some .ok
      ∧ codeAfter (.writeWorkpiece .S ⟨0, .all (-100000001), 0⟩) .S up = some .badArgument
      ∧ codeAfter (.writeWorkpiece .S ⟨0, .all 0, 32768⟩) .S up = some .badArgument
      ∧ codeAfter (.writeWorkpiece .S ⟨0, .all 0, 0⟩) .S { up with save := .running (defaultImage .zones) 0 }
        = some .saveInProgress := by decide

theorem test_meets_ChannelsAndScanWritten :
    codeAfter (.writeChannel .S 23 ⟨some .air, 1, 0, 7, 5, 5, 15⟩) .S up = some .ok
      ∧ codeAfter (.writeChannel .S 24 ⟨some .air, 1, 0, 7, 5, 5, 15⟩) .S up = some .badArgument
      ∧ codeAfter (.writeChannel .S 0 ⟨some .air, 1, 0, 8, 5, 5, 15⟩) .S up = some .badArgument
      ∧ codeAfter (.editScanList .S (some .append) 10 (List.replicate 31 0)) .S (scanning 0) = some .queueFull
      ∧ codeAfter (.editScanList .S (some .append) 10 (List.replicate 30 23)) .S (scanning 0) = some .ok
      ∧ codeAfter (.editScanList .S (some .keep) 10 [1]) .S up = some .badArgument
      ∧ codeAfter (.setScanInterval .S 0) .S up = some .ok := by
  refine ⟨?_, ?_, ?_, ?_, ?_, ?_, ?_⟩ <;> decide +kernel

theorem test_meets_TimersSet :
    codeAfter (.setTimer .S (some .A) 65535 65) .S up = some .ok
      ∧ codeAfter (.setTimer .S (some .A) 65535 66) .S up = some .badArgument
      ∧ codeAfter (.setTimer .S (some .A) 1000 1) .S moving = some .wrongState
      ∧ codeAfter (.setSync .S true false true) .S up = some .ok ∧ State.reset.startup ≠ .ready
      ∧ ((up.modTimer .A fun t => { t with sync := true }).timers.get .A).sync = true
      ∧ (up.motion.get .A).phase ≠ .moving ∧ (up.motion.get .A).phase ≠ .stopping := by decide

theorem test_meets_PeriodsSumToRatio :
    let t := SetpointTimer.stopped 12500 3
    0 < t.d ∧ t.acc < t.d ∧ t.fresh = false := by decide

/-- The counter's wrap at both ends (R54). -/
theorem test_count_wraps :
    (AxisState.step { AxisState.reset with count := 2147483647 } .forward).count = -2147483648
      ∧ (AxisState.step { AxisState.reset with count := -2147483648 } .reverse).count = 2147483647 := by decide

theorem test_meets_ReferenceMark :
    (moving.motion.get .A).active = some (work homeSeg 100 7 .active) ∧ 0 < (work homeSeg 100 7 .active).v
      ∧ homeSeg.move = .home .X .rising 1000 ∧ ((moving.axes.get .A).axis.get .X).sense = .forward
      ∧ ((moving.axes.get .A).axis.get .X).referenced = true ∧ moving.waiters = [] := by decide

theorem test_meets_PhaseDrivesEnable : (up.axes.get .A).den = true ∧ (ready.axes.get .A).den = false := by decide

theorem test_meets_FaultEntries :
    (∀ r, (waiting.motion.get .A).phase ≠ .fault r) ∧ waiting.change.get .A = none
      ∧ (waiting.motion.get .A).resetPending = false ∧ Alone waiting .A ∧ (waiting.axes.get .A).dflt = false
      ∧ (waiting.axes.get .A).den = true ∧ ((withA ready fun m => { m with phase := .fault .drive }).motion.get .A).phase
        = .fault .drive ∧ ((ready.axes.get .A).axis.get .X).referenced = false := by
  refine ⟨(fun r h => nomatch h), rfl, rfl, Or.inr ⟨rfl, ?_, [0], rfl⟩, rfl, rfl, rfl, rfl⟩
  decide

theorem test_meets_EnableDisable :
    Takes ready .A (.enable .A) ∧ (ready.motion.get .A).phase = .off ∧ (ready.motion.get .A).resetPending = false
      ∧ (ready.axes.get .A).dflt = false ∧ ready.waiters = [] ∧ ready.startup = .ready
      ∧ Takes waiting .A (.disable .A) ∧ waiting.change.get .A = none ∧ Alone waiting .A
      ∧ codeAfter (.disable .A) .A moving = some .wrongState
      ∧ codeAfter (.disable .A) .A (changing .awaitDrop) = some .wrongState
      ∧ codeAfter (.enable .A) .A up = some .wrongState := by
  refine ⟨Or.inl (Or.inl rfl), rfl, rfl, rfl, rfl, rfl, Or.inl (Or.inl rfl), rfl, Or.inr ⟨rfl, ?_, [0], rfl⟩, ?_⟩ <;>
    decide

/-- Arm A with one axis a count beyond the following limit. -/
def strayed : State := up.modAxis .A .Y fun y => { y with count := 2001 }

theorem test_meets_SetpointExpiry :
    up.startup = .ready ∧ (up.axes.get .A).den = true ∧ (up.motion.get .A).active = none
      ∧ (up.axes.get .A).strays (up.cal.get .A).followingLimit = false
      ∧ ((up.modAxis .A .Y fun y => { y with count := 2000 }).axes.get .A).strays 2000 = false
      ∧ (strayed.axes.get .A).strays (strayed.cal.get .A).followingLimit = true ∧ (ready.axes.get .A).den = false
      ∧ (moving.motion.get .A).active = some (work homeSeg 100 7 .active)
      ∧ 100 + (work homeSeg 100 7 .active).nextVelocity 2 100 ≠ 1000
      ∧ ((stopping .done).motion.get .A).active = some (work homeSeg 100 7 (.stopping .done))
      ∧ min (7 - 4) (1000 - 100) ≠ 0 := by decide

/-- A HOME one step from its end, and one whose ramp ends. -/
theorem test_meets_SegmentEnds :
    let w := work homeSeg 999 2 .active
    let s := withA moving fun m => { m with active := some w }
    s.startup = .ready ∧ (s.axes.get .A).den = true ∧ (s.axes.get .A).strays (s.cal.get .A).followingLimit = false
      ∧ (s.motion.get .A).active = some w ∧ (s.motion.get .A).queue = [] ∧ (s.motion.get .A).resetPending = false
      ∧ s.change.get .A = none ∧ s.waiters = [] ∧ w.p + w.nextVelocity (s.cal.get .A).a (s.motion.get .A).override = w.len
      ∧ endOutcome w.seg.move = .homeFailed ∧ (work homeSeg 500 4 (.stopping .contact)).rampVelocity 4 = 0 := by decide
/-! ### The hypotheses can be met: the motion unit, the zone arbiter -/

/-- One code for each refusal of POST, in the order of its checks, and the two ways it is accepted. -/
theorem test_meets_PostAndReplace :
    codeAfter (.post .A [homeEntry]) .A ready = some .wrongState
      ∧ codeAfter (.post .A [{ homeEntry with feed := 0 }]) .A up = some .badArgument
      ∧ codeAfter (.post .A [{ homeEntry with kind := some .rack }]) .A up = some .wrongState
      ∧ codeAfter (.post .A [{ homeEntry with kind := some .position }]) .A
          (up.modAxis .A .X fun y => { y with referenced := false }) = some .notReferenced
      ∧ codeAfter (.post .A [{ homeEntry with kind := some .position, target := .all 5000001 }]) .A up
          = some .outOfLimits
      ∧ codeAfter (.post .A [{ homeEntry with kind := some .probe, target := .all 5000000 }]) .A up = some .noProbe
      ∧ codeAfter (.post .A [homeEntry]) .A (held (List.replicate 16 homeSeg)) = some .queueFull
      ∧ codeAfter (.post .A [homeEntry]) .A (held (List.replicate 15 homeSeg)) = some .ok
      ∧ codeAfter (.replace .A [homeEntry]) .A (held (List.replicate 16 homeSeg)) = some .ok := by
  refine ⟨?_, ?_, ?_, ?_, ?_, ?_, ?_, ?_, ?_⟩ <;> decide +kernel

theorem test_meets_PostStarts :
    Takes up .A (.post .A [homeEntry]) ∧ segmentsOf [homeEntry] = some [homeSeg] ∧ (up.motion.get .A).phase = .idle
      ∧ (up.motion.get .A).queue = [] ∧ up.waiters = [] ∧ Takes waiting .A (.replace .A [homeEntry])
      ∧ (waiting.motion.get .A).phase = .waiting .zone ∧ (waiting.motion.get .A).resetPending = false :=
  ⟨test_takes _ _, by decide, rfl, rfl, rfl, Or.inl (Or.inl rfl), rfl, rfl⟩

theorem test_meets_FlushRecordsOne :
    ((held [posSeg]).motion.get .A).queue = [posSeg] ∧ ((held [posSeg]).motion.get .A).phase ≠ .waiting .zone
      ∧ ((held [posSeg]).motion.get .A).results.length < 8
      ∧ (List.replicate 8 (⟨1, 2, .done, none⟩ : Result)).length = 8 := by decide

theorem test_meets_HaltByState :
    Names .S (some (some .A)) .A ∧ Names .A none .A ∧ Takes moving .S (.halt .S (some (some .A)))
      ∧ moving.change.get .A = none ∧ (moving.motion.get .A).phase = .moving
      ∧ (moving.motion.get .A).active = some (work homeSeg 100 7 .active)
      ∧ ((stopping .done).motion.get .A).phase = .stopping ∧ (waiting.motion.get .A).phase = .waiting .zone
      ∧ Alone waiting .A ∧ ((held []).motion.get .A).phase = .held .missed ∧ Alone (held []) .A :=
  ⟨Or.inr ⟨rfl, rfl⟩, Or.inl ⟨rfl, rfl⟩, Or.inl (Or.inl rfl), rfl, rfl, rfl, rfl, rfl,
   Or.inr ⟨rfl, by decide, [0], rfl⟩, rfl, Or.inl rfl⟩

/-- Arm A in a state. -/
def inPhase (p : Phase) (dflt : Bool) : State :=
  (withA up fun m => { m with phase := p }).modAxes .A fun u => { u with dflt := dflt }

theorem test_meets_ClearAndOverride :
    codeAfter (.clear .A) .A (inPhase .collision true) = some .ok
      ∧ codeAfter (.clear .A) .A (inPhase (.fault .drive) true) = some .wrongState
      ∧ codeAfter (.clear .A) .A (inPhase (.fault .drive) false) = some .ok
      ∧ codeAfter (.clear .A) .A up = some .wrongState ∧ codeAfter (.override .A 150) .A up = some .ok
      ∧ codeAfter (.override .A 151) .A ready = some .ok := by decide

/-- Zone 3 of a kind, over the head's end point. -/
def zoned (k : ZoneKind) (s : State) : State :=
  { s with zones := Table.put s.zones 3 { kind := k, box := ⟨.all 100, .all 5000⟩, k := 2 } }

/-- The geometry of the head `posSeg`. -/
def head (s : State) : Geometry := s.formGeometry .A posSeg.move (.all 200)

theorem test_meets_ResumeEvaluates :
    Takes (held [posSeg]) .A (.resume .A) ∧ ((held [posSeg]).motion.get .A).phase = .held .missed
      ∧ ((held [posSeg]).motion.get .A).resetPending = false ∧ homeSeg.move.kind = .home
      ∧ (held [posSeg]).rackOpenStep .A = false ∧ ((held [probeSeg]).capture.get .A).trig = false
      ∧ (State.forbidden (zoned .forbidden (held [posSeg])) .A (head (zoned .forbidden (held [posSeg])))) = true
      ∧ (State.meetsRack (zoned .rack (held [posSeg])) (head (zoned .rack (held [posSeg]))).swept) = true
      ∧ (State.barred { zoned .shared (held [posSeg]) with handover := [⟨.A, 3, 2⟩] } .A [3]
          (expand (head (held [posSeg])).finish 0)) = true
      ∧ posSeg.move.target? = some (.all 200)
      ∧ (PerAxis.all 200 : Vec3) ≠ forward (up.cal.get .A).axis up.snapshot .A ((up.axes.get .A).axis.map (·.standing)) := by
  refine ⟨Or.inl (Or.inl rfl), ?_, ?_, ?_, ?_, ?_, ?_, ?_, ?_, ?_, ?_⟩ <;> decide +kernel

/-- Zone 3 SHARED, held by arm B, arm A HELD with a head that needs it. -/
def contested (why : HoldWhy) : State :=
  { zoned .shared (held [posSeg]) with holders := Table.put up.holders 3 (some (.B, why)) }

theorem test_meets_HeadAsksZones :
    (contested .linger).forbidden .A (head (contested .linger)) = false
      ∧ (contested .linger).meetsRack (head (contested .linger)).swept = false
      ∧ (contested .linger).barred .A (head (contested .linger)).needed
          (expand (head (contested .linger)).finish ((contested .linger).reach .A)) = false
      ∧ (head (contested .linger)).needed = [0, 3] ∧ (contested .linger).holders.get 3 = some (.B, .linger)
      ∧ (contested .linger).waiters = [] ∧ (contested .standing).holders.get 3 = some (.B, .standing)
      ∧ (Table.put (contested .standing).holders 5 (some (.A, .claim))).get 5 = some (.A, .claim)
      ∧ (contested .standing).deferred.get .A = false := by
  refine ⟨?_, ?_, ?_, ?_, ?_, ?_, ?_, ?_, ?_⟩ <;> decide +kernel

theorem test_meets_NoLoose :
    NoLoose { contested .standing with
      holders := Table.put (contested .standing).holders 5 (some (.A, .claim)), waiters := [⟨.B, .segment, [5]⟩] } .A
      ∧ NoLoose (contested .standing) .B := by
  have h : ∀ (s : State) (a : Arm), (∀ z : ZoneId, (s.holders.get z).all fun h =>
      decide (h.1 ≠ a) || (decide (h.2 ≠ .segment) && decide (h.2 ≠ .linger))) → NoLoose s a := by
    intro s a h z r hz
    have := h z
    rw [hz] at this
    simpa using this
  exact ⟨h _ _ (by decide +kernel), h _ _ (by decide +kernel)⟩

theorem test_meets_ArmResetCompletes :
    Names .S (some (some .A)) .A ∧ Takes moving .S (.armReset .S (some (some .A))) ∧ moving.change.get .A = none
      ∧ (moving.motion.get .A).resetPending = false ∧ (moving.motion.get .A).phase = .moving
      ∧ (waiting.motion.get .A).phase ≠ .moving ∧ (waiting.motion.get .A).phase ≠ .stopping ∧ Alone waiting .A :=
  ⟨Or.inr ⟨rfl, rfl⟩, Or.inl (Or.inl rfl), rfl, rfl, rfl, by decide, by decide, Or.inr ⟨rfl, by decide, [0], rfl⟩⟩

theorem test_meets_Interpolation :
    moving.startup = .ready ∧ (moving.axes.get .A).den = true
      ∧ (moving.axes.get .A).strays (moving.cal.get .A).followingLimit = false ∧ (moving.motion.get .A).phase = .moving
      ∧ (moving.motion.get .A).active = some (work homeSeg 100 7 .active) ∧ 100 < (work homeSeg 100 7 .active).len := by
  decide

/-- The record's limits: bounds reached and passed. -/
theorem test_meets_ConfigurationWritten :
    codeAfter (.writeCalibration .S (some .A) cal1) .S up = some .ok
      ∧ codeAfter (.writeCalibration .S none cal1) .S up = some .badArgument
      ∧ codeAfter (.writeCalibration .S (some .B) { cal1 with aStop := 1, a := 2 }) .S up = some .badArgument
      ∧ codeAfter (.writeCalibration .S (some .B) { cal1 with envelope := 5000001 }) .S up = some .badArgument
      ∧ codeAfter (.writeCalibration .S (some .A) cal1) .S moving = some .wrongState
      ∧ codeAfter (.writeZone .S 15 ⟨some .shared, ⟨.all (-100000000), .all 100000000⟩, 3⟩) .S ready = some .ok
      ∧ codeAfter (.writeZone .S 16 ⟨some .shared, ⟨.all 0, .all 1⟩, 3⟩) .S ready = some .badArgument
      ∧ codeAfter (.writeZone .S 4 ⟨some .rack, ⟨.all 0, .all 1⟩, 3⟩) .S (zoned .rack ready) = some .inUse
      ∧ codeAfter (.writeZone .S 4 ⟨some .rack, ⟨.all 0, .all 1⟩, 3⟩) .S up = some .wrongState
      ∧ codeAfter (.writeSettings .S settingsEntry) .S up = some .ok
      ∧ codeAfter (.writeSettings .S { settingsEntry with qualLimit := 10001 }) .S up = some .badArgument
      ∧ codeAfter (.writeSettings .S { settingsEntry with matchMode := some .serialOnly }) .S
          { up with probes := Table.put (Table.put up.probes 1 (some (record .lost))) 2 (some (record .lost)) }
        = some .inUse := by
  refine ⟨?_, ?_, ?_, ?_, ?_, ?_, ?_, ?_, ?_, ?_, ?_, ?_⟩ <;> decide +kernel

/-- Arm A lingering in zone 3 while arm B waits for it. -/
def lingering : State :=
  { up with
    linger := ⟨some ⟨5, 5⟩, none⟩, holders := Table.put up.holders 3 (some (.A, .linger))
    motion := ⟨up.motion.a, { up.motion.b with
      phase := .waiting .zone, queue := [posSeg], geometry := some { head up with needed := [3] } }⟩
    waiters := [⟨.B, .segment, [3]⟩] }

theorem test_meets_LingerReleases :
    up.linger.get .A = none ∧ lingering.linger.get .A = some ⟨5, 5⟩ ∧ (unwaited lingering).waiters = []
      ∧ (lingering.motion.get .B).queue = [posSeg] ∧ posSeg.move.kind ≠ .home
      ∧ lingering.holders.get 3 = some (.A, .linger) := by
  refine ⟨?_, ?_, ?_, ?_, ?_, ?_⟩ <;> decide +kernel

/-! ### The hypotheses can be met: the probe table unit, the change sequencer -/

theorem test_meets_ProbeTableEdits :
    codeAfter (.writeProbe .S ⟨4, 8000000, 4095, some 11⟩) .S cell = some .ok
      ∧ codeAfter (.writeProbe .S ⟨4, 8000001, 4095, some 11⟩) .S cell = some .badArgument
      ∧ codeAfter (.writeProbe .S ⟨31, 0, 0, none⟩) .S cell = some .notFound
      ∧ codeAfter (.writeProbe .S ⟨32, 0, 0, none⟩) .S cell = some .badArgument
      ∧ codeAfter (.retireProbe .S 6) .S cell = some .ok ∧ codeAfter (.retireProbe .S 4) .S cell = some .wrongState
      ∧ codeAfter (.retireProbe .S 32) .S cell = some .badArgument
      ∧ codeAfter (.writePocket .S 11 (some .disabled)) .S cell = some .ok
      ∧ codeAfter (.writePocket .S 12 (some .disabled)) .S cell = some .badArgument
      ∧ codeAfter (.writePocket .S 3 (some .enabled)) .S cell = some .inUse
      ∧ codeAfter (.registerProbe .S ⟨4294967294, 0, 0, none, .pocket 5⟩) .S cell = some .noProbe
      ∧ codeAfter (.registerProbe .S ⟨4294967295, 0, 0, none, .pocket 5⟩) .S cell = some .badArgument
      ∧ codeAfter (.registerProbe .S ⟨9, 0, 0, none, .pocket 5⟩) .S cell = some .inUse := by
  refine ⟨?_, ?_, ?_, ?_, ?_, ?_, ?_, ?_, ?_, ?_, ?_, ?_, ?_⟩ <;> decide +kernel

theorem test_meets_RegisterAtPocket :
    codeAfter (.registerProbe .S ⟨7, 0, 0, none, .pocket 5⟩) .S
        (cell.modPocket 5 fun k => { k with level := true }) = some .ok
      ∧ (∀ n : Slot, n < 0 → cell.probes.get n ≠ none) ∧ cell.probes.get 0 = none := by
  refine ⟨?_, ?_, ?_⟩ <;> decide +kernel

theorem test_meets_GuardsAndQualify :
    codeAfter (.setProtection .S 4 true) .S { cell with freeze := true } = some .frozen
      ∧ codeAfter (.setProtection .S 4 true) .S cell = some .ok
      ∧ codeAfter (.lockProbe .S 31) .S cell = some .notFound ∧ codeAfter (.lockProbe .S 32) .S cell = some .badArgument
      ∧ codeAfter (.unlockProbe .S 6) .S cell = some .ok ∧ codeAfter (.freezeProtection .S) .S cell = some .ok
      ∧ { cell with freeze := true }.freeze = true ∧ permitted .A (.qualify .A ⟨4, some .A, .all 0, 9⟩) = true
      ∧ codeAfter (.qualify .A ⟨4, some .A, .all 0, 9⟩) .A cell = some .ok
      ∧ codeAfter (.qualify .A ⟨6, some .A, .all 0, 9⟩) .A cell = some .noProbe
      ∧ codeAfter (.qualify .S ⟨7, some .A, .all 0, 9⟩) .S cell = some .notFound
      ∧ codeAfter (.qualify .A ⟨4, some .A, .all 0, 9⟩) .A
          (cell.modProbe 4 fun p => { p with locked := true }) = some .guarded := by
  refine ⟨?_, ?_, ?_, ?_, ?_, ?_, ?_, ?_, ?_, ?_, ?_, ?_⟩ <;> decide +kernel

/-- A registration on arm A, and a verify, each with its read in flight. -/
def registering (l : Link) (w : Work) (k : Asker) : State :=
  { up.modLink l fun x => { x with phase := .pending, work := some w } with readers := ⟨⟨some [k], none⟩, ⟨none, none⟩⟩ }
def armEntry : RegisterEntry := ⟨77, 500, 6, none, .arm (some .A)⟩

theorem test_meets_IdentityReads :
    (up.readers.get .A).inFlight = none ∧ (registering .A .verify .verify).readers.get .A = ⟨some [.verify], none⟩
      ∧ ((registering .A .verify .verify).links.get .A).work = some .verify
      ∧ badRegister armEntry = false ∧ up.probes.get 0 = none
      ∧ ((registering .S (.register armEntry .A) .register).links.get .S).work = some (.register armEntry .A)
      ∧ idMatch .full 77 77 = true ∧ idMatch .full 77 78 = false
      ∧ codeAfter (.registerProbe .S armEntry) .S cell = some .inUse
      ∧ codeAfter (.inventory .S) .S (changing .opening) = some .wrongState
      ∧ codeAfter (.inventory .S) .S { cell with inventory := .running false ⟨.asked, .asked⟩ false } = some .ok
      ∧ codeAfter (.inventory .S) .S cell = some .ok := by
  refine ⟨?_, ?_, ?_, ?_, ?_, ?_, ?_, ?_, ?_, ?_, ?_, ?_⟩ <;> decide +kernel

theorem test_meets_PocketWatch :
    (cell.pockets.get 3).state = .occupied 6 ∧ (cell.probes.get 6).map (·.place) = some (.stored 3)
      ∧ (cell.pockets.get 3).level ≠ false ∧ cell.startup = .ready ∧ (cell.pockets.get 5).state = .empty
      ∧ (cell.pockets.get 5).level ≠ true ∧ (cell.pockets.get 5).unexpected ≠ true ∧ State.reset.startup ≠ .ready := by
  refine ⟨?_, ?_, ?_, ?_, ?_, ?_, ?_, ?_⟩ <;> decide +kernel

/-- One code for each check of REQUEST CHANGE, in order. -/
theorem test_meets_ChangeRequested :
    codeAfter (.requestChange .A ⟨true, some 9, true, 6⟩) .A cell = some .ok
      ∧ codeAfter (.requestChange .A ⟨true, some 9, true, 6⟩) .A (changing .opening) = some .wrongState
      ∧ codeAfter (.requestChange .A ⟨true, some 9, true, 6⟩) .A up = some .noRack
      ∧ codeAfter (.requestChange .A ⟨true, some 9, true, 6⟩) .A (cell.modRack fun r => { r with fault := true })
        = some .rackFault
      ∧ codeAfter (.requestChange .A ⟨true, some 12, true, 6⟩) .A cell = some .badArgument
      ∧ codeAfter (.requestChange .A ⟨true, some 11, true, 32⟩) .A cell = some .badArgument
      ∧ codeAfter (.requestChange .A ⟨true, some 3, true, 6⟩) .A cell = some .inUse
      ∧ codeAfter (.requestChange .A ⟨true, some 9, true, 31⟩) .A cell = some .inUse
      ∧ cell.rackZone = some 3 ∧ cell.holders.get 3 = none ∧ cell.waiters = [] ∧ cell.rack.isOpen = false := by
  refine ⟨?_, ?_, ?_, ?_, ?_, ?_, ?_, ?_, ?_, ?_, ?_, ?_⟩ <;> decide +kernel

/-- Arm A with a change whose drop and pick are confirmed. -/
def confirmed (st : Step) : State :=
  (changing st).setContext .A (some { context st with dropConfirmed := true, pickConfirmed := true })

theorem test_meets_ChangeClosed :
    codeAfter (.changeDone .A) .A (confirmed .awaitPick) = some .ok
      ∧ codeAfter (.changeDone .A) .A (changing .awaitPick) = some .wrongState
      ∧ codeAfter (.changeDone .A) .A ((confirmed .awaitPick).modAxis .A .X fun y => { y with count := 100 })
        = some .wrongState
      ∧ codeAfter (.changeDone .A) .A up = some .wrongState
      ∧ codeAfter (.abortChange .S (some (some .A))) .S (changing .failedOpen) = some .ok
      ∧ codeAfter (.abortChange .A none) .A (changing .closing) = some .wrongState
      ∧ codeAfter (.abortChange .A none) .A (changing .opening) = some .ok
      ∧ (changing .failedOpen).rack.isClosed = false
      ∧ codeAfter (.clearRackFault .S) .S (cell.modRack fun r => { r with opened := true, closed := true })
        = some .wrongState ∧ codeAfter (.clearRackFault .S) .S cell = some .ok := by
  refine ⟨?_, ?_, ?_, ?_, ?_, ?_, ?_, ?_, ?_, ?_⟩ <;> decide +kernel

/-- A change in OPENING that only takes, its module IN_TRANSIT from pocket 3. -/
def taking (st : Step) : State :=
  { changing st with
    change := ⟨some { context st with drop := none }, none⟩
    probes := Table.put cell.probes 6 (some (record (.inTransit .A)))
    pockets := Table.put cell.pockets 3 { state := .reserved, unexpected := false, level := true }
    readers := ⟨⟨some [.pick], none⟩, ⟨none, none⟩⟩
    rack := { up.rack with req := true, rackTimer := some ⟨5, 5⟩, stepTimer := some ⟨5, 5⟩, dropTimer := some ⟨5, 5⟩ } }

theorem test_meets_ChangeAborted :
    (taking .opening).change.get .A = some { context .opening with drop := none }
      ∧ ((taking .opening).probes.get 6).map (·.place) = some (.inTransit .A)
      ∧ ((taking .opening).pockets.get 3).level = true ∧ (taking .opening).waiters = []
      ∧ ∀ q, ((taking .opening).pockets.get q).state ≠ .occupied 6 := by
  refine ⟨?_, ?_, ?_, ?_, ?_⟩ <;> decide +kernel

theorem test_meets_RackEvents :
    State.reset.startup ≠ .ready ∧ (taking .opening).startup = .ready ∧ (taking .opening).rack.opened = false
      ∧ (taking .opening).rack.closed = false ∧ (taking .opening).stepOf .A = some .opening
      ∧ (taking .opening).stepOf .B ≠ some .opening ∧ (taking .awaitPick).rack.stepTimer = some ⟨5, 5⟩
      ∧ (taking .awaitPick).rackArm = some .A ∧ up.rack.stepTimer = none ∧ up.rack.rackTimer = none
      ∧ up.rack.dropTimer = none ∧ up.change.get .A = none ∧ up.change.get .B = none
      ∧ (changing .awaitDrop).rackArm = some .A ∧ ((changing .awaitDrop).pockets.get 9).level = false := by
  refine ⟨?_, ?_, ?_, ?_, ?_, ?_, ?_, ?_, ?_, ?_, ?_, ?_, ?_, ?_, ?_⟩ <;> decide +kernel

theorem test_meets_DropAndPick :
    (taking .awaitPick).change.get .A = some { context .awaitPick with drop := none }
      ∧ ((taking .awaitPick).probes.get 6).map (·.place) = some (.inTransit .A)
      ∧ ((taking .awaitPick).pockets.get 3).state = .reserved ∧ (taking .awaitPick).waiters = []
      ∧ (taking .awaitPick).readers.get .A = ⟨some [.pick], none⟩
      ∧ idMatch (taking .awaitPick).settings.matchMode (record .lost).identity 0x0102 = true
      ∧ idMatch (taking .awaitPick).settings.matchMode (record .lost).identity 0x0103 = false
      ∧ ((taking .awaitPick).motion.get .A).phase = .idle := by
  refine ⟨?_, ?_, ?_, ?_, ?_, ?_, ?_, ?_⟩ <;> decide +kernel

/-! ### The hypotheses can be met: the capture unit, the store -/

/-- Arm A on an ACTIVE PROBE. -/
def probing : State := withA up fun m => { m with phase := .moving, active := some (work probeSeg 3 4 .active) }

/-- A full point queue. -/
def full (s : State) : State :=
  s.modCapture .A fun k => { k with points := List.replicate 32 ((s.takeLatch .A .contact).point .A 1) }

theorem test_meets_TriggerEdges :
    (up.capture.get .A).trig = false ∧ (ready.motion.get .A).phase = .off
      ∧ ((inPhase .collision false).motion.get .A).phase = .collision
      ∧ probing.arming .A = .touch ∧ moving.arming .A = .contact ∧ up.arming .A = .contact
      ∧ (changing .closing).arming .A = .masked ∧ (stopping .touched).arming .A = .ignored
      ∧ ((full up).capture.get .A).points.length = 32 ∧ (up.capture.get .A).points.length < 32
      ∧ (up.motion.get .A).queue = [] ∧ up.change.get .A = none := by
  refine ⟨?_, ?_, ?_, ?_, ?_, ?_, ?_, ?_, ?_, ?_, ?_, ?_⟩ <;> decide +kernel

theorem test_meets_PointComputed :
    (probing.takeLatch .A .touch).kind = .touch
      ∧ (probing.takeLatch .A .touch).path = some ⟨6, (work probeSeg 3 4 .active).d, (work probeSeg 3 4 .active).len⟩
      ∧ (up.takeLatch .A .contact).kind = .contact := by
  refine ⟨?_, ?_, ?_⟩ <;> decide +kernel

/-- Arm A WAITING(POINTS) with a PROBE head and a full point queue. -/
def starved : State := full (withA up fun m => { m with phase := .waiting .points, queue := [probeSeg] })

theorem test_meets_PointsRead :
    Takes up .A (.readPoints .A) ∧ (up.motion.get .A).phase ≠ .waiting .points
      ∧ (starved.motion.get .A).phase = .waiting .points ∧ (starved.motion.get .A).resetPending = false
      ∧ (starved.capture.get .A).trig = false ∧ starved.waiters = [] ∧ starved.holders.get 0 = none
      ∧ starved.forbidden .A (starved.formGeometry .A probeSeg.move (.all 1000)) = false
      ∧ codeAfter (.readPoints .A) .A starved = some .ok := by
  refine ⟨test_takes _ _, ?_, ?_, ?_, ?_, ?_, ?_, ?_, ?_⟩ <;> decide +kernel

theorem test_meets_SaveAndReload :
    codeAfter (.save .S) .S up = some .ok
      ∧ codeAfter (.save .S) .S { up with save := .running (defaultImage .zones) 0 } = some .saveInProgress
      ∧ codeAfter (.reload .S) .S up = some .wrongState ∧ up.save = .idle ∧ (ready.motion.get .A).phase = .off
      ∧ (ready.motion.get .B).phase = .off ∧ ready.inventory = .idle
      ∧ (defaultImage .settings).section = .settings ∧ sectionAfter (defaultImage .zones).section = some .channels
      ∧ ((cell.probes.get 6).map (·.place)) = some (.stored 3)
      ∧ ((taking .awaitPick).probes.get 6).map (·.place) = some (.inTransit .A) := by
  refine ⟨?_, ?_, ?_, ?_, ?_, ?_, ?_, ?_, ?_, ?_, ?_⟩ <;> decide +kernel

theorem test_meets_LastPage (x : Section) : pageCount x ≤ pageCount x + 1 := Nat.le_succ _

theorem test_meets_InvariantsKept : step up = .next (tick up) := rfl

/-! ### The hypotheses can be met: arms with a change, stops at v = 0, the load's tables -/

/-- Every zone RACK but zone 2, whose box is inverted. -/
def mixedZones : Table 16 ZoneEntry := Table.put twoRacks 2 ⟨some .shared, ⟨.all 1, .all 0⟩, 0⟩
/-- Slots 4 and 6 in pocket 3, slot 5 with a reach above its bound. -/
def mixedProbes : Table 32 (Option StoredProbe) :=
  Table.put (Table.put (Table.put (Vector.replicate 32 none) 4 (some { storedFour with check := countCheck 5 })) 5
    (some { storedFour with reach := 8000001 })) 6 (some { storedFour with identity := 8 })

theorem test_meets_SectionsInstalled_flags :
    badZone (mixedZones.get 2) = true ∧ badZone (mixedZones.get 0) = false
      ∧ ((State.reset.install (.zones mixedZones)).1.zones.get 2) = Zone.unused
      ∧ (State.reset.install (.zones mixedZones)).2 = true
      ∧ (State.reset.install (.channels (Vector.replicate 24 ⟨some .air, 1, 0, 0, 0, 9, 1⟩) [23, 24] 9)).2 = true := by
  refine ⟨?_, ?_, ?_, ?_, ?_⟩ <;> decide +kernel

theorem test_meets_ProbesInstalled_places :
    badStored { storedFour with reach := 8000001 } = true ∧ badStored storedFour = false
      ∧ ((State.reset.install (.probes mixedProbes)).1.probes.get 4).map (·.place) = some (.stored 3)
      ∧ ((State.reset.install (.probes mixedProbes)).1.probes.get 5) = none
      ∧ ((State.reset.install (.probes mixedProbes)).1.probes.get 6).map (·.place) = some .lost := by
  refine ⟨?_, ?_, ?_, ?_, ?_⟩ <;> decide +kernel

/-- Link S PENDING for a RELOAD at the last read of the start-up inventory. -/
def reloading : State :=
  { State.reset.modLink .S fun x => { x with phase := .pending, work := some .reload } with
    startup := .inventory, inventory := .running false ⟨.asked, .got .absent⟩ false,
    readers := ⟨⟨some [.inventory], none⟩, ⟨none, none⟩⟩ }

theorem test_meets_ReadyStarts_reload :
    (reloading.links.get .S).phase ≠ .retry ∧ (reloading.links.get .S).work = some .reload
      ∧ reloading.readers.get .A = ⟨some [.inventory], none⟩ ∧ reloading.waiters = [] := by decide

theorem test_meets_ArmStatusFields_lists :
    waitingRack.waiters = ⟨.A, .change, [3]⟩ :: [] ∧ waitingRack.change.get .A = some (context .waitRack)
      ∧ (underway .opening).rack.stepTimer = some ⟨5, 5⟩ ∧ cell.mount .A = .record 4
      ∧ (cell.probes.get 4).bind (·.qual.get .A) = none ∧ cell.mount .B = .none
      ∧ ((waiting.motion.get .A).queue.map (·.tag)) = [9] ∧ lingering.linger.get .A = some ⟨5, 5⟩ := by
  refine ⟨?_, ?_, ?_, ?_, ?_, ?_, ?_, ?_⟩ <;> decide +kernel

/-- Arm A MOVING at v = 0 on a segment, as after an override of 0. -/
def paused (g : Segment) (s : State) : State :=
  s.modMotion .A fun m => { m with phase := .moving, active := some (work g 100 0 .active) }

theorem test_meets_stops_at_rest :
    ((paused homeSeg up).motion.get .A).active = some (work homeSeg 100 0 .active)
      ∧ (work homeSeg 100 0 .active).v = 0 ∧ homeSeg.move = .home .X .rising 1000
      ∧ (((paused homeSeg up).axes.get .A).axis.get .X).sense = .forward
      ∧ ((paused homeSeg up).motion.get .A).queue = [] ∧ ((paused homeSeg up).motion.get .A).resetPending = false
      ∧ ((paused homeSeg up).motion.get .A).holdPending = false ∧ (paused homeSeg up).waiters = []
      ∧ ((paused homeSeg up).axes.get .A).den = true ∧ (paused homeSeg up).change.get .A = none
      ∧ ((paused probeSeg up).motion.get .A).active = some (work probeSeg 100 0 .active)
      ∧ ((paused probeSeg up).capture.get .A).trig = false := by
  refine ⟨?_, ?_, ?_, ?_, ?_, ?_, ?_, ?_, ?_, ?_, ?_, ?_⟩ <;> decide +kernel

theorem test_inert_free (s : State) (a : Arm) (h : s.change.get a = none) : Inert s a := by
  intro k hk; rw [h] at hk; cases hk

/-- Arms in each step that a stop ends or leaves. -/
theorem test_meets_context_ends :
    (waitingRack.change.get .A = some (context .waitRack) ∧ Lonely waitingRack .A (context .waitRack) ∧ Tables waitingRack)
      ∧ ((underway .opening).change.get .A = some (context .opening) ∧ Lonely (underway .opening) .A (context .opening)
        ∧ Tables (underway .opening))
      ∧ ((underway .awaitDrop).change.get .A = some (context .awaitDrop) ∧ Tables (underway .awaitDrop))
      ∧ Inert (underway .closing) .A ∧ Inert up .A ∧ (∀ r, ((underway .opening).motion.get .A).phase ≠ .fault r)
      ∧ ((underway .opening).motion.get .A).phase = .idle ∧ ((underway .opening).motion.get .A).resetPending = false
      ∧ ((underway .opening).axes.get .A).dflt = false ∧ ((underway .opening).axes.get .A).den = true
      ∧ ((underway .opening).capture.get .A).trig = false ∧ ((underway .opening).motion.get .A).queue = [] :=
  ⟨⟨rfl, lonely_waitingRack, tables_waitingRack⟩, ⟨rfl, lonely_underway _ _, tables_underway _⟩, ⟨rfl, tables_underway _⟩,
   (fun k h => by cases h; exact Or.inr rfl), test_inert_free _ _ rfl, nofun, rfl, rfl, rfl, rfl, rfl, rfl⟩

/-- The same with the arm MOVING, and with it strayed. -/
theorem test_meets_context_moving :
    let s := (underway .opening).modMotion .A fun m => { m with phase := .moving, active := some (work homeSeg 100 7 .active) }
    s.change.get .A = some (context .opening) ∧ (s.motion.get .A).phase = .moving ∧ 0 < (work homeSeg 100 7 .active).v
      ∧ s.waiters = [] ∧ (moving.modAxis .A .Y fun y => { y with count := 2001 }).waiters = []
      ∧ ((moving.modAxis .A .Y fun y => { y with count := 2001 }).axes.get .A).strays 2000 = true
      ∧ ((moving.modAxis .A .Y fun y => { y with count := 2001 }).motion.get .A).active
        = some (work homeSeg 100 7 .active) := by
  refine ⟨?_, ?_, ?_, ?_, ?_, ?_, ?_⟩ <;> decide +kernel

/-- A contact ramp at its end, with a queue, and with a change in OPENING. -/
def colliding (s : State) : State :=
  s.modMotion .A fun m =>
    { m with phase := .stopping, queue := [posSeg], active := some (work homeSeg 500 4 (.stopping .contact)) }

theorem test_meets_SegmentEnds_contact :
    let s := colliding (underway .opening)
    s.startup = .ready ∧ (s.axes.get .A).den = true ∧ s.change.get .A = some (context .opening) ∧ s.waiters = []
      ∧ ((colliding up).axes.get .A).strays ((colliding up).cal.get .A).followingLimit = false
      ∧ ((colliding up).motion.get .A).queue ≠ [] ∧ (colliding up).change.get .A = none
      ∧ (work homeSeg 500 4 (.stopping .contact)).rampVelocity ((colliding up).cal.get .A).aStop = 0 := by
  refine ⟨?_, ?_, ?_, ?_, ?_, ?_, ?_, ?_⟩ <;> decide +kernel

/-- The last read of an inventory with arm A's probe found. -/
def inventoried : State :=
  { cell with inventory := .running false ⟨.asked, .got .absent⟩ false,
              readers := ⟨⟨some [.inventory], none⟩, ⟨none, none⟩⟩ }

theorem test_meets_IdentityReads_inventory :
    inventoried.startup = .ready ∧ inventoried.readers.get .A = ⟨some [.inventory], none⟩
      ∧ inventoried.waiters = [] ∧ Tables inventoried ∧ inventoried.change.get .A = none
      ∧ inventoried.change.get .B = none ∧ inventoried.matching 0x0102 = some 4 ∧ inventoried.matching 9 = some 6
      ∧ inventoried.matching 0x5500 = none := by
  refine ⟨?_, ?_, ?_, tables_of _ ?_, ?_, ?_, ?_, ?_, ?_⟩ <;> decide +kernel

theorem test_meets_PocketWatch_reserved :
    ((underway .awaitDrop).pockets.get 9) = ⟨.reserved, false, false⟩
      ∧ ((underway .awaitPick).pockets.get 3) = ⟨.reserved, false, true⟩
      ∧ (underway .awaitDrop).change.get .B = none ∧ (context .awaitDrop).drop.map (·.1) = some 9
      ∧ (context .awaitPick).drop.map (·.1) ≠ some 3 ∧ (context .awaitPick).take = some (3, 6)
      ∧ ((underway .awaitPick).probes.get 6).map (·.place) = some (.inTransit .A)
      ∧ (underway .awaitDrop).readers.get .A = ⟨none, none⟩ := by
  refine ⟨?_, ?_, ?_, ?_, ?_, ?_, ?_, ?_⟩ <;> decide +kernel

/-- A pocket or a slot out of range is refused whether or not it is asked for (R147's check 4). -/
theorem test_change_bounds_unasked :
    codeAfter (.requestChange .A ⟨true, some 9, false, 32⟩) .A cell = some .badArgument
      ∧ codeAfter (.requestChange .B ⟨false, some 12, true, 6⟩) .B cell = some .badArgument
      ∧ codeAfter (.requestChange .B ⟨false, some 11, true, 6⟩) .B cell = some .ok := by
  refine ⟨?_, ?_, ?_⟩ <;> decide +kernel

theorem test_meets_ChangeClosed_early :
    codeAfter (.abortChange .A none) .A waitingRack = some .ok
      ∧ codeAfter (.abortChange .S (some (some .A))) .S (underway .opening) = some .ok := by
  refine ⟨?_, ?_⟩ <;> decide +kernel

/-- Arm A CLOSING, arm B in WAIT_RACK behind it. -/
def bothChange : State :=
  { (underway .closing).setContext .B (some { context .waitRack with drop := none, take := none }) with
    waiters := [⟨.B, .change, [3]⟩], holders := Table.put up.holders 3 (some (.A, .change)) }

theorem test_meets_RackEvents_ends :
    let done := (underway .closing).setContext .A (some { context .closing with closing := some .aborted })
    done.change.get .A = some { context .closing with closing := some .aborted } ∧ done.rack.opened = false
      ∧ done.rack.closed = false ∧ done.stepOf .B ≠ some .closing ∧ (underway .closing).rackArm = some .A
      ∧ (underway .closing).rack.rackTimer = some ⟨5, 5⟩ ∧ bothChange.stepOf .B = some .waitRack
      ∧ bothChange.rackArm = some .A ∧ (bothChange.motion.get .B).phase ≠ .waiting .zone
      ∧ { (underway .opening).rack with closed := true }.opened = false
      ∧ (underway .opening).change.get .B = none ∧ waitingRack.change.get .B = none := by
  refine ⟨?_, ?_, ?_, ?_, ?_, ?_, ?_, ?_, ?_, ?_, ?_, ?_⟩ <;> decide +kernel

theorem test_meets_TriggerEdges_stops :
    ((stopping .halted).motion.get .A).active = some (work homeSeg 100 7 (.stopping .halted))
      ∧ ((stopping .halted).motion.get .A).queue = [] ∧ homeSeg.move.kind ≠ .rack
      ∧ (stopping .halted).arming .A = .contact ∧ (waitingRack.motion.get .A).active = none
      ∧ waitingRack.arming .A = .contact ∧ (up.takeLatch .A .contact).probe = none
      ∧ (cell.takeLatch .A .contact).probe.isSome = true := by
  refine ⟨?_, ?_, ?_, ?_, ?_, ?_, ?_, ?_⟩ <;> decide +kernel

/-- One state and one step of it with every property that a step keeps. -/
theorem test_meets_InvariantsKept_all :
    Bounds (underway .opening) ∧ DriveEnable (underway .opening) ∧ Attention up ∧ Tables (underway .opening)
      ∧ RackHeld (underway .opening) ∧ OneEntry waitingRack ∧ step { up with pending := [.csyncEdge] } = exec .csyncEdge up
      ∧ due (underway .opening) ≠ [] := by
  refine ⟨?_, fun a => ?_, fun l => ?_, tables_underway _, ⟨fun z a h => ?_, fun _ => ⟨.A, _, rfl, Or.inl rfl⟩⟩, ?_, rfl, ?_⟩
  · refine ⟨⟨?_, ?_, ?_, ?_, ?_, ?_⟩, ⟨?_, ?_, ?_, ?_, ?_, ?_⟩, ?_, ?_⟩ <;> decide
  · cases a <;> decide
  · cases l <;> decide
  · exact absurd h (by revert z; cases a <;> decide)
  · exact (by decide : ([Arm.A] : List Arm).Nodup)
  · decide

/-- The line of an axis unit, idle and in its first byte (R204). -/
theorem test_meets_PhaseDrivesEnable_line :
    AxisUnit.level { up.axes.get .A with line := [] } = true
      ∧ AxisUnit.level { up.axes.get .A with line := [⟨7, true, .all 0⟩], bits := 0 } = false
      ∧ AxisUnit.level { up.axes.get .A with line := [⟨7, true, .all 0⟩], bits := 9 } = true := by decide

/-! ### The hypotheses can be met: zones handed on, counts, contacts with a queue, sensors that fall -/

/-- The state after a command. -/
def after (c : Instr) (s : State) : State :=
  match exec c s with
  | .next t => t
  | _ => s

theorem test_meets_stages :
    ¬ InForbidden (contested .standing) .A (head (contested .standing))
      ∧ ¬ InRackZone (contested .standing) (head (contested .standing))
      ∧ ¬ HandoverBars (contested .standing) .A (head (contested .standing))
      ∧ InForbidden (zoned .forbidden (held [posSeg])) .A (head (zoned .forbidden (held [posSeg])))
      ∧ InRackZone (zoned .rack (held [posSeg])) (head (zoned .rack (held [posSeg])))
      ∧ (PerAxis.all 200 : Vec3) ≠ (head (contested .standing)).start := by
  refine ⟨?_, ?_, ?_, ?_, ?_, by decide +kernel⟩
  · rw [← State.forbidden_iff]; decide +kernel
  · rw [← State.meetsRack_iff]; decide +kernel
  · rw [← State.barred_iff]; decide +kernel
  · rw [← State.forbidden_iff]; decide +kernel
  · rw [← State.meetsRack_iff]; decide +kernel

theorem test_meets_HandoverBars :
    HandoverBars { zoned .shared (held [posSeg]) with handover := [⟨.A, 3, 2⟩] } .A
      (head { zoned .shared (held [posSeg]) with handover := [⟨.A, 3, 2⟩] }) := by
  rw [← State.barred_iff]; decide +kernel

/-- Arm A in zone 3 with a count of 1, arm B waiting for it; K is 2. -/
def counting : State :=
  { zoned .shared (held [posSeg]) with
    holders := Table.put up.holders 3 (some (.A, .standing)), handover := [⟨.A, 3, 1⟩]
    waiters := [⟨.B, .segment, [3]⟩] }

/-- A start counts, a wait starts a count at 0, a withdrawal ends it (R118, R119). -/
theorem test_counts :
    (head counting).needed = [0, 3] ∧ counting.holders.get 0 = none ∧ (after (.resume .A) counting).handover = [⟨.A, 3, 2⟩]
      ∧ ((contested .standing).zones.get 3).k = 2
      ∧ (after (.resume .A) (contested .standing)).handover = [⟨.B, 3, 0⟩]
      ∧ (after (.halt .A none) (after (.resume .A) (contested .standing))).handover = [] := by
  refine ⟨?_, ?_, ?_, ?_, ?_, ?_⟩ <;> decide +kernel

/-- Zone 3 SHARED, and no reach about either arm. -/
def bare : State := { zoned .shared up with cal := .both { cal1 with envelope := 0 } }

/-- Arm A's ramp at its end, zone 3 held for its segment, which needed it. -/
def leaving (o : Outcome) (linger : Nat) : State :=
  { withA bare fun m =>
      { m with phase := .stopping, active := some { work posSeg 5 4 (.stopping o) with
          geometry := some (head bare) } } with
    holders := Table.put up.holders 3 (some (.A, .segment)), settings := { up.settings with linger := linger } }

/-- A zone left at a segment end lingers, or with length 0 is free (R115, R116). -/
theorem test_zone_left :
    ((leaving .halted 500).motion.get .A).queue = [] ∧ (leaving .halted 500).standing.get .B = []
      ∧ (after (.setpointExpiry .A) (leaving .halted 500)).holders.get 3 = some (.A, .linger)
      ∧ (after (.setpointExpiry .A) (leaving .halted 500)).linger.get .A = some ⟨5000000, 0⟩
      ∧ (after (.setpointExpiry .A) (leaving .contact 500)).holders.get 3 = some (.A, .linger)
      ∧ (after (.setpointExpiry .A) (leaving .halted 0)).holders.get 3 = none
      ∧ (after (.setpointExpiry .A) (leaving .halted 0)).linger.get .A = none := by
  refine ⟨?_, ?_, ?_, ?_, ?_, ?_, ?_⟩ <;> decide +kernel

/-- A HOME at its end, its arm standing in zone 3 as it began, with a head that needs the zone behind it, while arm B waits
for the zone. -/
def homed : State :=
  { lingering with
    zones := bare.zones, cal := bare.cal, linger := ⟨none, none⟩, holders := Table.put up.holders 3 (some (.A, .standing))
    motion := { lingering.motion with a := { up.motion.a with
      phase := .stopping, queue := [posSeg], active := some (work homeSeg 100 4 (.stopping .done)) } } }

/-- The zone that a HOME leaves lingers, and goes to the waiting arm before the next head is evaluated (R109, R110, R116). -/
theorem test_home_leaves_zone :
    (after (.setpointExpiry .A) homed).holders.get 3 = some (.B, .segment)
      ∧ ((after (.setpointExpiry .A) homed).motion.get .B).phase = .moving
      ∧ ((after (.setpointExpiry .A) homed).motion.get .A).phase = .waiting .zone := by
  refine ⟨?_, ?_, ?_⟩ <;> decide +kernel

/-- ENABLE over a free SHARED zone, DISABLE of a lingering arm (R109, R110, R117). -/
theorem test_enable_disable_zones :
    (after (.enable .A) (zoned .shared ready)).holders.get 3 = some (.A, .claim)
      ∧ (after (.enable .A) { zoned .shared ready with holders := Table.put up.holders 3 (some (.B, .linger)) }).holders.get 3
        = some (.B, .linger)
      ∧ (after (.disable .A) { unwaited lingering with standing := ⟨[], [3]⟩ }).holders.get 3 = some (.B, .standing)
      ∧ (after (.disable .A) (unwaited lingering)).holders.get 3 = none
      ∧ (after (.disable .A) (unwaited lingering)).linger.get .A = none := by
  refine ⟨?_, ?_, ?_, ?_, ?_⟩ <;> decide +kernel

theorem test_meets_HaltByState_counts :
    let s := { waiting with handover := [⟨.B, 0, 1⟩] }
    s.waiters ≠ [] ∧ Alone s .A ∧ s.change.get .A = none ∧ (after (.halt .A none) s).handover = [] :=
  ⟨by decide, Or.inr ⟨rfl, by decide, [0], rfl⟩, rfl, by decide +kernel⟩

/-- The open condition already there at the grant (R149, R150), and a CHANGE entry that deadlocks (R121). -/
def openRack : State := cell.modRack fun r => { r with opened := true }
def deadRack : State :=
  { zoned .rack cell with
    holders := Table.put (Table.put up.holders 3 (some (.B, .change))) 5 (some (.A, .standing))
    zones := Table.put (zoned .rack cell).zones 5 { kind := .shared, box := ⟨.all (-9), .all 9⟩, k := 0 }
    standing := ⟨[5], []⟩, waiters := [⟨.B, .segment, [5]⟩] }

theorem test_meets_ChangeRequested_grants :
    openRack.rackZone = some 3 ∧ openRack.holders.get 3 = none
      ∧ (after (.requestChange .A ⟨true, some 9, true, 6⟩) openRack).stepOf .A = some .awaitDrop
      ∧ (after (.requestChange .A ⟨true, some 9, true, 6⟩) openRack).rack.stepTimer = some ⟨600000000, 0⟩
      ∧ Tables deadRack ∧ deadRack.rackZone = some 3
      ∧ (after (.requestChange .A ⟨true, some 9, true, 6⟩) deadRack).lastChange.get .A = some (.failed .deadlock)
      ∧ (after (.requestChange .A ⟨true, some 9, true, 6⟩) deadRack).waiters = [⟨.B, .segment, [5]⟩] := by
  refine ⟨?_, ?_, ?_, ?_, tables_of _ ?_, ?_, ?_, ?_⟩ <;> decide +kernel

/-- A drop read in flight, of a record or of a module of UNKNOWN identity. -/
def dropping (d : Dropped) : State :=
  { (underway .awaitDrop).setContext .A (some { context .awaitDrop with drop := some (9, d) }) with
    readers := ⟨⟨some [.drop], none⟩, ⟨none, none⟩⟩, unknown := ⟨decide (d = .unknown), false⟩ }

theorem test_meets_DropAndPick_drops :
    ((after (.identityReadComplete .A .garbled) (dropping (.slot 4))).pockets.get 9).state = .occupied 4
      ∧ (after (.identityReadComplete .A (.code 5)) (dropping (.slot 4))).stepOf .A = some .awaitDrop
      ∧ (after (.identityReadComplete .A (.code 5)) (dropping (.slot 4))).rack.dropTimer = some ⟨5, 5⟩
      ∧ (after (.identityReadComplete .A .silent) (dropping .unknown)).pockets.get 9 = ⟨.empty, true, false⟩
      ∧ (after (.identityReadComplete .A .silent) (dropping .unknown)).mount .A = .none := by
  refine ⟨?_, ?_, ?_, ?_, ?_⟩ <;> decide +kernel

/-- An inventory that repeats, and one that finds a record gone (R140, R142). -/
theorem test_meets_IdentityReads_repeat :
    let s := { inventoried with inventory := .running true ⟨.asked, .got .absent⟩ true }
    (after (.identityReadComplete .A .silent) s).readers = ⟨⟨some [.inventory], none⟩, ⟨some [.inventory], none⟩⟩
      ∧ .pocketChanged ∈ ((after (.identityReadComplete .A .silent) inventoried).links.get .S).flags
      ∧ .pocketChanged ∉ ((after (.identityReadComplete .A (.code 0x0102)) inventoried).links.get .S).flags := by
  refine ⟨?_, ?_, ?_⟩ <;> decide +kernel

/-- Both sensors active, then one falls (R146, R150, R158). -/
theorem test_meets_RackEvents_falls :
    let both := fun s : State => s.modRack fun r => { r with opened := true, closed := true }
    (after (.rackClosedChange false) (both (underway .opening))).stepOf .A = some .awaitDrop
      ∧ (after (.rackOpenChange false) (both ((underway .closing).setContext .A (some
          { context .closing with closing := some .aborted })))).lastChange.get .A = some .aborted
      ∧ (after (.rackOpenChange false) (both (underway .opening))).stepOf .A = some .opening := by
  refine ⟨?_, ?_, ?_⟩ <;> decide +kernel

/-- A contact flushes the queue: HELD, WAITING(ZONE) and MOVING (R182). -/
theorem test_meets_TriggerEdges_queue :
    ((after (.triggerEdge .A) (held [posSeg, posSeg])).motion.get .A).results.map (·.outcome) = [.flushed]
      ∧ ((after (.triggerEdge .A) (held [posSeg])).motion.get .A).phase = .collision
      ∧ (after (.triggerEdge .A) waiting).waiters = [] ∧ waiting.change.get .A = none
      ∧ ((after (.triggerEdge .A) (withA moving fun m => { m with queue := [posSeg] })).motion.get .A).queue = []
      ∧ ((after (.triggerEdge .A) (withA (paused homeSeg up) fun m => { m with queue := [posSeg] })).motion.get .A).results.map
        (·.outcome) = [.flushed, .contact] := by
  refine ⟨?_, ?_, ?_, ?_, ?_, ?_⟩ <;> decide +kernel

theorem test_meets_ReadyStarts_conflict :
    let s := reloading.modRack fun r => { r with opened := true, closed := true }
    (∀ b, s.change.get b = none) ∧ s.rack.opened = true ∧ s.rack.closed = true
      ∧ (after (.identityReadComplete .A .silent) s).rack.fault = true :=
  ⟨fun b => by cases b <;> rfl, rfl, rfl, by decide +kernel⟩

/-- Two records with one serial number: the lower slot stays (R144, R207). -/
theorem test_meets_ProbesInstalled_settings :
    let s := { cell with probes := Table.put cell.probes 8 (some { record .lost with identity := 0x0103 }) }
    let e := { settingsEntry with matchMode := some .serialOnly }
    ((s.install (.settings e)).1.probes.get 4).isSome = true ∧ (s.install (.settings e)).1.probes.get 8 = none
      ∧ ((cell.install (.pockets (Table.put (Vector.replicate 12 false) 3 true))).1.probes.get 4)
        = some (record (.mounted .A)) := by
  refine ⟨?_, ?_, ?_⟩ <;> decide +kernel

/-- The allowed lengths of a POST, and of a HALT by link (R203). -/
theorem test_meets_FrameChecks_lengths :
    116 ∈ lengthsOf .A 0x12 ∧ 145 ∉ lengthsOf .A 0x12 ∧ 1 ∈ lengthsOf .S 0x14 ∧ 1 ∉ lengthsOf .B 0x14
      ∧ codeOf (.reload .S) = some 0x75 ∧ assigned 0x76 = false := by decide

/-! ### The hypotheses can be met: a waiting head that a release lets start, what is due, the last section, layouts -/

/-- Arm B's head waits for zone 3, which arm A holds for its segment. -/
def yielding (s : State) : State :=
  { s with
    holders := Table.put (Table.put up.holders 3 (some (.A, .segment))) 0 (some (.B, .standing))
    waiters := [⟨.B, .segment, (bare.formGeometry .B posSeg.move (.all 200)).needed⟩]
    motion := s.motion.set .B { up.motion.b with
      phase := .waiting .zone, queue := [posSeg], geometry := some (bare.formGeometry .B posSeg.move (.all 200)) } }

/-- Arm A's segment in its stop ramp at its end, and at v = 0. -/
def ramping : State := yielding (leaving .halted 500)
def still : State :=
  yielding (withA bare fun m =>
    { m with phase := .moving, active := some { work posSeg 5 0 .active with geometry := some (head bare) } })

theorem test_meets_Yields :
    Yields ramping .A posSeg [] (bare.formGeometry .B posSeg.move (.all 200))
      ∧ Yields still .A posSeg [] (bare.formGeometry .B posSeg.move (.all 200)) := by
  have hn : (bare.formGeometry .B posSeg.move (.all 200)).needed = [0, 3] := by decide +kernel
  constructor <;>
  · refine ⟨rfl, rfl, rfl, by decide, ⟨3, by rw [hn]; decide, .segment, by decide +kernel⟩, ?_⟩
    rw [hn]
    intro z hz
    rcases List.mem_cons.1 hz with rfl | hz
    · exact .inl ⟨.standing, by decide +kernel⟩
    · rw [List.mem_singleton.1 hz]
      exact .inr ⟨by decide +kernel, by decide +kernel, by decide +kernel, .inr ⟨.segment, by decide, by decide +kernel⟩⟩

/-- A segment end, a drive fault and an ARM RESET at v = 0 let the head start (R115, R117). -/
theorem test_head_starts :
    (∀ c ∈ [(Instr.setpointExpiry .A, ramping), (.dfltChange .A true, still), (.armReset .A none, still)],
      ((after c.1 c.2).motion.get .B).phase = .moving ∧ (after c.1 c.2).holders.get 3 = some (.B, .segment)
        ∧ (after c.1 c.2).waiters = [])
      ∧ (ramping.axes.get .A).strays (ramping.cal.get .A).followingLimit = false ∧ Inert still .A := by
  refine ⟨by decide +kernel, by decide +kernel, test_inert_free _ _ rfl⟩

/-- A contact ramp at its end with the arm's change in WAIT_RACK, its CHANGE entry on the list, or in OPENING. -/
def struck (s : State) : State :=
  (withA s fun m => { m with phase := .stopping, active := some (work posSeg 5 4 (.stopping .contact)) }).modAxis .A .X
    fun y => { y with lastSent := y.count }

theorem test_meets_SegmentEnds_change :
    Lonely (struck waitingRack) .A (context .waitRack) ∧ Tables (struck waitingRack)
      ∧ ((struck waitingRack).axes.get .A).strays ((struck waitingRack).cal.get .A).followingLimit = false
      ∧ (after (.setpointExpiry .A) (struck waitingRack)).waiters = []
      ∧ (after (.setpointExpiry .A) (struck waitingRack)).lastChange.get .A = some (.failed .arm)
      ∧ ((struck (underway .opening)).axes.get .A).strays ((struck (underway .opening)).cal.get .A).followingLimit = false
      ∧ (after (.setpointExpiry .A) (struck (underway .opening))).lastChange.get .A = some (.failed .arm) := by
  refine ⟨.inr ⟨rfl, nofun, 3, .change, rfl, by decide⟩, tables_waitingRack, ?_, ?_, ?_, ?_, ?_⟩ <;> decide +kernel

/-- What is due: the end of a frame and, while READY, each timer that has reached its length. -/
theorem test_due :
    due { up with linger := ⟨some ⟨5, 5⟩, some ⟨5, 4⟩⟩, scanTimer := ⟨7, 7⟩
                  rack := { up.rack with stepTimer := some ⟨2, 3⟩ } } = [.scanExpiry, .lingerExpiry .A, .stepTimerExpiry]
      ∧ due { up with startup := .inventory, linger := ⟨some ⟨5, 5⟩, none⟩ } = []
      ∧ due (up.modTimer .B fun t => { t with length := 1000, count := 1000 }) = [.setpointExpiry .B]
      ∧ due (up.modAxes .A fun u => { u with line := [⟨1, true, .all 0⟩], bits := 140 }) = [.driveFrameEnd .A] := by
  refine ⟨?_, ?_, ?_, ?_⟩ <;> decide +kernel

/-- The last section with a bad field, and without an answer (R206). -/
theorem test_last_section :
    let s := { State.reset with loading := some .settings }
    let e := { settingsEntry with linger := 700, qualLimit := 20000 }
    (s.install (.settings e)).1.settings.linger = 700 ∧ (s.install (.settings e)).2 = true
      ∧ (after (.sectionLoadComplete .noAnswer) s).loadFaults.settings = true
      ∧ (after (.sectionLoadComplete .noAnswer) s).settings.linger = 500 := by
  refine ⟨?_, ?_, ?_, ?_⟩ <;> decide +kernel

/-- The period after a SET TIMER: 12,500 / 3 from an accumulator of 0 (R47). -/
theorem test_fresh_period :
    let t : SetpointTimer := { up.timers.a with n := 12500, d := 3, acc := 2, fresh := true }
    t.startPeriod.length = 4166 ∧ t.startPeriod.acc = 2 ∧ t.startPeriod.startAcc = 0 ∧ t.startPeriod.fresh = false := by
  decide

/-- R202's record of a CONTACT without a tag, on probe 3: its kinds byte, its flags and q.x = -1. -/
theorem test_record_bytes :
    let p : Point :=
      { seq := 0x0102, kind := .contact, tag := none, probe := some 3, generation := some 0x0405, epoch := 9
        q := ⟨-1, 2, 0x01020304⟩
        flags := ⟨false, true, false, false, false, false, true, false, false, true⟩ }
    p.bytes = [0x02, 0x01, 0x0D, 0x03, 0x42, 0x02, 0x00, 0x00, 0x05, 0x04, 0x09, 0x00, 0xFF, 0xFF, 0xFF, 0xFF, 0x02, 0x00,
      0x00, 0x00, 0x04, 0x03, 0x02, 0x01] := by decide

/-- R204's frame with the enable flag, Y = -2. -/
theorem test_frame_bytes :
    (⟨0xAB, true, ⟨1, -2, 256⟩⟩ : Frame).bytes
      = [0xAB, 0x01, 0x01, 0x00, 0x00, 0x00, 0xFE, 0xFF, 0xFF, 0xFF, 0x00, 0x01, 0x00, 0x00] := by decide

/-- Entries at and beyond the ranges of R73. -/
theorem test_segment_ranges :
    segmentsOf [{ homeEntry with feed := 1000000, search := 200000000 }] = some [⟨5, 1000000, .home .X .rising 200000000⟩]
      ∧ segmentsOf [homeEntry, { homeEntry with feed := 0 }] = none
      ∧ segmentsOf [{ homeEntry with search := 200000001 }] = none
      ∧ segmentsOf [{ homeEntry with kind := some .probe, overtravel := 1000001 }] = none
      ∧ (segmentsOf [{ homeEntry with kind := some .position, overtravel := 1000001, search := 0 }]).isSome = true := by
  decide

/-- A link state byte, and a command of each class by its code (R193, R201). -/
theorem test_link_codes :
    stateByte { idleLink .A with phase := .ready, attn := true, overrun := true } = 0x0E#8
      ∧ permitted .S (.halt .S (some (some .A))) = true ∧ permitted .S (.post .S []) = false
      ∧ permitted .B (.save .B) = false ∧ permitted .S (.readTrap .S) = true
      ∧ permitted .A (.qualify .A ⟨0, some .B, .all 0, 0⟩) = false := by decide

/-- A HALT at v = 0 with a queue records FLUSHED, then the segment (log 53). -/
theorem test_halt_still :
    ((after (.halt .A none) (withA still fun m => { m with queue := [posSeg] })).motion.get .A).results.map (·.outcome)
      = [.flushed, .halted] := by decide +kernel

/-- A grant: the zones of arm A's head, one of which lingered with arm B (R111; log 44). -/
theorem test_grant :
    (after (.resume .A) (contested .linger)).holders.get 3 = some (.A, .segment)
      ∧ (after (.resume .A) (contested .linger)).linger.get .A = none := by
  refine ⟨?_, ?_⟩ <;> decide +kernel

/-- Two modules swapped between the arms: both records LOST, both arms UNKNOWN (R142; log 56). -/
theorem test_swapped :
    let s := { cell with
      probes := Table.put cell.probes 6 (some { record (.mounted .B) with identity := 9 })
      pockets := up.pockets, inventory := .running false ⟨.asked, .got (.present 0x0102)⟩ false
      readers := ⟨⟨some [.inventory], none⟩, ⟨none, none⟩⟩ }
    let t := after (.identityReadComplete .A (.code 9)) s
    (t.probes.get 4).map (·.place) = some .lost ∧ (t.probes.get 6).map (·.place) = some .lost
      ∧ t.unknown = ⟨true, true⟩ := by
  refine ⟨?_, ?_, ?_⟩ <;> decide +kernel

/-- A pending drop read that loses its asker still starts (R128; log 55). -/
theorem test_discarded_pending :
    ((⟨some [.verify], some [.drop]⟩ : Reader).discard fun k => decide (k = .drop)).next = ⟨some [], none⟩ := by decide

/-! ### The hypotheses can be met: a pending ARM RESET, a close of a closed rack, registrations, holders, the pair -/

/-- A stop ramp at its end with an ARM RESET pending: any of the states above. -/
def resetting (s : State) : State := withA s fun m => { m with resetPending := true }

/-- The end of the ramp completes the reset, with a frame and the release frame (R100, R101). -/
theorem test_reset_at_ramp_end :
    let s := resetting (withA (leaving .halted 500) fun m => { m with queue := [posSeg] })
    let t := after (.setpointExpiry .A) s
    (s.axes.get .A).strays (s.cal.get .A).followingLimit = false ∧ s.waiters = []
      ∧ (t.motion.get .A).phase = .off ∧ (t.motion.get .A).queue = [] ∧ (t.motion.get .A).results = []
      ∧ (t.links.get .A).flags = [] ∧ (t.axes.get .A).line.map (·.enable) = [true, false] ∧ t.holders.get 3 = none := by
  refine ⟨?_, ?_, ?_, ?_, ?_, ?_, ?_, ?_⟩ <;> decide +kernel

theorem test_reset_inert : Inert (resetting (leaving .halted 500)) .A ∧ Inert (resetting ramping) .A :=
  ⟨test_inert_free _ _ rfl, test_inert_free _ _ rfl⟩

theorem test_reset_yields : Yields (resetting ramping) .A posSeg [] (bare.formGeometry .B posSeg.move (.all 200)) :=
  test_meets_Yields.1

theorem test_reset_starts_head :
    ((after (.setpointExpiry .A) (resetting ramping)).motion.get .B).phase = .moving
      ∧ ((after (.dfltChange .A true) (resetting ramping)).motion.get .A).phase = .off := by
  refine ⟨?_, ?_⟩ <;> decide +kernel

theorem test_reset_with_change :
    Lonely (resetting (struck waitingRack)) .A (context .waitRack) ∧ Tables (resetting (struck waitingRack))
      ∧ Lonely (resetting (struck (underway .awaitPick))) .A (context .awaitPick)
      ∧ (after (.setpointExpiry .A) (resetting (struck waitingRack))).lastChange.get .A = some (.failed .arm)
      ∧ ((after (.setpointExpiry .A) (resetting (struck (underway .awaitPick)))).change.get .A).map (·.step)
        = some .failedOpen := by
  refine ⟨.inr ⟨rfl, nofun, 3, .change, rfl, by decide⟩, tables_waitingRack, .inl rfl, ?_, ?_⟩ <;> decide +kernel

/-- A fault with an ARM RESET pending: the arm is OFF, the fault counted, ARM_FAULT on link S (R68, R100). -/
theorem test_reset_at_fault :
    (∀ c ∈ [Instr.illegalTransition .A .Y, .dfltChange .A true, .setpointExpiry .A],
      let s := (resetting (leaving .halted 500)).modAxis .A .Y fun y => { y with count := 900000000 }
      let t := after c s
      s.waiters = [] ∧ (s.axes.get .A).strays (s.cal.get .A).followingLimit = true
        ∧ (t.motion.get .A).phase = .off ∧ (t.motion.get .A).resetPending = false ∧ (t.links.get .A).flags = []
        ∧ Notice.armFault ∈ (t.links.get .S).flags ∧ t.faultCount = 1) := by decide +kernel

/-- An illegal transition in FAULT on a REFERENCED axis (R55, R110). -/
theorem test_illegal_in_fault :
    let s := inPhase (.fault .drive) false
    let t := after (.illegalTransition .A .Y) (zoned .shared s)
    (t.motion.get .A).phase = .fault .drive ∧ ((t.axes.get .A).axis.get .Y).error = true
      ∧ ((s.axes.get .A).axis.get .Y).referenced = true ∧ ((t.axes.get .A).axis.get .Y).referenced = false
      ∧ t.holders.get 3 = some (.A, .claim) ∧ Notice.armFault ∉ (t.links.get .S).flags := by
  refine ⟨?_, ?_, ?_, ?_, ?_, ?_⟩ <;> decide +kernel

/-- A close of a rack that is closed already ends the change (R156, R158). -/
theorem test_close_at_once :
    let shut := fun s : State => s.modRack fun r => { r with opened := false, closed := true }
    (after (.changeDone .A) (shut (confirmed .awaitPick))).lastChange.get .A = some .done ∧ (shut (confirmed .awaitPick)).waiters = []
      ∧ (after (.abortChange .A none) (shut (underway .awaitDrop))).lastChange.get .A = some .aborted
      ∧ (after (.abortChange .A none) (shut ((underway .failedOpen).setContext .A
          (some { context .failedOpen with failure := some .stepTimeout })))).lastChange.get .A
        = some (.failed .stepTimeout)
      ∧ ((after (.abortChange .A none) (shut (underway .awaitDrop))).links.get .A).flags = [.changeStep, .changeEnded] := by
  refine ⟨?_, ?_, ?_, ?_, ?_⟩ <;> decide +kernel

theorem test_close_tables :
    Tables ((underway .awaitDrop).modRack fun r => { r with opened := false, closed := true })
      ∧ Tables ((confirmed .awaitPick).modRack fun r => { r with opened := false, closed := true }) :=
  ⟨tables_underway .awaitDrop, tables_of _ (by decide +kernel)⟩

/-- A table with no FREE slot. -/
def crowded : State :=
  { up with probes := Vector.replicate 32 (some { record .lost with identity := 8 }) }

/-- REGISTER PROBE on an arm, refused at each check in turn (R130). -/
theorem test_register_refused :
    (∀ x ∈ [({ up with save := .running (up.imageOf .zones) 0 }, armEntry, Code.saveInProgress),
        ({ up with inventory := .running false ⟨.asked, .asked⟩ false }, armEntry, .wrongState),
        (up, { armEntry with identity := 4294967295 }, .badArgument), (up, { armEntry with tau := 4096 }, .badArgument),
        (up, { armEntry with home := some 12 }, .badArgument), (up, { armEntry with place := .arm none }, .badArgument),
        (crowded, { armEntry with identity := 8 }, .inUse), (crowded, armEntry, .queueFull), (cell, armEntry, .inUse),
        (up.setContext .A (some (context .opening)), armEntry, .wrongState)],
      codeAfter (.registerProbe .S x.2.1) .S x.1 = some x.2.2) := by decide +kernel

/-- The checks made again at the end of the read (R130). -/
theorem test_register_ends :
    let reg := fun (s : State) (e : RegisterEntry) =>
      { s.modLink .S fun y => { y with phase := .pending, work := some (.register e .A) } with
        readers := ⟨⟨some [.register], none⟩, ⟨none, none⟩⟩ }
    (∀ x ∈ [(reg crowded { armEntry with identity := 8 }, Code.inUse), (reg crowded armEntry, .queueFull),
        (reg cell armEntry, .inUse), (reg (up.setContext .A (some (context .opening))) armEntry, .wrongState),
        (reg up { armEntry with identity := 78 }, .noProbe), (reg up armEntry, .ok)],
      codeAfter (.identityReadComplete .A (.code 77)) .S x.1 = some x.2) := by decide +kernel

/-- A zone of both standing sets is arm A's after WRITE ZONE; a new record on an arm OFF frees what it left (R104, R109). -/
theorem test_zone_for_arm_A :
    let s := { up with motion := ready.motion, startup := .ready }
    let e : ZoneEntry := { kind := some .shared, box := ⟨.all (-5), .all 5⟩, k := 0 }
    let t := after (.writeZone .S 3 e) s
    t.holders.get 3 = some (.A, .standing) ∧ t.standing = ⟨[0, 3], [0, 3]⟩
      ∧ (after (.writeCalibration .S (some .A) { cal1 with axis := .all { (cal1.axis.get .X) with base := 9000000 } }) t).holders.get 3
        = some (.B, .standing)
      ∧ (∀ z, up.holders.get z ≠ some (.A, .segment)) ∧ (up.motion.get .A).active = none := by
  refine ⟨?_, ?_, ?_, ?_, ?_⟩ <;> decide +kernel

/-- The notice flags through a RELOAD (R212, R42, R39). -/
theorem test_reload_keeps :
    let s := { ((ready.modLink .A fun y => { y with flags := [.touch] }).modRack fun r => { r with fault := true }) with
      snapshot := { ready.snapshot with source := .air } }
    let t := after (.reload .S) s
    (t.links.get .A).flags = [.touch, .thermal] ∧ (t.links.get .B).flags = [.thermal] ∧ (t.links.get .S).flags = []
      ∧ t.rack.fault = true := by
  refine ⟨?_, ?_, ?_, ?_⟩ <;> decide +kernel

/-- The order of the channel pair (R54). -/
theorem test_pair_order :
    nextPair (false, false) .forward = (true, false) ∧ nextPair (true, false) .forward = (true, true)
      ∧ nextPair (true, true) .reverse = (true, false) ∧ nextPair (false, false) .reverse = (false, true) := by decide

end Sys2Proof.Tests
end

section
/-! PROOFS. Integer arithmetic (R6, R7): what `roundDiv` and `isqrt` return, for every input. -/
namespace Sys2Proof.Machine

theorem roundDiv_neg_left (x y : Int) : roundDiv (-x) y = -roundDiv x y := by
  simp only [roundDiv, Int.sign_neg, Int.natAbs_neg, Int.neg_mul]

theorem roundDiv_neg_right (x y : Int) : roundDiv x (-y) = -roundDiv x y := by
  simp only [roundDiv, Int.sign_neg, Int.natAbs_neg, Int.mul_neg, Int.neg_mul]

theorem roundDiv_natCast (a : Nat) {b : Nat} (hb : 0 < b) :
    roundDiv a b = ((2 * a + b) / (2 * b) : Nat) := by
  have sign_b : (b : Int).sign = 1 := Int.sign_eq_one_of_pos (by omega)
  rcases Nat.eq_zero_or_pos a with rfl | ha
  · have quotient_zero : b / (2 * b) = 0 := Nat.div_eq_of_lt (by omega)
    rw [roundDiv, Int.natAbs_natCast, Int.natAbs_natCast, Nat.mul_zero, Nat.zero_add, quotient_zero]
    exact Int.mul_zero _
  · have sign_a : (a : Int).sign = 1 := Int.sign_eq_one_of_pos (by omega)
    rw [roundDiv, sign_a, sign_b, Int.natAbs_natCast, Int.natAbs_natCast, Int.mul_one, Int.one_mul]

/-- The multiple of b that `roundDiv` picks lies in the interval (a - b / 2, a + b / 2], so a half goes up. -/
theorem roundDiv_mul_bounds (a : Nat) {b : Nat} (hb : 0 < b) :
    2 * (a : Int) - b < 2 * (roundDiv a b * b) ∧ 2 * (roundDiv a b * b) ≤ 2 * (a : Int) + b := by
  rw [roundDiv_natCast a hb, ← Int.natCast_mul]
  have low := Nat.lt_div_mul_add (a := 2 * a + b) (b := 2 * b) (by omega)
  have high := Nat.div_mul_le_self (2 * a + b) (2 * b)
  rw [Nat.mul_left_comm] at low high
  omega

/-- R6, both halves: the distance to x is at most |y| / 2, and at exactly |y| / 2 the multiple is the one farther from 0.
The sign symmetries leave the case of two naturals. -/
theorem roundDiv_nearest (x : Int) {y : Int} (hy : y ≠ 0) :
    2 * (x - roundDiv x y * y).natAbs ≤ y.natAbs
      ∧ (2 * (x - roundDiv x y * y).natAbs = y.natAbs → x.natAbs < (roundDiv x y * y).natAbs) := by
  obtain ⟨a, hx⟩ := Int.eq_nat_or_neg x
  obtain ⟨b, hyb⟩ := Int.eq_nat_or_neg y
  obtain ⟨low, high⟩ := roundDiv_mul_bounds a (b := b) (by omega)
  have same_sign :
      x = a ∧ roundDiv x y * y = roundDiv a b * b ∨ x = -a ∧ roundDiv x y * y = -(roundDiv a b * b) := by
    have of_divisor : roundDiv a y * y = roundDiv a b * b := by
      rcases hyb with rfl | rfl
      · rfl
      · rw [roundDiv_neg_right, Int.neg_mul_neg]
    rcases hx with rfl | rfl
    · exact .inl ⟨rfl, of_divisor⟩
    · exact .inr ⟨rfl, by rw [roundDiv_neg_left, Int.neg_mul, of_divisor]⟩
  omega

/-- The search keeps the root in [r, r + 2^b) and halves that interval with each bit. -/
theorem isqrtFrom_spec (b : Nat) {n r : Nat} (low : r * r ≤ n) (high : n < (r + 2 ^ b) * (r + 2 ^ b)) :
    isqrtFrom b n r * isqrtFrom b n r ≤ n ∧ n < (isqrtFrom b n r + 1) * (isqrtFrom b n r + 1) := by
  induction b generalizing r with
  | zero => exact ⟨low, high⟩
  | succ b ih =>
    unfold isqrtFrom
    split
    next fits =>
      have upper_half : r + 2 ^ (b + 1) = r + 2 ^ b + 2 ^ b := by omega
      exact ih fits (upper_half ▸ high)
    next exceeds => exact ih low (Nat.lt_of_not_le exceeds)

theorem isqrt_spec (n : Nat) : isqrt n * isqrt n ≤ n ∧ n < (isqrt n + 1) * (isqrt n + 1) := by
  have enough_bits : n < 2 ^ (n.log2 / 2 + 1) * 2 ^ (n.log2 / 2 + 1) := calc
    n < 2 ^ (n.log2 + 1) := Nat.lt_log2_self
    _ ≤ 2 ^ (n.log2 / 2 + 1 + (n.log2 / 2 + 1)) := Nat.pow_le_pow_right (by decide) (by omega)
    _ = _ := Nat.pow_add ..
  exact isqrtFrom_spec _ (Nat.zero_le n) (by simpa only [Nat.zero_add] using enough_bits)

/-- Settles O21: the rounding from `roundDiv_nearest` and the sign symmetries, the root from `isqrt_spec`. -/
theorem integerArithmetic : Obligations.IntegerArithmetic := by
  refine ⟨fun x y hy => ?_, isqrt_spec⟩
  obtain ⟨nearest, away⟩ := roundDiv_nearest x hy
  exact ⟨nearest, away, roundDiv_neg_left x y, roundDiv_neg_right x y⟩

end Sys2Proof.Machine
end

section
/-! PROOFS. CLEAR and OVERRIDE (R69, R87, R94): what their owners do by arm state, and the answer each request gets. -/
namespace Sys2Proof.Machine
open Sys2Proof.Safety

/-! ### An arm command on its own link -/

@[simp] theorem Arm.link_arm? (a : Arm) : a.link.arm? = some a := by cases a <;> rfl

@[simp] theorem ownArm_link (a : Arm) (f : Arm → State → State) (s : State) : ownArm a.link f s = f a s := by
  simp only [ownArm, Arm.link_arm?]

theorem linkCheck_clear (a : Arm) : linkCheck a.link (.clear a.link) = none := by cases a <;> rfl

theorem linkCheck_override (a : Arm) (v : Nat) : linkCheck a.link (.override a.link v) = none := by cases a <;> rfl

/-- An arm command whose owner makes the change g and answers: only the arms' motion and axes may decide that it does so,
and g neither reads nor writes the links, so a request that arrives and one that waited end alike. -/
theorem serve_ownArm_answers {s : State} {a : Arm} {c : Instr} {k : Code} {f : Arm → State → State} (g : State → State)
    (taken : Takes s a.link c) (checked : linkCheck a.link c = none)
    (acts : ∀ t : State, t.motion = s.motion → t.axes = s.axes → f a t = (g t).respond a.link k)
    (links_kept : (g s).links = s.links) (commutes : ∀ r, g (s.modLink a.link r) = (g s).modLink a.link r) :
    serve a.link c (ownArm a.link f) s = answered (g s) a.link k .none := by
  refine serve_answers (F := id) taken checked (by rw [links_kept]) ?_ ?_
  · rw [ownArm_link, acts s rfl rfl]; rfl
  · rw [ownArm_link, acts (s.modLink a.link LinkState.take) rfl rfl, commutes]; rfl

/-! ### The owners by arm state -/

/-- DEN rises without a frame: only a deassertion sends one (R63). -/
theorem AxisUnit.drive_true (u : AxisUnit) : u.drive true = { u with den := true } := by
  simp [AxisUnit.drive]

theorem State.setPhase_idle (s : State) (a : Arm) :
    s.setPhase a .idle
      = (s.modMotion a fun m => { m with phase := .idle }).modAxes a fun u => { u with den := true } := by
  simp only [State.setPhase, denOf, AxisUnit.drive_true]

theorem clear_of_collision {s : State} {a : Arm} (h : (s.motion.get a).phase = .collision) (l : Link) :
    clear l a s = (s.setPhase a .idle).respond l .ok := by
  simp only [clear, h]

theorem clear_of_fault {s : State} {a : Arm} {r : FaultReason} (h : (s.motion.get a).phase = .fault r) (l : Link) :
    clear l a s = if (s.axes.get a).dflt then s.respond l .wrongState else (s.setPhase a .off).respond l .ok := by
  cases active : (s.axes.get a).dflt <;> simp [clear, h, active, State.checked]

theorem clear_of_other {s : State} {a : Arm} (not_collision : (s.motion.get a).phase ≠ .collision)
    (not_fault : ∀ r, (s.motion.get a).phase ≠ .fault r) (l : Link) : clear l a s = s.respond l .wrongState := by
  unfold clear
  split
  next collision => exact absurd collision not_collision
  next fault => exact absurd fault (not_fault _)
  next => rfl

theorem setOverride_eq (l : Link) (v : Nat) (a : Arm) (s : State) :
    setOverride l v a s
      = (s.modMotion a fun m => { m with override := if 150 < v then 150 else v }).respond l .ok := by
  have capped : min v 150 = if 150 < v then 150 else v := by split <;> omega
  rw [setOverride, capped]

/-! ### The commands -/

/-- CLEAR by its owner's change g and answer. -/
theorem exec_clear_answers {s : State} {a : Arm} {k : Code} (g : State → State) (taken : Takes s a.link (.clear a.link))
    (acts : ∀ t : State, t.motion = s.motion → t.axes = s.axes → clear a.link a t = (g t).respond a.link k)
    (links_kept : (g s).links = s.links) (commutes : ∀ r, g (s.modLink a.link r) = (g s).modLink a.link r) :
    Goes (.clear a.link) s (answered (g s) a.link k .none) :=
  congrArg Host.Outcome.next (serve_ownArm_answers g taken (linkCheck_clear a) acts links_kept commutes)

/-- Settles O40: CLEAR by the three cases of the arm state, OVERRIDE by its one. -/
theorem clearAndOverride : Obligations.ClearAndOverride := by
  refine fun a v s => ⟨fun taken => ⟨fun collision => ?_, fun r fault active => ?_, fun r fault inactive => ?_,
    fun not_collision not_fault => ?_⟩, fun taken => ?_⟩
  · rw [← State.setPhase_idle]
    exact exec_clear_answers (·.setPhase a .idle) taken
      (fun t motion _ => clear_of_collision (by rw [motion]; exact collision) _) rfl fun _ => rfl
  · exact exec_clear_answers id taken
      (fun t motion axes => by rw [clear_of_fault (by rw [motion]; exact fault), axes, if_pos active]; rfl)
      rfl fun _ => rfl
  · exact exec_clear_answers (·.setPhase a .off) taken
      (fun t motion axes => by rw [clear_of_fault (by rw [motion]; exact fault), axes, inactive]; rfl)
      rfl fun _ => rfl
  · exact exec_clear_answers id taken
      (fun t motion _ => clear_of_other (by rw [motion]; exact not_collision) (by rw [motion]; exact not_fault) _)
      rfl fun _ => rfl
  · exact congrArg Host.Outcome.next (serve_ownArm_answers
      (·.modMotion a fun m => { m with override := if 150 < v then 150 else v }) taken (linkCheck_override a v)
      (fun t _ _ => setOverride_eq _ _ _ t) rfl fun _ => rfl)

end Sys2Proof.Machine
end

section
/-! PROOFS. The point computation (R172 to R176): each stage by the rule's formula on every axis, then the fields
and the flags of the record. -/
namespace Sys2Proof

theorem PerAxis.any_iff {α : Type} (v : PerAxis α) (p : α → Bool) :
    v.any p = true ↔ ∃ i, p (v.get i) = true := by
  simp only [PerAxis.any, Bool.or_eq_true]
  constructor
  · rintro ((x | y) | z)
    · exact ⟨.X, x⟩
    · exact ⟨.Y, y⟩
    · exact ⟨.Z, z⟩
  · rintro ⟨i | i | i, holds⟩
    · exact .inl (.inl holds)
    · exact .inl (.inr holds)
    · exact .inr holds

namespace Machine

theorem out32_iff (x : Int) : out32 x = true ↔ x < -2147483648 ∨ 2147483647 < x := by
  simp only [out32, Bool.or_eq_true, decide_eq_true_eq]

namespace Latch
variable (t : Latch) (a : Arm) (seq : Nat)

/-! ### The stages -/

/-- Stages 1 and 2 (R172): the forward conversion before its clamp and the offset of the qualification entry, if any. -/
theorem tip_get (i : Axis) : (t.tip a).get i
    = (t.cal.get i).base + (t.cal.get i).sign * (t.counts.get i
        + roundDiv (t.counts.get i * (t.cal.get i).alpha * ((t.snapshot.groups.scale.get a).get i).temp) 1000000000000)
      + (match t.probe.bind (·.entry) with
        | some q => q.offset.get i
        | none => 0) := by
  rw [tip, PerAxis.get_of, forwardExact, PerAxis.get_of, entry]
  cases t.probe.bind (·.entry) <;> rfl

variable {t} in
/-- Stage 3 of a TOUCH (R173): from the tip along d by the ball's radius less the lag. -/
theorem surface_get_of_touch {l : LatchPath} (touch : t.kind = .touch) (path : t.path = some l) (i : Axis) :
    (t.surface a).get i = (t.tip a).get i
      + roundDiv (((((t.entry.map (·.radius)).getD 0 : Nat) : Int) - t.lag) * l.d.get i) l.len := by
  simp only [surface, touch, path, PerAxis.get_of]

variable {t} in
/-- Stage 3 of a CONTACT (R173): no direction, no correction. -/
theorem surface_of_contact (contact : t.kind = .contact) : t.surface a = t.tip a := by
  simp only [surface, contact]

/-- Stage 4 (R174). -/
theorem scaledPoint_get (i : Axis) : (t.scaledPoint a).get i
    = (t.surface a).get i - roundDiv (((t.surface a).get i - t.snapshot.workpiece.w0.get i)
        * t.snapshot.workpiece.alpha * t.snapshot.wpTemp) 1000000000000 := by
  rw [scaledPoint, PerAxis.get_of]

theorem point_q_get (i : Axis) :
    (t.point a seq).q.get i = max (-2147483648) (min ((t.scaledPoint a).get i) 2147483647) := by
  rw [point, PerAxis.get_map, clamp32_eq]

theorem point_probe_iff (n : Slot) : (t.point a seq).probe = some n ↔ t.mount = .record n := by
  cases mount : t.mount <;> simp [point, mount]

/-! ### The flags (R176) -/

theorem clamped_iff : (t.flags a).clamped = true
    ↔ ∃ i, (t.scaledPoint a).get i < -2147483648 ∨ 2147483647 < (t.scaledPoint a).get i := by
  simp only [flags, PerAxis.any_iff, out32_iff]

theorem unqualified_iff : (t.flags a).unqualified = true
    ↔ t.mount = .unknown ∨ ((∃ n, t.mount = .record n) ∧ t.entry = none) := by
  cases mount : t.mount <;> simp [flags, mount]

theorem qualStale_iff : (t.flags a).qualStale = true ↔ ∃ r, t.probe = some r ∧ r.status = .stale := by
  simp only [flags, Option.any_eq_true, decide_eq_true_eq]

theorem thermStale_iff : (t.flags a).thermStale = true
    ↔ (∃ i, ((t.snapshot.groups.scale.get a).get i).stale = true)
      ∨ (t.entry ≠ none ∧ (t.snapshot.groups.head.get a).stale = true)
      ∨ (t.snapshot.source = .held
        ∧ (t.snapshot.groups.workpiece.stale = true ∨ t.snapshot.groups.air.stale = true)) := by
  simp only [flags, thermStale, Bool.or_eq_true, Bool.and_eq_true, PerAxis.any_iff, Option.isSome_iff_ne_none,
    decide_eq_true_eq, or_assoc]

end Latch

/-- Settles O56: the model's own stages are the points asked for: b is the tip, e the surface point and x the point
before its clamp. -/
theorem pointComputed : Obligations.PointComputed := fun t a seq =>
  ⟨t.tip a, t.surface a, t.scaledPoint a,
    t.tip_get a, fun _ i touch path => Latch.surface_get_of_touch a touch path i, Latch.surface_of_contact a,
    t.scaledPoint_get a, t.point_q_get a seq, t.clamped_iff a,
    rfl, rfl, rfl, rfl, t.point_probe_iff a seq, rfl,
    t.unqualified_iff a, t.qualStale_iff a, t.thermStale_iff a, decide_eq_true_iff, decide_eq_true_iff, rfl,
    decide_eq_true_iff, rfl, decide_eq_true_iff,
    by decide⟩

end Machine
end Sys2Proof
end

section
/-! PROOFS. STATUS (R197), READ TRAP and CLEAR TRAP (R199): what a request that its owner answers at once leaves, the flag
set after a raise, and a report to an empty trap. -/
namespace Sys2Proof.Machine
open Sys2Proof.Safety

/-! ### A request answered at once -/

/-- An owner that makes the state u and answers, whether the request arrived or waited: u may differ from s on the request's
own link too, as long as that link is in the same state with the same request. -/
theorem serve_answers_at_once {s u : State} {l : Link} {c : Instr} {k : Code} {p : Payload} {f : State → State}
    (taken : Takes s l c) (checked : linkCheck l c = none)
    (phase_kept : (u.links.get l).phase = (s.links.get l).phase) (request_kept : u.holdsRequest l c = s.holdsRequest l c)
    (waited : f s = u.respond l k p)
    (arrived : f (s.modLink l LinkState.take) = (u.modLink l LinkState.take).respond l k p) :
    serve l c f s = answered u l k p := by
  rcases taken with can_take | held
  · rw [serve_open can_take checked, arrived, respond_take (by rwa [phase_kept])]
  · rw [serve_held held, waited, respond_held (by rwa [request_kept])]

theorem linkCheck_status (l : Link) : linkCheck l (.status l) = none := by cases l <;> rfl

theorem linkCheck_readTrap (l : Link) : linkCheck l (.readTrap l) = none := by cases l <;> rfl

theorem linkCheck_clearTrap : linkCheck .S (.clearTrap .S) = none := rfl

/-! ### Notice flags -/

theorem mem_allNotices (k : Notice) : k ∈ allNotices := by cases k <;> decide

@[simp] theorem mem_addNotice {j k : Notice} {fs : List Notice} : j ∈ addNotice k fs ↔ j = k ∨ j ∈ fs := by
  simp [addNotice, mem_allNotices]

@[simp] theorem addNotice_nil (k : Notice) : addNotice k [] = [k] := by cases k <;> rfl

@[simp] theorem State.raise_flags (s : State) (l : Link) (k : Notice) :
    ((s.raise l k).links.get l).flags = addNotice k (s.links.get l).flags := by
  simp only [State.raise, State.modLink_links, PerLink.get_set, LinkState.raise, LinkState.reform]

/-- Clearing the flags and taking a request touch different fields of the link. -/
theorem State.clearFlags_take (s : State) (l : Link) :
    (s.modLink l LinkState.take).modLink l LinkState.clearFlags
      = (s.modLink l LinkState.clearFlags).modLink l LinkState.take := by
  simp only [State.modLink, PerLink.get_set, PerLink.set_set]
  rfl

theorem status_eq (l : Link) (s : State) : status l s
    = (s.modLink l LinkState.clearFlags).respond l .ok (.notices (s.links.get l).flags (s.links.get l).mask) := rfl

/-- The flags an arriving STATUS returns are those from before it arrived. -/
theorem status_take (l : Link) (s : State) : status l (s.modLink l LinkState.take)
    = ((s.modLink l LinkState.clearFlags).modLink l LinkState.take).respond l .ok
        (.notices (s.links.get l).flags (s.links.get l).mask) := by
  rw [status_eq, State.clearFlags_take, State.modLink_links, PerLink.get_set]
  rfl

theorem serve_status {s : State} {l : Link} (taken : Takes s l (.status l)) : serve l (.status l) (status l) s
    = answered (s.modLink l LinkState.clearFlags) l .ok (.notices (s.links.get l).flags (s.links.get l).mask) := by
  have link_kept : ((s.modLink l LinkState.clearFlags).links.get l) = (s.links.get l).clearFlags := by
    rw [State.modLink_links, PerLink.get_set]
  refine serve_answers_at_once taken (linkCheck_status l) ?_ ?_ (status_eq l s) (status_take l s)
  · rw [link_kept]; rfl
  · rw [State.holdsRequest, link_kept]; rfl

/-- Settles O16: the answer by `serve_status`, where ATTN falls because a link without flags shares no kind with its mask;
the raises by what `addNotice` holds. -/
theorem statusReturnsAndClears : Obligations.StatusReturnsAndClears := by
  refine fun l k s => ⟨fun taken => congrArg Host.Outcome.next (serve_status taken), ?_, ?_, fun no_flags => ?_⟩
  · rw [State.raise_flags, mem_addNotice]; exact .inl rfl
  · intro j raised
    rwa [State.raise_flags, mem_addNotice] at raised
  · rw [State.raise_flags, no_flags, addNotice_nil]

/-! ### The trap -/

theorem State.report_of_empty_trap {s : State} (empty : s.trap = none) (r : FaultReport) :
    s.report r = State.raise { s with
      faultCount := min (s.faultCount + 1) 65535, trap := some ⟨r, min (s.faultCount + 1) 65535⟩ } .S .trapSet := by
  simp only [State.report, empty]

theorem exec_readTrap_answers {s : State} {l : Link} (taken : Takes s l (.readTrap l)) :
    Answers (.readTrap l) l s s (.trap s.faultCount s.trap) :=
  congrArg Host.Outcome.next (serve_answers_at_once taken (linkCheck_readTrap l) rfl rfl rfl rfl)

theorem exec_clearTrap_answers {s : State} (taken : Takes s .S (.clearTrap .S)) :
    Answers (.clearTrap .S) .S s { s with trap := none } :=
  congrArg Host.Outcome.next (serve_answers_at_once taken linkCheck_clearTrap rfl rfl rfl rfl)

/-- Settles O17: the two requests from every state, the state after the fault among them. -/
theorem trapReadAndCleared : Obligations.TrapReadAndCleared := by
  refine fun l r s => ⟨exec_readTrap_answers, exec_clearTrap_answers, fun empty => ⟨?_, ?_, exec_clearTrap_answers⟩⟩
  · rw [State.report_of_empty_trap empty, State.raise_trap]
  · rw [State.report_of_empty_trap empty, State.raise_flags, mem_addNotice]
    exact .inl rfl

end Sys2Proof.Machine
end

section
/-! PROOFS. One step of the block: it always answers a next state, and it keeps whatever every command keeps, so each of the
six invariants of Safety.lean; the state after reset has them. -/
namespace Sys2Proof.Machine
open Sys2Proof.Safety

/-! ### Every command goes on -/

/-- No meaning raises a fault or a refusal. -/
theorem exec_goes (c : Instr) (s : State) : ∃ t, Goes c s t := by
  cases c <;> exact ⟨_, rfl⟩

/-- The idle step with several things due: one of them, on the state with the choice counted. -/
theorem idle_of_several {s : State} {c d : Instr} {rest : List Instr} (several : due s = c :: d :: rest) :
    ∃ x ∈ due s, idle s = exec x { s with choices := s.choices + 1 } := by
  have index : Config.tieIndex s.choices % (c :: d :: rest).length < (c :: d :: rest).length :=
    Nat.mod_lt _ (Nat.succ_pos _)
  refine ⟨(c :: d :: rest).getD (Config.tieIndex s.choices % (c :: d :: rest).length) c, ?_, by simp only [idle, several]⟩
  rw [several, List.getD_eq_getElem?_getD, List.getElem?_eq_getElem index]
  exact List.getElem_mem index

/-- The idle step by what has fallen due: nothing, so a reference period passes, or one of the due commands, for which the
choice may be counted. -/
theorem idle_cases (s : State) : (due s = [] ∧ idle s = .next (tick s))
    ∨ ∃ c ∈ due s, idle s = exec c s ∨ idle s = exec c { s with choices := s.choices + 1 } := by
  match fallen : due s with
  | [] => exact .inl ⟨rfl, by simp only [idle, fallen]⟩
  | [c] => exact .inr ⟨c, List.mem_singleton_self c, .inl (by simp only [idle, fallen])⟩
  | c :: d :: rest =>
    obtain ⟨x, mem, does⟩ := idle_of_several fallen
    exact .inr ⟨x, fallen ▸ mem, .inr does⟩

theorem step_of_empty {s : State} (empty : s.pending = []) : step s = idle s := by simp only [step, empty]

/-- Settles O1: by the definition of a step. -/
theorem stepTakesFront : Obligations.StepTakesFront := fun c rest s front => by simp only [step, front]

/-- Settles O2: a step is a command, or an idle step, which is a command or a reference period. -/
theorem nothingStops : Obligations.NothingStops := by
  refine ⟨exec_goes, fun s => ?_⟩
  cases pending : s.pending with
  | cons c rest => rw [stepTakesFront c rest s pending]; exact exec_goes _ _
  | nil =>
    rw [step_of_empty pending]
    rcases idle_cases s with ⟨-, ticks⟩ | ⟨c, -, does | does⟩
    · exact ⟨_, ticks⟩
    · rw [does]; exact exec_goes _ _
    · rw [does]; exact exec_goes _ _

/-! ### What a step keeps -/

/-- A step takes a command, counts a choice or lets a reference period pass, and each keeps such a property. -/
theorem Lasting.kept {P : State → Prop} (lasting : Lasting P) : Kept P := by
  intro s t holds goes
  have queue (rest : List Instr) : P { s with pending := rest } :=
    lasting.other holds rfl rfl rfl rfl rfl rfl rfl rfl rfl rfl rfl rfl
  have counted : P { s with choices := s.choices + 1 } :=
    lasting.other holds rfl rfl rfl rfl rfl rfl rfl rfl rfl rfl rfl rfl
  cases pending : s.pending with
  | cons c rest =>
    rw [stepTakesFront c rest s pending] at goes
    exact lasting.exec c (queue rest) goes
  | nil =>
    rw [step_of_empty pending] at goes
    rcases idle_cases s with ⟨-, ticks⟩ | ⟨c, -, does | does⟩
    · rw [ticks] at goes
      cases goes
      exact lasting.tick holds
    · exact lasting.exec c holds (does ▸ goes)
    · exact lasting.exec c counted (does ▸ goes)

/-- Settles O59: each property is kept by the shared operations and by the commands made of none, so by every step. -/
theorem invariantsKept : Obligations.InvariantsKept :=
  ⟨bounds.kept, driveEnable.kept, attention.kept, tables.kept, rackHeld.kept, oneEntry.kept⟩

/-- RESET of the reset state changes nothing, so what RESET establishes holds there. -/
theorem resetPart_reset : resetPart State.reset = State.reset := by
  have pockets : State.reset.pockets.map (fun k => { state := .empty, unexpected := false, level := k.level })
      = State.reset.pockets := by
    rfl
  unfold resetPart
  rw [pockets]
  rfl

theorem Bounds_reset : Bounds State.reset := by
  have arm : ∀ a, ArmBounds State.reset a := fun a => by cases a <;> exact ⟨by decide, by decide, by decide, by decide, by decide, by decide⟩
  exact ⟨arm .A, arm .B, by decide, by decide⟩

/-- Settles O60: the tables and the rack by what RESET establishes, the rest by the reset values. -/
theorem resetIsSafe : Obligations.ResetIsSafe := by
  refine ⟨Bounds_reset, fun a => ?_, fun l => ?_, ?_, ?_, List.nodup_nil⟩
  · cases a <;> rfl
  · cases l <;> rfl
  · rw [← resetPart_reset]; exact Tables_resetPart _
  · rw [← resetPart_reset]; exact RackHeld_resetPart _

/-! ### RESET -/

/-- Settles O4: the row writes each field as the statement lists it. -/
theorem resetRow : Obligations.ResetRow := fun _ => rfl

/-- Settles O5: each value read off the reset state, arm by arm, axis by axis and link by link. -/
theorem resetValues : Obligations.ResetValues := by
  refine ⟨rfl, rfl, rfl, fun l => ?_, rfl, rfl, fun c => ?_, rfl, rfl, rfl, rfl, rfl, rfl, fun a i => ?_, fun a => ?_, rfl,
    rfl, rfl, fun a => ?_, fun a i => ?_, fun a => ?_, fun a => ?_, fun z => get_replicate none z, rfl, rfl, fun a => ?_,
    rfl, rfl, rfl, rfl, rfl, fun a => ?_⟩
  · cases l <;> rfl
  · have channel : State.reset.channels.get c = Channel.default := get_replicate Channel.default c
    rw [channel]; rfl
  · cases a <;> cases i <;> rfl
  · cases a <;> rfl
  · cases a <;> exact ⟨rfl, rfl, rfl⟩
  · cases a <;> cases i <;> exact ⟨rfl, rfl, rfl, rfl⟩
  · cases a <;> exact ⟨rfl, rfl, rfl⟩
  · cases a <;> rfl
  · cases a <;> exact ⟨rfl, rfl, rfl, rfl, rfl⟩
  · cases a <;> exact ⟨rfl, rfl, rfl, rfl⟩

/-! ### What falls due -/

theorem mem_dueIf {b : Bool} {x c : Instr} : c ∈ dueIf b x ↔ c = x ∧ b = true := by
  cases b <;> simp [dueIf]

theorem LinkState.mem_waits {l : LinkState} {c : Instr} :
    c ∈ l.waits ↔ l.phase = .pending ∧ l.work = some .owner ∧ l.request = some c := by
  unfold LinkState.waits
  split
  next holds =>
    obtain ⟨pending, owner⟩ := by simpa using holds
    simp [pending, owner]
  next other =>
    simp only [Bool.and_eq_true, decide_eq_true_eq, not_and] at other
    exact ⟨nofun, fun ⟨pending, owner, _⟩ => absurd owner (other pending)⟩

theorem expired_iff (x : Option Timer) : expired x = true ↔ ∃ t, x = some t ∧ t.length ≤ t.count := by
  simp only [expired, Option.any_eq_true, decide_eq_true_eq]

theorem SetpointTimer.ended_iff (t : SetpointTimer) : t.ended = true ↔ 0 < t.length ∧ t.length ≤ t.count := by
  simp only [ended, Bool.and_eq_true, decide_eq_true_eq]

theorem AxisUnit.frameEnded_iff (u : AxisUnit) : u.frameEnded = true ↔ u.line ≠ [] ∧ 140 ≤ u.bits := by
  rw [frameEnded, Bool.and_eq_true, Bool.not_eq_true', List.isEmpty_eq_false_iff]
  exact and_congr_right' decide_eq_true_iff

theorem Arm.exists_iff {p : Arm → Prop} : (∃ a, p a) ↔ p .A ∨ p .B :=
  ⟨fun ⟨a, h⟩ => by cases a; exact .inl h; exact .inr h, fun h => h.elim (⟨_, ·⟩) (⟨_, ·⟩)⟩

theorem Link.exists_iff {p : Link → Prop} : (∃ l, p l) ↔ p .A ∨ p .B ∨ p .S :=
  ⟨fun ⟨l, h⟩ => by cases l; exact .inl h; exact .inr (.inl h); exact .inr (.inr h),
    fun h => h.elim (⟨_, ·⟩) fun h => h.elim (⟨_, ·⟩) (⟨_, ·⟩)⟩

theorem ready_iff (s : State) : s.ready = true ↔ s.startup = .ready := decide_eq_true_iff

theorem mem_due {s : State} {c : Instr} : c ∈ due s ↔
    (∃ l, c ∈ (s.links.get l).waits)
    ∨ (∃ a, c = .driveFrameEnd a ∧ (s.axes.get a).frameEnded = true)
    ∨ (s.startup = .ready ∧
      ((∃ a, c = .setpointExpiry a ∧ (s.timers.get a).ended = true)
      ∨ (c = .scanExpiry ∧ 0 < s.scanTimer.length ∧ s.scanTimer.length ≤ s.scanTimer.count)
      ∨ (∃ a, c = .lingerExpiry a ∧ expired (s.linger.get a) = true)
      ∨ (c = .rackTimerExpiry ∧ expired s.rack.rackTimer = true) ∨ (c = .stepTimerExpiry ∧ expired s.rack.stepTimer = true)
      ∨ (c = .dropReadRepeat ∧ expired s.rack.dropTimer = true))) := by
  simp only [due, List.mem_append, List.mem_ite_nil_right, mem_dueIf, Arm.exists_iff, Link.exists_iff, ready_iff,
    PerLink.get, Bool.and_eq_true, decide_eq_true_eq, or_assoc]

/-! ### One reference period -/

theorem AxisUnit.tick_bits (u : AxisUnit) : u.tick.bits = u.bits + if u.line = [] then 0 else 1 := by
  cases line : u.line <;> simp [tick, line]

theorem tick_of_not_ready {s : State} (h : s.startup ≠ .ready) : tick s = { s with axes := s.axes.map AxisUnit.tick } :=
  if_neg (mt (ready_iff s).1 h)

theorem tick_of_ready {s : State} (h : s.startup = .ready) :
    tick s = tickTimers { s with axes := s.axes.map AxisUnit.tick } :=
  if_pos ((ready_iff s).2 h)

/-- Settles O3: membership in the list of due things, the cases of the idle step, and the fields of a reference period
before and after READY. -/
theorem idleStep : Obligations.IdleStep := by
  intro s empty
  refine ⟨fun c => ?_, fun nothing => ?_, fun c one => ?_, fun c d rest several => ?_, ?_⟩
  · simp only [mem_due, LinkState.mem_waits, AxisUnit.frameEnded_iff, SetpointTimer.ended_iff, expired_iff]
  · simp only [step_of_empty empty, idle, nothing]
  · simp only [step_of_empty empty, idle, one]
  · rw [step_of_empty empty]; exact idle_of_several several
  · by_cases ready : s.startup = .ready
    · have counted : tickTimer = fun t => { t with count := t.count + 1 } := rfl
      simp [ready, tick_of_ready, tickTimers, counted, AxisUnit.tick_bits, Function.comp_def]
    · simp [ready, tick_of_not_ready, AxisUnit.tick_bits]

end Sys2Proof.Machine
end

section
/-! PROOFS. The links (R186 to R194, R201): a request row by its link's state and its checks, a frame by the link unit's
checks, the write and the read period, a fault report. -/
namespace Sys2Proof.Machine
open Sys2Proof.Safety

/-! ### A request row and its owner -/

@[simp] theorem State.modLink_id (s : State) (l : Link) : s.modLink l (fun x => x) = s := by
  cases l <;> rfl

/-- An owner that answers and goes on with F, whatever stands on its link: it goes on from the answered state. -/
theorem serve_goes {s u : State} {l : Link} {c : Instr} {k : Code} {p : Payload} {f : State → State} (F : State → State)
    (taken : Takes s l c) (checked : linkCheck l c = none) (link_kept : u.links.get l = s.links.get l)
    (acts : ∀ g, f (s.modLink l g) = F ((u.modLink l g).respond l k p)) : serve l c f s = F (answered u l k p) :=
  serve_answers taken checked link_kept (by simpa only [State.modLink_id] using acts fun x => x) (acts _)

/-- An owner that answers with the state otherwise unchanged. -/
theorem serve_reads {s : State} {l : Link} {c : Instr} {k : Code} {p : Payload} {f : State → State}
    (taken : Takes s l c) (checked : linkCheck l c = none)
    (acts : ∀ g, f (s.modLink l g) = (s.modLink l g).respond l k p) : serve l c f s = answered s l k p :=
  serve_goes id taken checked rfl acts

/-- A request row is served by its owner. -/
theorem exec_of_linkOf {c : Instr} {l : Link} (row : linkOf c = some l) :
    ∃ owner, ∀ s, exec c s = .next (serve l c owner s) := by
  cases c <;> cases row <;> exact ⟨_, fun _ => rfl⟩

/-- Settles O13: the cases of `serve` in which the owner does not act. -/
theorem requestByLinkState : Obligations.RequestByLinkState := by
  intro c l s row
  obtain ⟨owner, served⟩ := exec_of_linkOf row
  refine ⟨fun retry => ?_, fun pending other => ?_, fun code can_take refused => ?_⟩
  · exact (served s).trans (congrArg _ (serve_retry retry owner))
  · exact (served s).trans (congrArg _ (serve_overrun pending other owner))
  · exact (served s).trans (congrArg _ ((serve_refused can_take refused owner).trans (respond_take can_take _ _)))

/-! ### Permissions -/

theorem Link.arm?_isSome (l : Link) : l.arm?.isSome = true ↔ l ≠ .S := by cases l <;> simp [Link.arm?]

theorem Link.arm?_eq_none (l : Link) : l.arm? = none ↔ l = .S := by cases l <;> simp [Link.arm?]

/-- QUALIFY is refused to an arm's link that names the other arm (R192). -/
theorem permitted_qualify (l : Link) (e : QualifyEntry) :
    permitted l (.qualify l e) = false ↔ ∃ a b : Arm, l.arm? = some a ∧ e.arm = some b ∧ a ≠ b := by
  have rule : permitted l (.qualify l e)
      = match l.arm?, e.arm with
        | some own, some named => decide (own = named)
        | _, _ => true := rfl
  rw [rule]
  cases own : l.arm? <;> cases named : e.arm <;> simp

/-- Settles O14: row by row, the class of its command. -/
theorem linkPermissions : Obligations.LinkPermissions := by
  intro l c row
  cases c
  case qualify k e =>
    cases row
    exact ⟨0x1C, rfl, by decide, by simp, by simp, by simp, by simp, fun _ => ⟨e, rfl, permitted_qualify _ e⟩⟩
  all_goals
    cases row <;> refine ⟨_, rfl, by decide, ?_, ?_, ?_, ?_, ?_⟩ <;>
      simp [permitted, commandClass, Link.arm?_isSome, Link.arm?_eq_none]

/-! ### Frames -/

/-- The codes of the table (R193). -/
theorem decodeRequest_isSome (l : Link) (code : Nat) (p : List Byte) : (decodeRequest l code p).isSome = true
    ↔ (0x10 ≤ code ∧ code ≤ 0x1E) ∨ (0x40 ≤ code ∧ code ≤ 0x49) ∨ (0x60 ≤ code ∧ code ≤ 0x75) := by
  unfold decodeRequest
  split <;> simp
  grind

/-- A decoded command carries its code and its link. -/
theorem decodeRequest_some {l : Link} {code : Nat} {p : List Byte} {c : Instr} (decoded : decodeRequest l code p = some c) :
    codeOf c = some code ∧ linkOf c = some l := by
  unfold decodeRequest at decoded
  split at decoded <;> cases decoded <;> exact ⟨rfl, rfl⟩

theorem assigned_iff (l : Link) (code : Nat) (p : List Byte) :
    assigned code = true ↔ (decodeRequest l code p).isSome = true :=
  (decodeRequest_isSome .S code []).trans (decodeRequest_isSome l code p).symm

/-- The lengths of the table (R193), code by code. -/
theorem payloadLengthOk_iff (l : Link) {code : Nat} (known : assigned code = true) (n : Nat) :
    payloadLengthOk l code n = true ↔ n ∈ lengthsOf l code := by
  have scan : n ∈ (List.range 33).map (· + 3) ↔ 3 ≤ n ∧ n ≤ 35 := by
    simp only [List.mem_map, List.mem_range]
    exact ⟨by rintro ⟨k, h, rfl⟩; omega, fun h => ⟨n - 3, by omega, by omega⟩⟩
  have every : ∀ c ∈ List.range' 16 15 ++ List.range' 64 10 ++ List.range' 96 22,
      (payloadLengthOk l c n = true ↔ n ∈ lengthsOf l c) := by
    simp only [List.range', List.cons_append, List.nil_append, List.forall_mem_cons]
    and_intros <;> cases l <;> simp [payloadLengthOk, lengthsOf, Link.arm?, scan, or_assoc]
  have range := (decodeRequest_isSome .S code []).1 known
  refine every code ?_
  simp only [List.mem_append, List.mem_range'_1]
  omega

theorem wholeFrame_iff (bytes : List Byte) :
    wholeFrame bytes = true ↔ 2 ≤ bytes.length ∧ u8At bytes 1 ≤ 240 ∧ bytes.length = 2 + u8At bytes 1 := by
  simp only [wholeFrame, Bool.and_eq_true, decide_eq_true_eq, and_assoc]

/-- The model's field of bytes is the statement's. -/
theorem uAt_eq_field (bs : List Byte) (n : Nat) : ∀ i, uAt bs i n = field bs i n := by
  induction n with
  | zero => intro i; rfl
  | succ n ih => intro i; rw [uAt, field, ih]; rfl

/-- A request with an unassigned code, by link state. -/
theorem unassigned_eq {code : Byte} (free : freeCode code = true) (l : Link) (s : State) :
    unassigned l code s = (s.arrive l (some .badCommand)).1 := by
  obtain ⟨not_assigned, not_zero⟩ := by simpa only [freeCode, Bool.and_eq_true, Bool.not_eq_true', decide_eq_true_eq] using free
  simp [unassigned, not_assigned, not_zero]

/-- Settles O12: the table of codes, the checks of `frameCheck` in order, an unassigned code by `arrive`, and the bits from
`noticeBit`. -/
theorem frameChecks : Obligations.FrameChecks := by
  refine ⟨fun l bytes => ⟨decodeRequest_isSome .S _ [], fun n known => payloadLengthOk_iff l known n, fun unknown => ?_,
    fun known short => ?_, fun known => ?_⟩, fun l code s free => ⟨fun retry => ?_, fun pending => ?_, fun can_take => ?_⟩,
    noticeBit, noticeBit_lt, fun _ _ => noticeBit_injective, fun payload i k => ?_⟩
  · have none_decoded : decodeRequest l (u8At bytes 0) (bytes.drop 2) = none := by
      rw [← Option.not_isSome_iff_eq_none, ← assigned_iff, unknown]; exact Bool.false_ne_true
    simp only [frameCheck, none_decoded]
  · obtain ⟨c, decoded⟩ := Option.isSome_iff_exists.1 ((assigned_iff l _ (bytes.drop 2)).1 known)
    rw [← wholeFrame_iff, Bool.not_eq_true] at short
    have refused : (!wholeFrame bytes || !payloadLengthOk l (u8At bytes 0) (bytes.length - 2)) = true := by
      rcases short with h | h <;> simp [h]
    simp only [frameCheck, decoded, refused, if_true]
  · obtain ⟨c, decoded⟩ := Option.isSome_iff_exists.1 ((assigned_iff l _ (bytes.drop 2)).1 known)
    refine ⟨c, decoded, (decodeRequest_some decoded).1, (decodeRequest_some decoded).2, fun whole fits => ?_⟩
    rw [← wholeFrame_iff] at whole
    cases may : permitted l c <;> simp [frameCheck, decoded, whole, fits, may]
  · exact congrArg Host.Outcome.next ((unassigned_eq free l s).trans (by rw [arrive_retry retry]))
  · exact congrArg Host.Outcome.next ((unassigned_eq free l s).trans (by rw [arrive_pending pending]))
  · exact congrArg Host.Outcome.next
      ((unassigned_eq free l s).trans (by rw [arrive_refused can_take]; exact respond_take can_take _ _))
  · simp only [maskAt, List.mem_filter, mem_allNotices, true_and, uAt_eq_field]

/-! ### Write and read periods -/

/-- A write period with a first byte other than 0x00: the state byte goes out, and the frame is judged. -/
theorem writePeriodEnd_cons {l : Link} {b : Byte} {rest : List Byte} {s s0 : State} (nonzero : b ≠ 0#8)
    (sent : s0 = s.modLink l fun x => { x with dataOut := stateByte x :: rest.map fun _ => 0#8 }) :
    writePeriodEnd l (b :: rest) s
      = match frameCheck l (b :: rest) with
        | .error code => (s0.arrive l (some code)).1
        | .ok c =>
          let r := s0.arrive l none
          if r.2 then r.1.modLink l fun x => { x with buffer := (b :: rest).take 242, request := some c } else r.1 := by
  subst sent
  simp only [writePeriodEnd, if_neg nonzero]
  rfl

/-- Two changes of one link in turn. -/
theorem State.modLink_modLink (s : State) (l : Link) (f g : LinkState → LinkState) :
    (s.modLink l f).modLink l g = s.modLink l fun x => g (f x) := by
  simp only [State.modLink, PerLink.get_set, PerLink.set_set]

/-- Settles O11: the link state decides whether the frame is looked at, its checks whether it is answered. -/
theorem writePeriodJudged : Obligations.WritePeriodJudged := by
  intro l b rest s nonzero sent s0
  have phase_kept : (s0.links.get l).phase = (s.links.get l).phase := by
    simp only [s0, State.modLink_links, PerLink.get_set]
  have exec_eq (t : State) : writePeriodEnd l (b :: rest) s = t → Goes (.writePeriod l (b :: rest)) s t :=
    congrArg Host.Outcome.next
  refine ⟨fun retry => exec_eq _ ?_, fun pending => exec_eq _ ?_, fun can_take =>
    ⟨fun code refused => exec_eq _ ?_, fun c passed => exec_eq _ ?_⟩⟩
  all_goals rw [writePeriodEnd_cons nonzero (rfl : s0 = _)]
  · have discarded (k) : s0.arrive l k = (s0, false) := arrive_retry (phase_kept.trans retry) k
    cases frameCheck l (b :: rest) <;> simp only [discarded] <;> rfl
  · have overrun (k) : s0.arrive l k = (s0.modLink l fun x => { x with overrun := true }, false) :=
      arrive_pending (phase_kept.trans pending) k
    cases frameCheck l (b :: rest) <;> simp only [overrun, Bool.false_eq_true, if_false] <;>
      exact State.modLink_modLink _ _ _ _
  · have can_take0 : (s0.links.get l).phase = .idle ∨ (s0.links.get l).phase = .ready := by rwa [phase_kept]
    simp only [refused, arrive_refused can_take0]
    exact respond_take can_take0 _ _
  · have can_take0 : (s0.links.get l).phase = .idle ∨ (s0.links.get l).phase = .ready := by rwa [phase_kept]
    simp only [passed, arrive_open can_take0, if_true]
    exact (State.modLink_modLink _ _ _ _).trans (State.modLink_modLink _ _ _ _)

theorem bytesLE_one (v : Nat) : bytesLE 1 v = [BitVec.ofNat 8 v] := by
  rw [bytesLE_succ]; rfl

theorem bytesLE_two (v : Nat) : bytesLE 2 v = [BitVec.ofNat 8 v, BitVec.ofNat 8 (v / 256)] := by
  rw [bytesLE_succ, bytesLE_one]

/-- What a period of n bytes sends of these: their first n, or all of them and then zeros (R186). -/
def padded (n : Nat) (bs : List Byte) : List Byte := (bs ++ List.replicate (n - bs.length) 0#8).take n

theorem LinkState.read_of_not_ready {x : LinkState} {n : Nat} (some_bytes : 0 < n) (other : x.phase ≠ .ready) :
    x.read n = { x with dataOut := padded n [stateByte x] } := by
  have not_whole : x.readWhole n = false := by
    unfold LinkState.readWhole
    split
    next ready _ => exact absurd ready other
    next => rfl
  simp [LinkState.read, Nat.ne_of_gt some_bytes, not_whole, readOut, padded, other]

theorem LinkState.readOut_of_ready {x : LinkState} {r : Response} (ready : x.phase = .ready) (holds : x.response = some r)
    (n : Nat) : x.readOut n = padded n (stateByte x :: r.bytes) := by
  simp only [readOut, padded, ready, holds, if_true, Option.map_some, Option.getD_some]

theorem LinkState.readWhole_of_ready {x : LinkState} {r : Response} (ready : x.phase = .ready) (holds : x.response = some r)
    (n : Nat) : x.readWhole n = true ↔ 1 + r.bytes.length ≤ n := by
  simp only [readWhole, ready, holds, decide_eq_true_eq]

theorem LinkState.read_of_short {x : LinkState} {r : Response} {n : Nat} (ready : x.phase = .ready)
    (holds : x.response = some r) (some_bytes : 0 < n) (short : n < 1 + r.bytes.length) :
    x.read n = { x with dataOut := padded n (stateByte x :: r.bytes) } := by
  have not_whole : ¬ x.readWhole n = true := by rw [readWhole_of_ready ready holds]; omega
  rw [LinkState.read, if_neg (Nat.ne_of_gt some_bytes), if_neg not_whole, readOut_of_ready ready holds]

theorem LinkState.read_of_whole {x : LinkState} {r : Response} {n : Nat} (ready : x.phase = .ready)
    (holds : x.response = some r) (whole : 1 + r.bytes.length ≤ n) :
    x.read n = { x with
      dataOut := padded n (stateByte x :: r.bytes), phase := .idle, response := none, buffer := [], request := none,
      overrun := false } := by
  have some_bytes : n ≠ 0 := by omega
  rw [LinkState.read, if_neg some_bytes, if_pos ((readWhole_of_ready ready holds n).2 whole), readOut_of_ready ready holds]

/-- A read period changes its link alone. -/
theorem exec_readPeriod {l : Link} {n : Nat} {s : State} {f : LinkState → LinkState}
    (h : (s.links.get l).read n = f (s.links.get l)) : Goes (.readPeriod l n) s (s.modLink l f) :=
  congrArg Host.Outcome.next (show s.modLink l (LinkState.read n) = s.modLink l f by simp only [State.modLink, h])

theorem stateByte_toNat (y : LinkState) : (stateByte y).toNat = (match y.phase with
      | .idle => 0
      | .pending => 1
      | .ready => 2
      | .retry => 3) + (if y.attn then 4 else 0) + (if y.overrun then 8 else 0) := by
  unfold stateByte
  cases y.phase <;> cases y.attn <;> cases y.overrun <;> rfl

/-- Settles O15: what the link sends by its state and the number of bytes, and the layout of a response. -/
theorem readPeriod : Obligations.ReadPeriod := by
  intro l n s x sent
  refine ⟨fun nothing => ?_, fun some_bytes other => ?_, fun r ready holds some_bytes short => ?_,
    fun r ready holds whole => ?_, fun r few => ?_, stateByte_toNat⟩
  · have same := exec_readPeriod (l := l) (n := n) (s := s) (f := fun x => x) (by simp [LinkState.read, nothing])
    rwa [State.modLink_id] at same
  · exact exec_readPeriod (LinkState.read_of_not_ready some_bytes other)
  · exact exec_readPeriod (LinkState.read_of_short ready holds some_bytes short)
  · exact exec_readPeriod (LinkState.read_of_whole ready holds whole)
  · have short := Payload.bytes_length r.payload few
    refine ⟨BitVec.ofNat 8 r.payload.bytes.length, BitVec.ofNat 8 (r.payload.bytes.length / 256), ?_, ?_, short⟩
    · rw [Response.bytes, bytesLE_one, bytesLE_two]; rfl
    · simp only [BitVec.toNat_ofNat]; omega

/-! ### A fault report -/

theorem State.report_of_full_trap {s : State} {t : TrapRecord} (full : s.trap = some t) (r : FaultReport) :
    s.report r = { s with faultCount := min (s.faultCount + 1) 65535 } := by
  simp only [State.report, full]

/-- Settles O18: by the two states of the trap. -/
theorem faultReported : Obligations.FaultReported := fun _ r =>
  ⟨fun empty => State.report_of_empty_trap empty r, fun _ full => State.report_of_full_trap full r⟩

/-! ### The reads -/

theorem index?_of_lt {n i : Nat} (h : i < n) : index? n i = some ⟨i, h⟩ := dif_pos h

theorem index?_of_le {n i : Nat} (h : n ≤ i) : index? n i = none := dif_neg (Nat.not_lt.2 h)

/-- Settles O19: each owner answers from fields that no link change touches. -/
theorem recordReads : Obligations.RecordReads := by
  refine fun l n a s => ⟨fun taken => ⟨fun above => ?_, fun h => ?_⟩, fun taken => ⟨fun above => ?_, fun h => ?_⟩,
    fun taken => ⟨fun above => ?_, fun h => ?_⟩, State.mount_spec s a, fun taken => ⟨fun above => ?_, fun h => ?_⟩,
    fun taken => ?_, fun taken => ?_, fun taken => ?_, fun taken => ?_⟩
  all_goals refine congrArg Host.Outcome.next (serve_reads taken rfl fun g => ?_)
  · simp only [readZone, index?_of_le above]
  · simp only [readZone, index?_of_lt h]; rfl
  · simp only [readProbe, index?_of_le above]
  · simp only [readProbe, index?_of_lt h]; rfl
  · simp only [readPocket, index?_of_le above]
  · simp only [readPocket, index?_of_lt h]; rfl
  · simp only [readChannel, index?_of_le above]
  · simp only [readChannel, index?_of_lt h]; rfl
  · rfl
  · rfl
  · rfl
  · cases save : s.save <;> simp only [identify, State.modLink_save, save] <;> rfl

end Sys2Proof.Machine
end

section
/-! PROOFS. ARM STATUS (R16, R17, R53, R70, R99, R106, R123, R137, R165, R168, R184): each block's view of its fields. -/
namespace Sys2Proof.Machine
open Sys2Proof.Safety
variable (s : State) (a : Arm)

/-! ### Motion and position -/

theorem motionView_queue_heads : (s.motionView a).queue.map (fun x => (x.1, x.2.1))
    = (s.motion.get a).queue.map (fun x => (x.tag, x.move.kind)) := by
  have heads (xs : List Segment) (k : Nat) :
      (xs.zipIdx k).map (fun x => (x.1.tag, x.1.move.kind)) = xs.map fun x => (x.tag, x.move.kind) := by
    induction xs generalizing k with
    | nil => rfl
    | cons x xs ih => rw [List.zipIdx_cons, List.map_cons, List.map_cons, ih]
  simp only [State.motionView, List.map_map, Function.comp_def, heads]

variable {s a} in
/-- The head of the queue is WAITING while the arm is; every other queued segment is QUEUED (R99). -/
theorem motionView_queue_waits {i : Nat} {x : Nat × SegKind × Bool} (at_i : (s.motionView a).queue[i]? = some x) :
    x.2.2 = true ↔ i = 0 ∧ ∃ r, (s.motion.get a).phase = .waiting r := by
  simp only [State.motionView, List.getElem?_map, List.getElem?_zipIdx, Option.map_map, Option.map_eq_some_iff] at at_i
  obtain ⟨seg, -, rfl⟩ := at_i
  cases (s.motion.get a).phase <;> simp

theorem positionExact_get (i : Axis) : (s.positionExact a).get i
    = ((s.cal.get a).axis.get i).base + ((s.cal.get a).axis.get i).sign * (((s.axes.get a).axis.get i).count
      + roundDiv (((s.axes.get a).axis.get i).count * ((s.cal.get a).axis.get i).alpha
        * ((s.snapshot.groups.scale.get a).get i).temp) 1000000000000) := by
  simp only [State.positionExact, forwardExact, PerAxis.get_of, AxisUnit.counts, PerAxis.get_map]
  rfl

theorem positionView_position (i : Axis) : (s.positionView a).position.get i
    = max (-2147483648) (min ((s.positionExact a).get i) 2147483647) := by
  rw [State.positionView, State.position, PerAxis.get_map, clamp32_eq]

theorem positionView_clamped : (s.positionView a).clamped = true
    ↔ ∃ i, (s.positionExact a).get i < -2147483648 ∨ 2147483647 < (s.positionExact a).get i := by
  simp only [State.positionView, PerAxis.any_iff, out32_iff]

theorem axisView_faultReason (r : FaultReason) :
    (s.axisView a).faultReason = some r ↔ (s.motion.get a).phase = .fault r := by
  cases phase : (s.motion.get a).phase <;> simp [State.axisView, phase]

/-! ### Zones -/

theorem holds_iff (z : ZoneId) : s.holds a z = true ↔ ∃ r, s.holders.get z = some (a, r) := by
  simp only [State.holds, Option.any_eq_true, decide_eq_true_eq]
  exact ⟨fun ⟨⟨_, r⟩, held, own⟩ => ⟨r, own ▸ held⟩, fun ⟨r, held⟩ => ⟨_, held, rfl⟩⟩

theorem zoneView_held (z : ZoneId) (r : HoldWhy) :
    (z, r) ∈ (s.zoneView a).held ↔ s.holders.get z = some (a, r) := by
  simp only [State.zoneView, List.mem_filterMap, mem_allZones, true_and]
  constructor
  · rintro ⟨y, shown⟩
    split at shown
    next b w held =>
      split at shown
      next own => cases shown; rw [held, own]
      next => cases shown
    next => cases shown
  · intro held
    exact ⟨z, by simp [held]⟩

theorem zoneView_contested (z : ZoneId) :
    z ∈ (s.zoneView a).contested ↔ z ∈ s.standing.get a ∧ ∀ r, s.holders.get z ≠ some (a, r) := by
  simp only [State.zoneView, List.mem_filter, Bool.not_eq_true', ← Bool.not_eq_true, holds_iff, not_exists]

variable {s a}

theorem entry_of_head {w : Waiter} {rest : List Waiter} (list : s.waiters = w :: rest) (own : w.arm = a) :
    s.entry a = some w := by
  simp [State.entry, list, own]

theorem entry_of_second {w x : Waiter} {rest : List Waiter} (list : s.waiters = w :: x :: rest) (other : w.arm ≠ a)
    (own : x.arm = a) : s.entry a = some x := by
  simp [State.entry, list, other, own]

theorem entry_eq_none_iff : s.entry a = none ↔ ∀ w ∈ s.waiters, w.arm ≠ a := by
  simp only [State.entry, List.find?_eq_none, decide_eq_true_eq, ne_eq]

theorem zoneView_waiter_of_older {w : Waiter} {rest : List Waiter} (list : s.waiters = w :: rest) (own : w.arm = a) :
    (s.zoneView a).waiter = some (w.purpose, w.needed, false) := by
  simp [State.zoneView, entry_of_head list own, list]

/-- The other arm's entry stands before it (R123). -/
theorem zoneView_waiter_of_newer {w x : Waiter} {rest : List Waiter} (list : s.waiters = w :: x :: rest)
    (other : w.arm ≠ a) (own : x.arm = a) : (s.zoneView a).waiter = some (x.purpose, x.needed, true) := by
  have apart : w ≠ x := fun e => other (e ▸ own)
  simp [State.zoneView, entry_of_second list other own, list, apart]

/-! ### The change and the trigger -/

/-- The deadline of a context past WAIT_RACK is that of the timer that runs (R145). -/
theorem deadline_eq {c : Context} (past : c.step ≠ .waitRack) : s.deadline c
    = match s.rack.stepTimer with
      | some t => some (timerLeft t)
      | none => s.rack.rackTimer.map timerLeft := if_neg past

theorem changeView_qualification_none (not_record : ∀ n, s.mount a ≠ .record n) :
    (s.changeView a).qualification = none := by
  unfold State.changeView
  cases mount : s.mount a with
  | record n => exact absurd mount (not_record n)
  | unknown => rfl
  | none => rfl

theorem changeView_qualification {n : Slot} {p : Probe} (mount : s.mount a = .record n) (record : s.probes.get n = some p) :
    (s.changeView a).qualification = some (s.qualStatus a p) := by
  simp only [State.changeView, mount, record, Option.map_some]

theorem denOf_iff (p : Phase) : denOf p = true ↔ p ≠ .off ∧ ∀ r, p ≠ .fault r := by
  cases p <;> simp [denOf]

/-- Whether the trigger is masked: the change is in a step that moves the module, or the segment is a RACK one (R168). -/
def Masked (s : State) (a : Arm) : Prop :=
  (∃ c, s.change.get a = some c
      ∧ (c.step = .awaitDrop ∨ c.step = .awaitPick ∨ c.step = .failedOpen ∨ c.step = .closing))
    ∨ ∃ w, (s.motion.get a).active = some w ∧ w.seg.move.kind = .rack

/-- Whether the active segment is a PROBE not yet stopped (R168). -/
def Probing (s : State) (a : Arm) : Prop :=
  ∃ w, (s.motion.get a).active = some w ∧ w.seg.move.kind = .probe ∧ w.status = .active

/-- Whether the arm is in COLLISION or in a stop ramp after a touch or a contact (R168). -/
def Settled (s : State) (a : Arm) : Prop :=
  (s.motion.get a).phase = .collision ∨ ∃ w o, (s.motion.get a).active = some w
    ∧ w.status = .stopping o ∧ (o = .touched ∨ o = .contact)

open Classical in
/-- The trigger arming state by R168's table, its rows in order. -/
theorem arming_eq (s : State) (a : Arm) : s.arming a
    = if ¬ denOf (s.motion.get a).phase = true then .ignored
      else if Masked s a then .masked
      else if Settled s a then .ignored
      else if Probing s a then .touch
      else .contact := by
  have masked : Masked s a ↔ ((s.change.get a).any (fun c => decide (c.step = .awaitDrop) || decide (c.step = .awaitPick)
      || decide (c.step = .failedOpen) || decide (c.step = .closing))
      || (s.motion.get a).active.any (fun w => decide (w.seg.move.kind = .rack))) = true := by
    simp only [Masked, Bool.or_eq_true, Option.any_eq_true, decide_eq_true_eq, or_assoc]
  have probing : Probing s a ↔ (s.motion.get a).active.any
      (fun w => decide (w.seg.move.kind = .probe) && decide (w.status = .active)) = true := by
    simp only [Probing, Bool.and_eq_true, Option.any_eq_true, decide_eq_true_eq]
  have settled : Settled s a ↔ (s.motion.get a).phase = .collision ∨ (s.motion.get a).active.any
      (fun w => decide (w.status = .stopping .touched) || decide (w.status = .stopping .contact)) = true := by
    simp only [Settled, Bool.or_eq_true, Option.any_eq_true, decide_eq_true_eq]
    refine or_congr_right ⟨?_, ?_⟩
    · rintro ⟨w, o, active, ramp, rfl | rfl⟩
      · exact ⟨w, active, .inl ramp⟩
      · exact ⟨w, active, .inr ramp⟩
    · rintro ⟨w, active, ramp | ramp⟩
      · exact ⟨w, _, active, ramp, .inl rfl⟩
      · exact ⟨w, _, active, ramp, .inr rfl⟩
  have apart : Probing s a → ¬ (s.motion.get a).active.any
      (fun w => decide (w.status = .stopping .touched) || decide (w.status = .stopping .contact)) = true := by
    rintro ⟨w, active, -, running⟩
    simp [active, running]
  rw [State.arming]
  simp only [← masked, ← probing, Bool.not_eq_true', ← Bool.not_eq_true]
  by_cases rack : Masked s a <;> by_cases probe : Probing s a <;>
    by_cases collision : (s.motion.get a).phase = .collision <;> simp_all

/-! ### The answer -/

/-- Settles O20: the answer is the state's own view, field by field. -/
theorem armStatusFields : Obligations.ArmStatusFields := by
  refine fun l a s => ⟨fun taken => ?_, fun taken => ⟨s.armStatus a, ?_, rfl, rfl, ?_, motionView_queue_heads s a,
    fun i x => motionView_queue_waits, rfl, rfl, rfl, rfl, fun i => ?_, fun i => ⟨?_, ?_⟩, ?_, rfl, PerAxis.any_iff _ _, rfl,
    fun i => ⟨?_, ?_, ?_⟩, rfl, rfl, rfl, axisView_faultReason s a, s.reach_spec a, rfl, zoneView_held s a,
    zoneView_contested s a, fun _ _ => zoneView_waiter_of_older, fun _ _ _ => zoneView_waiter_of_newer,
    fun none_waits => ?_, rfl, rfl, fun no_change => ?_, fun c change => ?_, rfl, changeView_qualification_none,
    fun n p mount record => ?_, rfl, rfl, rfl, rfl, rfl, ?_⟩⟩
  · exact congrArg Host.Outcome.next (serve_reads taken rfl fun g => rfl)
  · exact congrArg Host.Outcome.next (serve_reads taken rfl fun g => rfl)
  · simp [State.armStatus, State.motionView]
  · exact (positionView_position s a i).trans (by rw [positionExact_get])
  · exact PerAxis.get_map ..
  · exact PerAxis.get_map ..
  · simp only [← positionExact_get]; exact positionView_clamped s a
  · exact PerAxis.get_map ..
  · exact PerAxis.get_map ..
  · exact PerAxis.get_map ..
  · simp only [State.armStatus, State.zoneView, entry_eq_none_iff.2 none_waits, Option.map_none]
  · simp only [State.armStatus, State.changeView, no_change, Option.map_none]
  · refine ⟨s.deadline c, ?_, fun waits => if_pos waits, fun t past runs => ?_, fun past none_runs => ?_⟩
    · simp only [State.armStatus, State.changeView, change, Option.map_some]
    · simp only [deadline_eq past, runs]; rfl
    · simp only [deadline_eq past, none_runs]; rfl
  · have judged := changeView_qualification mount record
    refine ⟨fun unqualified => ?_, fun q entry => ?_⟩
    · rw [State.qualStatus, unqualified] at judged; exact judged
    · rw [State.qualStatus, entry] at judged; exact judged
  · have arming : (s.armStatus a).capture.arming = s.arming a := rfl
    simp only [← denOf_iff, arming, arming_eq]
    refine ⟨fun unpowered => ?_, fun powered masked => ?_, fun powered free settled => ?_,
      fun powered free moving probing => ?_, fun powered free moving other => ?_, rfl, rfl, rfl, rfl, rfl⟩
    · rw [if_pos unpowered]
    · rw [if_neg (Classical.not_not.2 powered)]; exact if_pos masked
    · rw [if_neg (Classical.not_not.2 powered)]; exact (if_neg free).trans (if_pos settled)
    · rw [if_neg (Classical.not_not.2 powered)]; exact (if_neg free).trans ((if_neg moving).trans (if_pos probing))
    · rw [if_neg (Classical.not_not.2 powered)]; exact (if_neg free).trans ((if_neg moving).trans (if_neg other))

end Sys2Proof.Machine
end

section
/-! PROOFS. The thermal unit (R20 to R39): conversions and their stages, the end of a pass, means and filter steps, the scan
timer, and the writes of the workpiece record, the channels and the scan list. -/
namespace Sys2Proof.Machine
open Sys2Proof.Safety

/-! ### One conversion -/

theorem Channel.faulty_iff (c : Channel) (code : Nat) : c.faulty code = true ↔ code < c.low ∨ c.high < code := by
  simp only [faulty, Bool.or_eq_true, decide_eq_true_eq]

theorem Channel.convert_of_unused {c : Channel} (unused : c.role = .unused) (code : Nat) :
    c.convert code = (c, false) := if_pos unused

theorem Channel.convert_of_faulty {c : Channel} {code : Nat} (used : c.role ≠ .unused)
    (faulty : code < c.low ∨ c.high < code) : c.convert code = { c with lastRaw := code }.takeFaulty :=
  (if_neg used).trans (if_pos ((Channel.faulty_iff { c with lastRaw := code } code).2 faulty))

theorem Channel.convert_of_good {c : Channel} {code : Nat} (used : c.role ≠ .unused)
    (good : ¬ (code < c.low ∨ c.high < code)) :
    c.convert code = { c with lastRaw := code }.takeGood (c.scaled code) :=
  (if_neg used).trans (if_neg (mt (Channel.faulty_iff { c with lastRaw := code } code).1 good))

/-- A run too short, or a channel that is FAULT already, changes no channel state (R23). -/
theorem Channel.takeFaulty_counts {c : Channel} (h : min (c.run + 1) 15 < c.persistence ∨ c.state = .fault) :
    c.takeFaulty = ({ c with run := min (c.run + 1) 15 }, false) := by
  rcases h with short | fault
  · unfold takeFaulty
    have not_reached : ¬ c.persistence ≤ min (c.run + 1) 15 := Nat.not_le.2 short
    split <;> simp only [if_neg not_reached]
  · simp only [takeFaulty, fault]

theorem Channel.takeFaulty_faults {c : Channel} (reached : c.persistence ≤ min (c.run + 1) 15)
    (h : c.state = .warming ∨ c.state = .valid) :
    c.takeFaulty = ({ c with run := min (c.run + 1) 15, state := .fault }, true) := by
  rcases h with state | state <;> simp only [takeFaulty, state, if_pos reached]

section
variable {c : Channel}

theorem Channel.takeGood_valid (state : c.state = .valid) (t : Int) :
    c.takeGood t = ({ c with run := 0, f := filterStep c.f t c.shift }, false) := by simp only [takeGood, state]

theorem Channel.takeGood_warming (state : c.state = .warming) (t : Int) :
    c.takeGood t = ({ c with run := 0, f := t, state := .valid }, false) := by simp only [takeGood, state]

theorem Channel.takeGood_fault (state : c.state = .fault) (t : Int) :
    c.takeGood t = ({ c with run := 0, f := t, state := .valid }, true) := by simp only [takeGood, state]
end

/-- A conversion that another follows: the channel's result, the notice, and the next position. -/
theorem conversion_goes_on {code : Nat} {p : Pass} {ch : ChannelId} {s : State} (pass : s.pass = some p)
    (entry : p.copy[p.pos]? = some ch) (more : p.pos + 1 < p.copy.length) {c : Channel} {notice : Bool}
    (converted : (s.channels.get ch).convert code = (c, notice)) :
    Goes (.conversionComplete code) s
      (let t : State := { s with pass := some { p with pos := p.pos + 1 }, channels := Table.put s.channels ch c }
       if notice = true then t.raise .S .sensorFault else t) := by
  refine congrArg Host.Outcome.next ?_
  simp only [conversion, pass, entry, more, converted, if_true]
  cases notice <;> rfl

/-- Settles O22: the cases of `Channel.convert`, each followed by the next position. -/
theorem conversionStages : Obligations.ConversionStages := by
  intro code p ch s pass entry more c temp run faulty on put
  have goes (c' : Channel) (notice : Bool) (converted : c.convert code = (c', notice)) :=
    conversion_goes_on pass entry more converted
  refine ⟨fun unused => ?_, fun used fails => ⟨fun counts => ?_, fun reached state => ?_⟩, fun used good =>
    ⟨fun state => ?_, fun state => ?_, fun state => ?_⟩⟩
  · exact goes _ _ (Channel.convert_of_unused unused code)
  · exact goes _ _ ((Channel.convert_of_faulty used fails).trans (Channel.takeFaulty_counts counts))
  · exact goes _ _ ((Channel.convert_of_faulty used fails).trans (Channel.takeFaulty_faults reached state))
  · exact goes _ _ ((Channel.convert_of_good used good).trans (Channel.takeGood_valid (c := { c with lastRaw := code }) state _))
  · exact goes _ _ ((Channel.convert_of_good used good).trans (Channel.takeGood_warming (c := { c with lastRaw := code }) state _))
  · exact goes _ _ ((Channel.convert_of_good used good).trans (Channel.takeGood_fault (c := { c with lastRaw := code }) state _))

/-! ### The end of a pass -/

/-- The last conversion of a pass ends the pass. -/
theorem conversion_ends {code : Nat} {p : Pass} {ch : ChannelId} {s : State} (pass : s.pass = some p)
    (entry : p.copy[p.pos]? = some ch) (last : p.pos + 1 = p.copy.length) :
    ∃ ls : PerLink LinkState, (∀ a : Arm, ls.get a.link = s.links.get a.link)
      ∧ Goes (.conversionComplete code) s (State.passEnd { s with
          channels := Table.put s.channels ch ((s.channels.get ch).convert code).1, links := ls }) := by
  have no_more : ¬ p.pos + 1 < p.copy.length := by omega
  refine ⟨if ((s.channels.get ch).convert code).2 = true then (s.raise .S .sensorFault).links else s.links,
    fun a => ?_, congrArg Host.Outcome.next ?_⟩
  · split
    · cases a <;> rfl
    · rfl
  · simp only [conversion, pass, entry, no_more, if_false]
    split <;> rfl

theorem State.raiseThermal_flags (s : State) (old new : Snapshot) (a : Arm) :
    Notice.thermal ∈ ((s.raiseThermal old new).links.get a.link).flags
      ↔ Notice.thermal ∈ (s.links.get a.link).flags ∨ old.watched a ≠ new.watched a := by
  have own (t : State) (a : Arm) : Notice.thermal ∈ ((t.raise a.link .thermal).links.get a.link).flags := by simp
  have others (t : State) (k l : Link) (apart : l ≠ k) : (t.raise k .thermal).links.get l = t.links.get l :=
    PerLink.get_set_ne _ _ apart
  unfold State.raiseThermal
  cases a <;> dsimp only [Arm.link] at * <;> split <;> split <;>
    simp_all [others _ .A .B nofun, others _ .B .A nofun]

/-- What R39 compares for an arm. -/
theorem Snapshot.watched_ne_iff (t u : Snapshot) (a : Arm) : t.watched a ≠ u.watched a ↔
    (∃ i, ((u.groups.scale.get a).get i).stale ≠ ((t.groups.scale.get a).get i).stale)
      ∨ (u.groups.head.get a).stale ≠ (t.groups.head.get a).stale ∨ u.source ≠ t.source := by
  have scales : (t.groups.scale.get a).map (·.stale) = (u.groups.scale.get a).map (·.stale)
      ↔ ∀ i, ((u.groups.scale.get a).get i).stale = ((t.groups.scale.get a).get i).stale := by
    refine ⟨fun same i => ?_, fun same => PerAxis.ext_get fun i => ?_⟩
    · simpa using (congrArg (·.get i) same).symm
    · simpa using (same i).symm
  rw [watched, watched, ne_eq, Prod.mk.injEq, Prod.mk.injEq, scales, eq_comm (a := (t.groups.head.get a).stale),
    eq_comm (a := t.source)]
  simp only [Classical.not_and_iff_not_or_not, Classical.not_forall, ne_eq]

theorem List.foldl_max_spec (xs : List Int) (x : Int) :
    xs.foldl max x ∈ x :: xs ∧ ∀ y ∈ x :: xs, y ≤ xs.foldl max x := by
  induction xs generalizing x with
  | nil => simp
  | cons z xs ih =>
    obtain ⟨mem, above⟩ := ih (max x z)
    rw [List.foldl_cons]
    refine ⟨?_, fun y hy => ?_⟩
    · rcases List.mem_cons.1 mem with e | e
      · rw [e]; rcases Int.le_total x z with below | above
        · simp [Int.max_eq_right below]
        · simp [Int.max_eq_left above]
      · exact List.mem_cons_of_mem _ (List.mem_cons_of_mem _ e)
    · have top := above (max x z) (List.mem_cons_self ..)
      rcases List.mem_cons.1 hy with rfl | hy
      · omega
      · rcases List.mem_cons.1 hy with rfl | hy
        · omega
        · exact above y (List.mem_cons_of_mem _ hy)

theorem List.foldl_min_spec (xs : List Int) (x : Int) :
    xs.foldl min x ∈ x :: xs ∧ ∀ y ∈ x :: xs, xs.foldl min x ≤ y := by
  have mirrored (xs : List Int) (x : Int) : (xs.map (-·)).foldl max (-x) = -(xs.foldl min x) := by
    induction xs generalizing x with
    | nil => rfl
    | cons z xs ih => rw [List.map_cons, List.foldl_cons, List.foldl_cons, ← ih, show max (-x) (-z) = -(min x z) by omega]
  obtain ⟨mem, above⟩ := List.foldl_max_spec (xs.map (-·)) (-x)
  rw [mirrored] at mem above
  have neg (y : Int) : -y ∈ -x :: xs.map (-·) ↔ y ∈ x :: xs := by
    simp only [List.mem_cons, List.mem_map, Int.neg_inj, exists_eq_right]
  exact ⟨(neg _).1 mem, fun y hy => by have := above (-y) ((neg y).2 hy); omega⟩

/-- The gradient is the largest difference of two members, and 0 of fewer than two (R33). -/
theorem gradientOf_spec (xs : List Int) : (∀ x y, x ∈ xs → y ∈ xs → x - y ≤ gradientOf xs)
    ∧ (xs.length < 2 → gradientOf xs = 0) ∧ (2 ≤ xs.length → ∃ x ∈ xs, ∃ y ∈ xs, (gradientOf xs : Int) = x - y) := by
  match xs with
  | [] => simp [gradientOf]
  | [x] => simp [gradientOf]
  | x :: y :: rest =>
    obtain ⟨top, above⟩ := List.foldl_max_spec (y :: rest) x
    obtain ⟨bottom, below⟩ := List.foldl_min_spec (y :: rest) x
    have spread : ((gradientOf (x :: y :: rest) : Nat) : Int)
        = (y :: rest).foldl max x - (y :: rest).foldl min x := by
      have := above _ bottom
      rw [gradientOf]; omega
    refine ⟨fun u v hu hv => ?_, fun short => ?_, fun _ => ⟨_, top, _, bottom, spread⟩⟩
    · have := above u hu
      have := below v hv
      omega
    · simp only [List.length_cons] at short; omega

theorem State.raiseThermal_fields (s : State) (old new : Snapshot) :
    ∃ ls, s.raiseThermal old new = { s with links := ls } := by
  unfold State.raiseThermal
  dsimp only
  split <;> split <;> exact ⟨_, rfl⟩

/-- What a pass end leaves: the snapshot it forms, with its epoch raised, THERMAL where R39 asks, and no pass (R31, R38). -/
theorem State.passEnd_fields (s : State) : ∃ ls, s.passEnd = { s with
      snapshot := { s.passSnapshot with epoch := (s.snapshot.epoch + 1) % 65536 }, links := ls, pass := none }
    ∧ ∀ a : Arm, Notice.thermal ∈ (ls.get a.link).flags ↔ Notice.thermal ∈ (s.links.get a.link).flags
        ∨ s.snapshot.watched a ≠ s.passSnapshot.watched a := by
  let new : Snapshot := { s.passSnapshot with epoch := (s.snapshot.epoch + 1) % 65536 }
  obtain ⟨ls, e⟩ := State.raiseThermal_fields { s with snapshot := new } s.snapshot new
  refine ⟨ls, ?_, fun a => ?_⟩
  · rw [State.passEnd, State.publish]; dsimp only; rw [e]
  · have flags := State.raiseThermal_flags { s with snapshot := new } s.snapshot new a
    rw [e] at flags
    exact flags

theorem Group.form_eq (old : Group) (fs : List Int) : old.form fs
    = if fs = [] then { old with stale := true } else { temp := roundDiv fs.sum fs.length, stale := false } := by
  cases fs <;> rfl

theorem sourceOf_eq (g : Groups) (held : Int) : sourceOf g held
    = if g.workpiece.stale = false then (.workpiece, g.workpiece.temp)
      else if g.air.stale = false then (.air, g.air.temp) else (.held, held) := by
  cases wp : g.workpiece.stale <;> cases air : g.air.stale <;> simp [sourceOf, wp, air]

/-- Settles O23: the snapshot's formulas by definition, the gradient by `gradientOf_spec`, THERMAL by `passEnd_fields`. -/
theorem passEnds : Obligations.PassEnds := by
  intro code p ch s pass entry last cs valid mean
  obtain ⟨ls, arm_links, goes⟩ := conversion_ends pass entry last
  obtain ⟨ls', ended, thermal⟩ := State.passEnd_fields { s with channels := cs, links := ls }
  rw [show State.passEnd _ = _ from ended] at goes
  obtain ⟨spread, few, attained⟩ := gradientOf_spec (valid .workpiece)
  refine ⟨_, goes, rfl, rfl, rfl, fun a i => ?_, fun a => ?_, Group.form_eq _ _, Group.form_eq _ _, spread, few, attained,
    decide_eq_true_iff, ?_, rfl, fun a => ?_, rfl, rfl, rfl, rfl, rfl, rfl, rfl⟩
  · cases a <;> cases i <;> exact Group.form_eq _ _
  · cases a <;> exact Group.form_eq _ _
  · exact (sourceOf_eq _ _)
  · have same := thermal a
    rw [Snapshot.watched_ne_iff] at same
    rw [show (ls.get a.link) = s.links.get a.link from arm_links a] at same
    exact same

/-! ### Means and filters -/

/-- The multiple of a natural that `roundDiv` picks is no farther than half of it, so it passes no multiple that x has not
passed. -/
theorem le_roundDiv {x q : Int} {n : Nat} (pos : 0 < n) (h : q * n ≤ x) : q ≤ roundDiv x n := by
  have near := (roundDiv_nearest x (y := n) (by omega)).1
  refine Classical.byContradiction fun below => ?_
  have step : roundDiv x n * n ≤ q * n - n := calc
    roundDiv x n * n ≤ (q - 1) * n := Int.mul_le_mul_of_nonneg_right (by omega) (by omega)
    _ = q * n - n := by rw [Int.sub_mul, Int.one_mul]
  rw [Int.natAbs_natCast] at near
  omega

theorem roundDiv_le {x q : Int} {n : Nat} (pos : 0 < n) (h : x ≤ q * n) : roundDiv x n ≤ q := by
  have mirrored := le_roundDiv (x := -x) (q := -q) pos (by rw [Int.neg_mul]; omega)
  rw [roundDiv_neg_left] at mirrored
  omega

theorem List.sum_bounds {lo hi : Int} : ∀ {fs : List Int}, (∀ f ∈ fs, lo ≤ f ∧ f ≤ hi) →
    lo * fs.length ≤ fs.sum ∧ fs.sum ≤ hi * fs.length
  | [], _ => by simp
  | f :: fs, within => by
    obtain ⟨low, high⟩ := within f (List.mem_cons_self ..)
    obtain ⟨sum_low, sum_high⟩ := List.sum_bounds fun g hg => within g (List.mem_cons_of_mem _ hg)
    rw [List.sum_cons, List.length_cons]
    push_cast
    rw [Int.mul_add, Int.mul_add]
    omega

/-- A truncated quotient lies between 0 and its dividend. -/
theorem truncDiv_between (x : Int) (m : Nat) :
    (0 ≤ x → 0 ≤ truncDiv x m ∧ truncDiv x m ≤ x) ∧ (x ≤ 0 → x ≤ truncDiv x m ∧ truncDiv x m ≤ 0) := by
  have nat (a : Nat) : 0 ≤ truncDiv (a : Int) m ∧ truncDiv (a : Int) m ≤ a := by
    rw [truncDiv, ← Int.ofNat_tdiv]
    exact ⟨Int.natCast_nonneg _, Int.ofNat_le.2 (Nat.div_le_self a m)⟩
  have neg (y : Int) : truncDiv (-y) m = -truncDiv y m := Int.neg_tdiv _ _
  refine ⟨fun h => ?_, fun h => ?_⟩
  · obtain ⟨a, rfl⟩ := Int.eq_ofNat_of_zero_le h
    exact nat a
  · obtain ⟨a, e⟩ := Int.eq_ofNat_of_zero_le (a := -x) (by omega)
    obtain rfl : x = -(a : Int) := by omega
    have := nat a
    rw [neg]
    omega

/-- A truncated quotient is 0 exactly when the dividend is smaller than the divisor. -/
theorem truncDiv_eq_zero_iff (x : Int) (m : Nat) (pos : 0 < m) : truncDiv x m = 0 ↔ x.natAbs < m := by
  rw [truncDiv, ← Int.natAbs_eq_zero, Int.natAbs_tdiv, Int.natAbs_natCast]
  exact Nat.div_eq_zero_iff.trans (or_iff_right (Nat.ne_of_gt pos))

/-- Settles O24: the mean by the bounds of `roundDiv`, the filter step by those of `truncDiv`. -/
theorem meansAndFiltersStayWithin : Obligations.MeansAndFiltersStayWithin := by
  refine ⟨fun fs lo hi nonempty within => ?_, fun f t k => ?_⟩
  · have pos := List.length_pos_iff.2 nonempty
    obtain ⟨low, high⟩ := List.sum_bounds within
    exact ⟨le_roundDiv pos low, roundDiv_le pos high⟩
  · have pos : 0 < 2 ^ k := Nat.two_pow_pos k
    obtain ⟨up, down⟩ := truncDiv_between (t - f) (2 ^ k)
    have zero := truncDiv_eq_zero_iff (t - f) (2 ^ k) pos
    have step : filterStep f t k = f + truncDiv (t - f) (2 ^ k : Nat) := by rw [filterStep]; norm_cast
    refine ⟨fun h => ?_, fun h => ?_, ?_, ?_⟩
    · have := up (by omega); omega
    · have := down (by omega); omega
    · exact (congrArg (f + ·) (Int.tdiv_one (t - f))).trans (by omega)
    · rw [step, ← zero]; omega

/-! ### The scan timer -/

section
variable {s : State}

theorem State.startPass_empty (empty : s.scanList = []) : s.startPass = s := by
  cases pass : s.pass <;> simp [startPass, pass, empty]

theorem State.startPass_runs {p : Pass} (filled : s.scanList ≠ []) (runs : s.pass = some p) :
    s.startPass = s.raise .S .scanOverrun := by simp [startPass, runs, filled]

theorem State.startPass_rests (filled : s.scanList ≠ []) (rests : s.pass = none) :
    s.startPass = { s with pass := some ⟨s.scanList, 0⟩ } := by simp [startPass, rests, filled]
end

theorem exec_scanExpiry {s : State} (ready : s.startup = .ready) :
    Goes .scanExpiry s (State.startPass { s with scanTimer := ⟨s.scanInterval * 10000, 0⟩ }) :=
  congrArg Host.Outcome.next (if_pos ((ready_iff s).2 ready))

/-- Settles O25: the cases of the start of a pass. -/
theorem scanExpiry : Obligations.ScanExpiry := by
  intro s ready on
  have goes {t : State} (starts : on.startPass = t) : Goes .scanExpiry s t := starts ▸ exec_scanExpiry ready
  refine ⟨fun empty => goes ?_, fun filled runs => goes ?_, fun filled rests => goes ?_⟩
  · exact State.startPass_empty (s := on) empty
  · obtain ⟨p, pass⟩ := Option.ne_none_iff_exists'.1 runs
    exact State.startPass_runs (s := on) filled pass
  · exact State.startPass_rests (s := on) filled rests

/-! ### The writes -/

theorem saving_of_ne {s : State} (runs : s.save ≠ .idle) : s.saving = true := decide_eq_true runs

theorem saving_of_idle {s : State} (idle : s.save = .idle) : s.saving = false := by simp [State.saving, idle]

theorem outside_iff (x lo hi : Int) : outside x lo hi = true ↔ x < lo ∨ hi < x := by
  simp only [outside, Bool.or_eq_true, decide_eq_true_eq]

theorem outsideNat_iff (x lo hi : Nat) : outsideNat x lo hi = true ↔ x < lo ∨ hi < x := by
  simp only [outsideNat, Bool.or_eq_true, decide_eq_true_eq]

theorem badWorkpiece_iff (w : Workpiece) : badWorkpiece w = true
    ↔ (∃ i, w.w0.get i < -100000000 ∨ 100000000 < w.w0.get i) ∨ 32767 < w.gradientLimit := by
  simp only [badWorkpiece, Bool.or_eq_true, PerAxis.any_iff, outside_iff, cellRange, decide_eq_true_eq]

/-- An owner whose first check fails. -/
theorem checked_first {s : State} {l : Link} {b : Bool} {c : Code} {checks : List (Bool × Code)} {f : State → State}
    (fails : b = true) : s.checked l ((b, c) :: checks) f = s.respond l c :=
  checked_fail (by rw [firstFailure_cons, if_pos fails])

/-- An owner whose first check passes. -/
theorem checked_next {s : State} {l : Link} {b : Bool} {c : Code} {checks : List (Bool × Code)} {f : State → State}
    (passes : b = false) : s.checked l ((b, c) :: checks) f = s.checked l checks f := by
  simp only [State.checked, firstFailure_cons, passes, Bool.false_eq_true, if_false]

@[simp] theorem checked_nil (s : State) (l : Link) (f : State → State) : s.checked l [] f = f s := rfl

theorem writeWorkpiece_saving {s : State} (saving : s.save ≠ .idle) (l : Link) (e : Workpiece) :
    writeWorkpiece l e s = s.respond l .saveInProgress := checked_first (saving_of_ne saving)

theorem writeWorkpiece_bad {s : State} (idle : s.save = .idle) (l : Link) {e : Workpiece} (bad : badWorkpiece e = true) :
    writeWorkpiece l e s = s.respond l .badArgument :=
  (checked_next (saving_of_idle idle)).trans (checked_first bad)

/-- An accepted workpiece record: what R39 watches stays, so no notice is raised. -/
theorem writeWorkpiece_good {s : State} (idle : s.save = .idle) (l : Link) {e : Workpiece} (good : badWorkpiece e = false) :
    writeWorkpiece l e s = State.respond { s with
      workpiece := e
      snapshot := { s.snapshot with
        workpiece := e, gradientFlag := decide (e.gradientLimit < s.snapshot.gradient),
        epoch := (s.snapshot.epoch + 1) % 65536 } } l .ok := by
  refine (checked_next (saving_of_idle idle)).trans ((checked_next good).trans ?_)
  have same (a : Arm) : ¬ s.snapshot.watched a ≠ Snapshot.watched { s.snapshot with
        workpiece := e, gradientFlag := decide (e.gradientLimit < s.snapshot.gradient),
        epoch := (s.snapshot.epoch + 1) % 65536 } a := Classical.not_not.2 rfl
  simp only [checked_nil, State.publish, State.raiseThermal]
  rw [if_neg (same .A), if_neg (same .B)]

/-- Settles O26: the checks in order, then the record and the snapshot. -/
theorem workpieceWritten : Obligations.WorkpieceWritten := by
  intro e s taken bad
  refine ⟨fun saving => ?_, fun idle is_bad => ?_, fun idle good => ?_⟩
  · exact congrArg Host.Outcome.next (serve_reads taken rfl fun g => writeWorkpiece_saving (s := s.modLink .S g) saving _ _)
  · exact congrArg Host.Outcome.next
      (serve_reads taken rfl fun g => writeWorkpiece_bad (s := s.modLink .S g) idle _ ((badWorkpiece_iff e).2 is_bad))
  · have accepted : badWorkpiece e = false := by rwa [← Bool.not_eq_true, badWorkpiece_iff]
    exact congrArg Host.Outcome.next
      (serve_goes id taken rfl rfl fun g => writeWorkpiece_good (s := s.modLink .S g) idle _ accepted)

theorem badChannel_iff (e : ChannelEntry) : badChannel e = true
    ↔ e.role = none ∨ 7 < e.shift ∨ e.high < e.low ∨ e.persistence < 1 ∨ 15 < e.persistence := by
  simp only [badChannel, Bool.or_eq_true, Option.isNone_iff_eq_none, decide_eq_true_eq, outsideNat_iff, or_assoc]

theorem scanEntries_map_val {es : List Nat} (within : ∀ x ∈ es, x ≤ 23) : (scanEntries es).map (·.val) = es := by
  induction es with
  | nil => rfl
  | cons x es ih =>
    have known : index? 24 x = some ⟨x, Nat.lt_succ_of_le (within x (List.mem_cons_self ..))⟩ := index?_of_lt _
    rw [scanEntries, List.filterMap_cons, known, List.map_cons, ← scanEntries,
      ih fun y hy => within y (List.mem_cons_of_mem _ hy)]

theorem writeChannel_refused {s : State} {n : Nat} {e : ChannelEntry} (l : Link) :
    (s.save ≠ .idle → writeChannel l n e s = s.respond l .saveInProgress)
    ∧ (s.save = .idle → 23 < n ∨ badChannel e = true → writeChannel l n e s = s.respond l .badArgument) := by
  by_cases above : 23 < n
  · refine ⟨fun saving => ?_, fun idle _ => ?_⟩
    · simp [writeChannel, index?_of_le (by omega : 24 ≤ n), saving_of_ne saving]
    · simp [writeChannel, index?_of_le (by omega : 24 ≤ n), saving_of_idle idle]
  · have known := index?_of_lt (by omega : n < 24)
    refine ⟨fun saving => ?_, fun idle bad => ?_⟩
    · simp only [writeChannel, known]; exact checked_first (saving_of_ne saving)
    · simp only [writeChannel, known]
      exact (checked_next (saving_of_idle idle)).trans (checked_first (bad.resolve_left above))

theorem writeChannel_accepted {s : State} {n : Nat} (h : n < 24) {e : ChannelEntry} (l : Link) (idle : s.save = .idle)
    (good : badChannel e = false) : writeChannel l n e s
      = State.respond { s with channels := Table.put s.channels ⟨n, h⟩ ((s.channels.get ⟨n, h⟩).configure e) } l .ok := by
  simp only [writeChannel, index?_of_lt h]
  exact (checked_next (saving_of_idle idle)).trans (checked_next good)

/-- The argument check of EDIT SCAN LIST (R27). -/
theorem badScan_iff (m : ScanMode) (es : List Nat) :
    (es.any (fun n => decide (23 < n)) || (decide (m = .keep) && !es.isEmpty)) = true
      ↔ (∃ x ∈ es, 23 < x) ∨ (m = .keep ∧ es ≠ []) := by
  simp only [Bool.or_eq_true, Bool.and_eq_true, List.any_eq_true, decide_eq_true_eq, Bool.not_eq_true',
    List.isEmpty_eq_false_iff]

theorem editScanList_saving {s : State} (saving : s.save ≠ .idle) (l : Link) (mode : Option ScanMode) (ms : Nat)
    (es : List Nat) : editScanList l mode ms es s = s.respond l .saveInProgress := by
  cases mode with
  | none => simp [editScanList, saving_of_ne saving]
  | some m => simp only [editScanList]; exact checked_first (saving_of_ne saving)

theorem editScanList_bad {s : State} (idle : s.save = .idle) (l : Link) {mode : Option ScanMode} (ms : Nat)
    {es : List Nat} (bad : mode = none ∨ (∃ x ∈ es, 23 < x) ∨ (mode = some .keep ∧ es ≠ [])) :
    editScanList l mode ms es s = s.respond l .badArgument := by
  cases mode with
  | none => simp [editScanList, saving_of_idle idle]
  | some m =>
    simp only [editScanList]
    refine (checked_next (saving_of_idle idle)).trans (checked_first ((badScan_iff m es).2 ?_))
    simpa using bad

section
variable {s : State} {m : ScanMode} {es : List Nat} (idle : s.save = .idle)
  (good : ¬ ((∃ x ∈ es, 23 < x) ∨ (m = .keep ∧ es ≠ []))) (l : Link) (ms : Nat)
include idle good

theorem editScanList_full (full : m = .append ∧ 32 < s.scanList.length + es.length) :
    editScanList l (some m) ms es s = s.respond l .queueFull := by
  simp only [editScanList]
  refine (checked_next (saving_of_idle idle)).trans ((checked_next ?_).trans (checked_first ?_))
  · rwa [← Bool.not_eq_true, badScan_iff]
  · simpa using full

theorem editScanList_accepted (room : ¬ (m = .append ∧ 32 < s.scanList.length + es.length)) :
    editScanList l (some m) ms es s = State.respond { s with
      scanList := editedList m s.scanList (scanEntries es), scanInterval := clampNat ms 10 10000 } l .ok := by
  simp only [editScanList]
  refine (checked_next (saving_of_idle idle)).trans ((checked_next ?_).trans (checked_next ?_))
  · rwa [← Bool.not_eq_true, badScan_iff]
  · simpa using room
end

theorem linkCheck_editScanList {es : List Nat} (short : es.length ≤ 32) (mode : Option ScanMode) (ms : Nat) :
    linkCheck .S (.editScanList .S mode ms es) = none := by
  have fits : lengthOk .S (.editScanList .S mode ms es) = true := decide_eq_true short
  simp only [linkCheck, fits]
  rfl

/-- Settles O27: each request's checks in order, then its accepted effect. -/
theorem channelsAndScanWritten : Obligations.ChannelsAndScanWritten := by
  intro n e mode ms es s
  refine ⟨fun taken => ?channel, fun taken short => ?list, fun taken => ⟨fun saving => ?_, fun idle => ?_⟩⟩
  case channel =>
    intro bad
    refine ⟨fun saving => ?_, fun idle is_bad => ?_, fun h r idle good role => ?_⟩
    · exact congrArg Host.Outcome.next (serve_reads taken rfl fun g => (writeChannel_refused (s := s.modLink .S g) .S).1 saving)
    · exact congrArg Host.Outcome.next
        (serve_reads taken rfl fun g => (writeChannel_refused (s := s.modLink .S g) .S).2 idle (is_bad.imp_right (badChannel_iff e).2))
    · have accepted : badChannel e = false := by
        rw [← Bool.not_eq_true, badChannel_iff]; exact fun h => good (.inr h)
      have configured : (s.channels.get ⟨n, h⟩).configure e = { s.channels.get ⟨n, h⟩ with
          role := r, gain := e.gain, offset := e.offset, shift := e.shift, low := e.low, high := e.high,
          persistence := e.persistence, state := if r = .unused then .unused else .warming, run := 0 } := by
        simp only [Channel.configure, role, Option.getD_some]
      rw [← configured]
      exact congrArg Host.Outcome.next
        (serve_goes id taken rfl rfl fun g => writeChannel_accepted (s := s.modLink .S g) h .S idle accepted)
  case list =>
    intro bad full
    refine ⟨fun saving => ?_, fun idle is_bad => ?_, fun idle good is_full => ?_, fun idle good room => ?_⟩
    · exact congrArg Host.Outcome.next
        (serve_reads taken (linkCheck_editScanList short _ _) fun g => editScanList_saving (s := s.modLink .S g) saving _ _ _ _)
    · exact congrArg Host.Outcome.next
        (serve_reads taken (linkCheck_editScanList short _ _) fun g => editScanList_bad (s := s.modLink .S g) idle _ _ is_bad)
    · obtain ⟨m, rfl⟩ := Option.ne_none_iff_exists'.1 fun none_named => good (.inl none_named)
      refine congrArg Host.Outcome.next (serve_reads taken (linkCheck_editScanList short _ _) fun g => ?_)
      exact editScanList_full (s := s.modLink .S g) idle (by simpa [bad] using good) _ _ (by simpa [full] using is_full)
    · obtain ⟨m, rfl⟩ := Option.ne_none_iff_exists'.1 fun none_named => good (.inl none_named)
      have within : ∀ x ∈ es, x ≤ 23 := fun x hx => Nat.not_lt.1 fun above => good (.inr (.inl ⟨x, hx, above⟩))
      refine ⟨editedList m s.scanList (scanEntries es), congrArg Host.Outcome.next
        (serve_goes id taken (linkCheck_editScanList short _ _) rfl fun g => editScanList_accepted (s := s.modLink .S g)
          idle (by simpa [bad] using good) _ _ (by simpa [full] using room)), fun mode => ?_, fun mode => ?_, fun mode => ?_⟩
      all_goals obtain rfl := Option.some.inj mode
      · exact scanEntries_map_val within
      · rw [editedList, List.map_append, scanEntries_map_val within]
      · rfl
  · exact congrArg Host.Outcome.next (serve_reads taken rfl fun g => checked_first (s := s.modLink .S g) (saving_of_ne saving))
  · exact congrArg Host.Outcome.next
      (serve_goes id taken rfl rfl fun g => checked_next (s := s.modLink .S g) (saving_of_idle idle))

end Sys2Proof.Machine
end

section
/-! PROOFS. The time base (R44 to R52) and the plain operations of the axis unit (R54, R62, R63, R204). -/
namespace Sys2Proof.Machine
open Sys2Proof.Safety

/-! ### Periods -/

theorem SetpointTimer.startPeriod_of_fresh {t : SetpointTimer} (pos : 0 < t.d) (fresh : t.fresh = true) :
    t.startPeriod = { t with acc := t.n % t.d, startAcc := 0, count := 0, fresh := false, length := t.n / t.d } := by
  have rest : t.n - t.n / t.d * t.d = t.n % t.d := by
    rw [Nat.mul_comm]; have := Nat.div_add_mod t.n t.d; omega
  have below := Nat.mod_lt t.n pos
  simp only [startPeriod, fresh, if_true, rest, Nat.zero_add, Nat.mod_mod, Nat.not_le.2 below, if_false]

/-- One period accounts for N / D: D times its length and the new accumulator are N and the old one (R44). -/
theorem SetpointTimer.startPeriod_counts {t : SetpointTimer} (pos : 0 < t.d) (below : t.acc < t.d)
    (kept : t.fresh = false) : t.startPeriod.n = t.n ∧ t.startPeriod.d = t.d ∧ t.startPeriod.acc < t.d
      ∧ t.startPeriod.fresh = false ∧ t.startPeriod.length * t.d + t.startPeriod.acc = t.n + t.acc
      ∧ (t.startPeriod.length = t.n / t.d ∨ t.startPeriod.length = t.n / t.d + 1) := by
  have rest : t.n - t.n / t.d * t.d = t.n % t.d := by
    rw [Nat.mul_comm]; have := Nat.div_add_mod t.n t.d; omega
  have whole : t.n / t.d * t.d + t.n % t.d = t.n := by rw [Nat.mul_comm]; exact Nat.div_add_mod ..
  have small := Nat.mod_lt t.n pos
  have next : t.startPeriod = { t with
      acc := (t.acc + t.n % t.d) % t.d, startAcc := t.acc, count := 0, fresh := false
      length := if t.d ≤ t.acc + t.n % t.d then t.n / t.d + 1 else t.n / t.d } := by
    simp only [startPeriod, kept, Bool.false_eq_true, if_false, rest]
  rw [next]
  refine ⟨rfl, rfl, Nat.mod_lt _ pos, rfl, ?_, ?_⟩ <;> dsimp only
  · by_cases carry : t.d ≤ t.acc + t.n % t.d
    · rw [if_pos carry, Nat.mod_eq_sub_mod carry, Nat.mod_eq_of_lt (by omega), Nat.succ_mul]
      omega
    · rw [if_neg carry, Nat.mod_eq_of_lt (by omega)]
      omega
  · split
    · exact .inr rfl
    · exact .inl rfl

/-- k periods in, the lengths and the accumulator account for k N / D. -/
theorem periodsOn_counts {t : SetpointTimer} (pos : 0 < t.d) (below : t.acc < t.d) (kept : t.fresh = false) (k : Nat) :
    (periodsOn k t).n = t.n ∧ (periodsOn k t).d = t.d ∧ (periodsOn k t).acc < t.d ∧ (periodsOn k t).fresh = false
      ∧ ((List.range k).map fun j => (periodsOn (j + 1) t).length).sum * t.d + (periodsOn k t).acc = k * t.n + t.acc := by
  induction k with
  | zero => exact ⟨rfl, rfl, below, kept, by simp [periodsOn]⟩
  | succ k ih =>
    obtain ⟨same_n, same_d, acc_below, not_fresh, sum⟩ := ih
    obtain ⟨n', d', acc', fresh', counts, -⟩ :=
      SetpointTimer.startPeriod_counts (t := periodsOn k t) (same_d ▸ pos) (same_d ▸ acc_below) not_fresh
    rw [same_n, same_d] at counts
    refine ⟨n'.trans same_n, d'.trans same_d, same_d ▸ acc', fresh', ?_⟩
    rw [List.range_succ, List.map_append, List.sum_append, Nat.add_mul, Nat.succ_mul, List.map_singleton,
      List.sum_singleton, show (periodsOn (k + 1) t) = (periodsOn k t).startPeriod from rfl]
    omega

/-- Settles O29: after D periods D times their sum is D N, since both accumulators are below D. -/
theorem periodsSumToRatio : Obligations.PeriodsSumToRatio := by
  intro t pos below kept
  obtain ⟨-, -, acc_below, -, sum⟩ := periodsOn_counts pos below kept t.d
  have acc_same : (periodsOn t.d t).acc = t.acc := by
    have residue := congrArg (· % t.d) sum
    simpa [Nat.add_comm, Nat.add_mul_mod_self_right, Nat.add_mul_mod_self_left, Nat.mod_eq_of_lt acc_below,
      Nat.mod_eq_of_lt below] using residue
  refine ⟨?_, acc_same, fun k => ?_⟩
  · rw [acc_same, Nat.mul_comm] at sum
    exact Nat.eq_of_mul_eq_mul_left pos (Nat.add_right_cancel sum)
  · obtain ⟨same_n, same_d, acc_below, not_fresh, -⟩ := periodsOn_counts pos below kept k
    obtain ⟨-, -, -, -, -, length⟩ :=
      SetpointTimer.startPeriod_counts (t := periodsOn k t) (same_d ▸ pos) (same_d ▸ acc_below) not_fresh
    rwa [same_n, same_d] at length

/-! ### SET TIMER, SET SYNC and CSYNC -/

theorem badRatio_iff (n d : Nat) :
    badRatio n d = true ↔ n < 1 ∨ 65535 < n ∨ d < 1 ∨ 255 < d ∨ n / d < 1000 := by
  simp only [badRatio, Bool.or_eq_true, outsideNat_iff, decide_eq_true_eq, or_assoc]

theorem State.inMotion_iff (s : State) (a : Arm) :
    s.inMotion a = true ↔ (s.motion.get a).phase = .moving ∨ (s.motion.get a).phase = .stopping := by
  simp only [inMotion, Bool.or_eq_true, decide_eq_true_eq]

section
variable {s : State} {l : Link} {n d : Nat}

theorem setTimer_saving (saving : s.save ≠ .idle) (arm : Option Arm) : setTimer l arm n d s = s.respond l .saveInProgress := by
  cases arm with
  | none => simp [setTimer, saving_of_ne saving]
  | some a => simp only [setTimer]; exact checked_first (saving_of_ne saving)

theorem setTimer_bad (idle : s.save = .idle) {arm : Option Arm} (bad : arm = none ∨ badRatio n d = true) :
    setTimer l arm n d s = s.respond l .badArgument := by
  cases arm with
  | none => simp [setTimer, saving_of_idle idle]
  | some a =>
    simp only [setTimer]
    exact (checked_next (saving_of_idle idle)).trans (checked_first (bad.resolve_left nofun))

theorem setTimer_in_motion (idle : s.save = .idle) (good : badRatio n d = false) {a : Arm} (moves : s.inMotion a = true) :
    setTimer l (some a) n d s = s.respond l .wrongState := by
  simp only [setTimer]
  exact (checked_next (saving_of_idle idle)).trans ((checked_next good).trans (checked_first moves))

theorem setTimer_accepted (idle : s.save = .idle) (good : badRatio n d = false) {a : Arm} (rests : s.inMotion a = false) :
    setTimer l (some a) n d s = (s.modTimer a fun t => { t with n := n, d := d, fresh := true }).respond l .ok := by
  simp only [setTimer]
  exact (checked_next (saving_of_idle idle)).trans ((checked_next good).trans (checked_next rests))
end

/-- One setpoint enable at an edge changes its own timer alone, and that only where it applies (R50). -/
theorem State.syncTimer_timers (s : State) (a b : Arm) : (s.syncTimer a).timers.get b
    = if b = a ∧ (s.timers.get a).sync = true ∧ s.inMotion a = false then
        { (s.timers.get a).realign with sync := false } else s.timers.get b := by
  unfold State.syncTimer
  cases sync : (s.timers.get a).sync <;> cases moves : s.inMotion a <;>
    simp [PerArm.get_set_if]

theorem State.syncTimer_fields (s : State) (a : Arm) : s.syncTimer a = { s with timers := (s.syncTimer a).timers } := by
  unfold State.syncTimer
  split <;> rfl

theorem State.syncTimer_inMotion (s : State) (a b : Arm) : (s.syncTimer a).inMotion b = s.inMotion b := by
  rw [State.syncTimer_fields]; rfl

/-- Both enables at an edge: an arm's timer is realigned where its enable applies. -/
theorem syncTimers_timers (s : State) (a : Arm) : ((s.syncTimer .A).syncTimer .B).timers.get a
    = if (s.timers.get a).sync = true ∧ s.inMotion a = false then
        { (s.timers.get a).realign with sync := false } else s.timers.get a := by
  rw [State.syncTimer_timers, State.syncTimer_inMotion, State.syncTimer_timers, State.syncTimer_timers]
  cases a <;> simp

theorem SetpointTimer.realign_eq {t : SetpointTimer} (kept : t.d ≠ 0) : t.realign
    = { t with acc := t.n % t.d, startAcc := 0, count := 0, fresh := false, length := t.n / t.d } := by
  rw [← SetpointTimer.startPeriod_of_fresh (t := { t with acc := 0, fresh := true }) (Nat.pos_of_ne_zero kept) rfl]
  unfold realign startPeriod
  cases t.fresh <;> rfl

theorem SetpointTimer.realign_start (t : SetpointTimer) :
    t.realign.count = 0 ∧ t.realign.startAcc = 0 ∧ t.realign.n = t.n ∧ t.realign.d = t.d := by
  unfold realign startPeriod
  cases t.fresh <;> exact ⟨rfl, rfl, rfl, rfl⟩

theorem csync_of_ready {s : State} (ready : s.startup = .ready) :
    csync s = { s with
      timers := ((s.syncTimer .A).syncTimer .B).timers
      scanTimer := if s.scanSync then ⟨s.scanInterval * 10000, 0⟩ else s.scanTimer
      scanSync := false } := by
  have fields : (s.syncTimer .A).syncTimer .B = { s with timers := ((s.syncTimer .A).syncTimer .B).timers } := by
    rw [State.syncTimer_fields (s.syncTimer .A), State.syncTimer_fields s]
  rw [csync, if_pos ((ready_iff s).2 ready), fields]
  cases scan : s.scanSync <;> simp [State.syncScan, State.startScanInterval]

theorem setpointExpiry_disabled {s : State} {a : Arm} (ready : s.startup = .ready) (den : (s.axes.get a).den = false) :
    setpointExpiry a s = ((s.modTimer a SetpointTimer.startPeriod).modAxes a AxisUnit.clearSkips, []) := by
  simp only [setpointExpiry, (ready_iff s).2 ready, den, Bool.not_true, Bool.not_false, Bool.false_eq_true, if_false,
    if_true]

/-- Settles O28: the checks in order, the edge by `csync_of_ready`, the period by `startPeriod_of_fresh`. -/
theorem timersSet : Obligations.TimersSet := by
  intro arm n d spA spB scan s
  refine ⟨fun taken => ?timer, fun taken => ?sync, fun not_ready => ?_, fun ready => ?edge, fun a ready den pos fresh => ?_,
    fun t pos fresh => SetpointTimer.startPeriod_of_fresh pos fresh⟩
  case timer =>
    intro bad
    refine ⟨fun saving => ?_, fun idle is_bad => ?_, fun a named idle good => ?_⟩
    · exact congrArg Host.Outcome.next
        (serve_reads taken rfl fun g => setTimer_saving (s := s.modLink .S g) saving arm)
    · exact congrArg Host.Outcome.next (serve_reads taken rfl fun g =>
        setTimer_bad (s := s.modLink .S g) idle (is_bad.imp_right (badRatio_iff n d).2))
    · subst named
      have good : badRatio n d = false := by rw [← Bool.not_eq_true, badRatio_iff]; exact fun h => good (.inr h)
      refine ⟨fun moves => ?_, fun still ramp => ?_⟩
      · exact congrArg Host.Outcome.next (serve_reads taken rfl fun g =>
          setTimer_in_motion (s := s.modLink .S g) idle good ((s.inMotion_iff a).2 moves))
      · have rests : s.inMotion a = false := by
          rw [← Bool.not_eq_true, State.inMotion_iff]; exact fun h => h.elim still ramp
        exact congrArg Host.Outcome.next (serve_goes id taken rfl rfl fun g =>
          setTimer_accepted (s := s.modLink .S g) idle good rests)
  case sync => exact congrArg Host.Outcome.next (serve_goes id taken rfl rfl fun g => rfl)
  case edge =>
    refine ⟨csync s, rfl, ?_, fun a sync still ramp => ?_, fun a unapplied => ?_, ?_⟩
    · rw [csync_of_ready ready]
    · have rests : s.inMotion a = false := by
        rw [← Bool.not_eq_true, State.inMotion_iff]; exact fun h => h.elim still ramp
      obtain ⟨count, start, same_n, same_d⟩ := (s.timers.get a).realign_start
      rw [csync_of_ready ready]
      dsimp only
      rw [syncTimers_timers, if_pos ⟨sync, rests⟩]
      exact ⟨rfl, count, start, fun kept => by rw [SetpointTimer.realign_eq kept], same_n, same_d⟩
    · rw [csync_of_ready ready]
      dsimp only
      rw [syncTimers_timers, if_neg]
      rintro ⟨sync, rests⟩
      rcases unapplied with off | moves
      · exact absurd sync (by simp [off])
      · exact absurd ((s.inMotion_iff a).2 moves) (by simp [rests])
    · rw [csync_of_ready ready]
      cases s.scanSync <;> rfl
  · exact congrArg Host.Outcome.next (if_neg fun h => not_ready ((ready_iff s).1 h))
  · refine (congrArg (fun x => Host.Outcome.next (settle x)) (setpointExpiry_disabled ready den)).trans ?_
    rw [settle_nil]
    simp only [State.modTimer, SetpointTimer.startPeriod_of_fresh pos fresh]
    rfl

/-! ### Counts -/

theorem wrap32_of_within {x : Int} (low : -2147483648 ≤ x) (high : x ≤ 2147483647) : wrap32 x = x := by
  obtain ⟨h1, h2, h3⟩ := wrap32_spec x
  omega

/-- Settles O30: the count by `wrap32_spec`, the pair by its four values. -/
theorem quadratureCount : Obligations.QuadratureCount := by
  intro a i d s x one
  obtain ⟨low, high, residue⟩ := wrap32_spec (x.count + one)
  refine ⟨wrap32 (x.count + one), nextPair x.pair d, ?_, low, high, residue, wrap32_of_within, ?_, ?_⟩
  · have stepped : x.step d = { x with count := wrap32 (x.count + one), pair := nextPair x.pair d, sense := d } := by
      cases d <;> rfl
    refine congrArg Host.Outcome.next ?_
    simp only [State.modAxis, State.modAxes]
    exact congrArg (fun y => { s with axes := s.axes.set a { s.axes.get a with
      axis := (s.axes.get a).axis.set i y } }) stepped
  · obtain ⟨p, q⟩ := x.pair
    cases d <;> cases p <;> cases q <;> simp [nextPair]
  · obtain ⟨p, q⟩ := x.pair
    cases d <;> cases p <;> cases q <;> simp [nextPair]

/-! ### Frames on a DRV line -/

theorem bytesLE_length (n v : Nat) : (bytesLE n v).length = n := by simp [bytesLE]

/-- The signed 32-bit field behind a number of leading bytes. -/
theorem field_bytesS32_at {pre bs : List Byte} {i : Nat} (v : Int) (at_i : pre.length = i) :
    (field (pre ++ (bytesS32 v ++ bs)) i 4 : Int) = v % 4294967296 := by
  subst at_i
  rw [bytesS32, field_bytesLE_after]
  omega

theorem field_bytesLE_at {pre bs : List Byte} {i : Nat} (n v : Nat) (at_i : pre.length = i) :
    field (pre ++ (bytesLE n v ++ bs)) i n = v % 256 ^ n := at_i ▸ field_bytesLE_after pre bs n v

theorem Frame.bytes_spec (f : Frame) : FrameBytes f f.bytes := by
  have four (v : Int) : (bytesS32 v).length = 4 := bytesLE_length 4 _
  have one (v : Nat) : (bytesLE 1 v).length = 1 := bytesLE_length 1 v
  have flag : field f.bytes 1 1 = (if f.enable then 1 else 0) % 256 ^ 1 := by
    rw [Frame.bytes]; simp only [List.append_assoc]
    exact field_bytesLE_at (pre := bytesLE 1 f.count) 1 _ (one _)
  refine ⟨by simp [Frame.bytes, four, one], ?_, flag.trans (by cases f.enable <;> rfl), ?_, ?_, ?_⟩ <;>
    rw [Frame.bytes]
  · simp only [List.append_assoc]
    exact field_bytesLE 1 f.count _
  · simp only [List.append_assoc]
    rw [← List.append_assoc]
    exact field_bytesS32_at _ (by simp [one])
  · rw [List.append_assoc]
    exact field_bytesS32_at _ (by simp [one, four])
  · rw [← List.append_nil (bytesS32 f.setpoints.z)]
    exact field_bytesS32_at _ (by simp [one, four])

/-- The levels of byte k begin at bit 10 k. -/
theorem flatMap_charLevels_getD {bs : List Byte} {k : Nat} {b : Byte} (byte : bs[k]? = some b) {j : Nat} (h : j < 10) :
    (bs.flatMap charLevels).getD (10 * k + j) true = (charLevels b).getD j true := by
  have ten (x : Byte) : (charLevels x).length = 10 := by simp [charLevels]
  induction bs generalizing k with
  | nil => simp at byte
  | cons x bs ih =>
    rw [List.flatMap_cons]
    cases k with
    | zero =>
      obtain rfl : x = b := by simpa using byte
      rw [List.getD_eq_getElem?_getD, List.getElem?_append_left (by rw [ten]; omega), ← List.getD_eq_getElem?_getD, Nat.mul_zero,
        Nat.zero_add]
    | succ k =>
      rw [List.getD_eq_getElem?_getD, List.getElem?_append_right (by rw [ten]; omega), ← List.getD_eq_getElem?_getD, ten,
        ← ih (by simpa using byte)]
      congr 1
      omega

/-- One byte on the line: a low start bit, the data bits, a high stop bit (R204). -/
theorem charLevels_spec (b : Byte) : (charLevels b).getD 0 true = false
    ∧ (∀ i, i < 8 → (charLevels b).getD (1 + i) true = b.getLsbD i) ∧ (charLevels b).getD 9 true = true := by
  refine ⟨rfl, fun i below => ?_, rfl⟩
  rw [charLevels, List.cons_append, Nat.add_comm, List.getD_cons_succ, List.getD_eq_getElem?_getD,
    List.getElem?_append_left (by simpa using below)]
  simp [below]

/-! ### DEN follows the arm state -/

theorem AxisUnit.drive_false {u : AxisUnit} (enabled : u.den = true) : u.drive false = { u with
    den := false, frameCount := (u.frameCount + 1) % 256,
    line := u.line ++ [⟨(u.frameCount + 1) % 256, false, u.axis.map (·.lastSent)⟩] } := by
  simp only [drive, enabled, Bool.not_false, Bool.and_self, if_true]
  rfl

theorem AxisUnit.drive_false_of_disabled {u : AxisUnit} (disabled : u.den = false) : u.drive false = u := by
  simp only [drive, disabled, Bool.false_and, Bool.false_eq_true, if_false]
  rw [← disabled]

theorem denOf_eq_false_iff (p : Phase) : denOf p = false ↔ p = .off ∨ ∃ r, p = .fault r := by
  cases p <;> simp [denOf]

/-- Settles O32: the line by the bits of its bytes, the arm state by `AxisUnit.drive`. -/
theorem phaseDrivesEnable : Obligations.PhaseDrivesEnable := by
  refine ⟨fun a s => rfl, fun u => ⟨fun idle => by rw [AxisUnit.level, idle], fun f rest sending =>
    ⟨f.bytes_spec, fun k b byte => ?_⟩⟩, ?_⟩
  · have level {j : Nat} (h : j < 10) (bits : u.bits = 10 * k + j) : u.level = (charLevels b).getD j true := by
      rw [AxisUnit.level, sending, bits]; exact flatMap_charLevels_getD byte h
    obtain ⟨start, data, stop⟩ := charLevels_spec b
    exact ⟨fun bits => (level (by omega) bits).trans start,
      fun i below bits => (level (j := 1 + i) (by omega) (by omega)).trans (data i below),
      fun bits => (level (by omega) bits).trans stop⟩
  · intro s a p u t off
    have driven : t.axes.get a = u.drive (denOf p) := PerArm.get_set _ _ _
    have falls (h : off) : denOf p = false := (denOf_eq_false_iff p).2 h
    refine ⟨PerArm.get_set _ _ _, fun enabled h => ?_, fun disabled h => ?_, fun h => ?_, rfl,
      PerArm.get_set_ne _ _ (by cases a <;> nofun), PerArm.get_set_ne _ _ (by cases a <;> nofun)⟩
    · rw [driven, falls h, AxisUnit.drive_false enabled]
    · rw [driven, falls h, AxisUnit.drive_false_of_disabled disabled]
    · have stays : denOf p = true := by rw [← Bool.not_eq_false, denOf_eq_false_iff]; exact h
      rw [driven, stays, AxisUnit.drive_true]

end Sys2Proof.Machine
end

section
/-! PROOFS. Loading (R103, R144, R205 to R207): the judgement of a region, and what each section installs. -/
namespace Sys2Proof.Machine
open Sys2Proof.Safety

/-! ### Folds over a table's indices -/

/-- Induction along a fold over every index, in order. -/
theorem foldl_finRange_induction {n : Nat} {β : Type} {f : β → Fin n → β} {b : β} (P : Nat → β → Prop) (start : P 0 b)
    (step : ∀ (i : Fin n) (x : β), P i x → P (i + 1) (f x i)) : P n ((List.finRange n).foldl f b) := by
  have prefixes (k : Nat) : k ≤ n → P k (((List.finRange n).take k).foldl f b) := by
    induction k with
    | zero => exact fun _ => start
    | succ k ih =>
      intro below
      have next : (List.finRange n)[k]? = some ⟨k, below⟩ :=
        (List.getElem?_eq_getElem (by rw [List.length_finRange]; exact below)).trans (by simp)
      rw [List.take_add_one, next, List.foldl_append]
      exact step ⟨k, below⟩ _ (ih (by omega))
  have whole := prefixes n (Nat.le_refl n)
  rwa [List.take_of_length_le (by simp)] at whole

theorem Table.any_toList {α : Type} {n : Nat} (v : Table n α) (f : α → Bool) :
    v.toList.any f = true ↔ ∃ i : Fin n, f (v.get i) = true := by
  rw [List.any_eq_true]
  constructor
  · rintro ⟨x, mem, holds⟩
    obtain ⟨i, below, rfl⟩ := Vector.getElem_of_mem (Vector.mem_toList_iff.1 mem)
    exact ⟨⟨i, below⟩, holds⟩
  · rintro ⟨i, holds⟩
    exact ⟨v.get i, Vector.mem_toList_iff.2 (Vector.getElem_mem i.2), holds⟩

/-! ### The judgement of a region -/

theorem judgeSection_good {x : Section} {content : Image} (named : content.section = x) :
    judgeSection x (.region (some x) (Config.contentLength x) content (crc32 (contentBytes content))) = some content := by
  simp [judgeSection, named]

theorem judgeSection_bad {x : Section} {r : SectionRead} (bad : r = .noAnswer ∨ ∃ kind length content crc,
    r = .region kind length content crc
      ∧ (kind ≠ some x ∨ length ≠ Config.contentLength x ∨ crc ≠ crc32 (contentBytes content))) :
    judgeSection x r = none := by
  rcases bad with rfl | ⟨kind, length, content, crc, rfl, wrong⟩
  · rfl
  · rw [judgeSection, if_neg]
    simp only [Bool.and_eq_true, decide_eq_true_eq]
    rintro ⟨⟨⟨kind_ok, -⟩, length_ok⟩, crc_ok⟩
    exact wrong.elim (· kind_ok) (·.elim (· length_ok) (· crc_ok))

/-- The end of the read of a section that another follows (R206). -/
theorem sectionEnds_next {x y : Section} {s : State} (loading : s.loading = some x) (after : sectionAfter x = some y)
    (r : SectionRead) : Goes (.sectionLoadComplete r) s
      { (s.install ((judgeSection x r).getD (defaultImage x))).1 with
        loadFaults := s.loadFaults.put x
          ((judgeSection x r).isNone || (s.install ((judgeSection x r).getD (defaultImage x))).2)
        loading := some y } := by
  refine congrArg Host.Outcome.next ?_
  simp only [loading, sectionEnds, after, settle_nil]

/-- Settles O6: the next section by `sectionEnds_next`, the answer by the judgement. -/
theorem sectionLoaded : Obligations.SectionLoaded := by
  refine fun x y s loading after => ⟨fun content named => ?_, fun r bad => ?_⟩
  · simpa [judgeSection_good named] using sectionEnds_next loading after
      (.region (some x) (Config.contentLength x) content (crc32 (contentBytes content)))
  · simpa [judgeSection_bad bad] using sectionEnds_next loading after r

/-! ### CALIBRATION, CHANNELS and ZONES -/

theorem orDefault_fst {α : Type} (bad : Bool) (x d : α) : (orDefault bad x d).1 = if bad then d else x := by
  cases bad <;> rfl

theorem orDefault_snd {α : Type} (bad : Bool) (x d : α) : (orDefault bad x d).2 = bad := by
  cases bad <;> rfl

theorem scanEntries_map_val_eq_filter (es : List Nat) : (scanEntries es).map (·.val) = es.filter (· ≤ 23) := by
  induction es with
  | nil => rfl
  | cons x es ih =>
    by_cases within : x ≤ 23
    · rw [List.filter_cons_of_pos (by simpa using within), scanEntries, List.filterMap_cons,
        index?_of_lt (by omega : x < 24), List.map_cons, ← scanEntries, ih]
    · rw [List.filter_cons_of_neg (by simpa using within), scanEntries, List.filterMap_cons,
        index?_of_le (by omega : 24 ≤ x), ← scanEntries, ih]

/-- A good stored record of kind RACK. -/
abbrev RackEntry (zs : Table 16 ZoneEntry) (z : ZoneId) : Prop :=
  badZone (zs.get z) = false ∧ (zs.get z).kind = some .rack

/-- What a ZONES section leaves at a zone: the stored record, its default, or UNUSED for a RACK record behind one. -/
def loadedZone (zs : Table 16 ZoneEntry) (z : ZoneId) : Zone :=
  if badZone (zs.get z) then defaultZones.get z
  else if (zs.get z).kind = some .rack ∧ ∃ y < z, RackEntry zs y then Zone.unused
  else zoneOf (zs.get z)

/-- The fold of `loadZones` after the zones below i. -/
structure ZonesLoaded (zs : Table 16 ZoneEntry) (i : Nat) (acc : Table 16 Zone × Bool × Bool) : Prop where
  below : ∀ z : ZoneId, z.val < i → acc.1.get z = loadedZone zs z
  flag : acc.2.1 = true ↔ (∃ z : ZoneId, z.val < i ∧ badZone (zs.get z) = true)
    ∨ ∃ w z : ZoneId, z < w ∧ w.val < i ∧ RackEntry zs z ∧ RackEntry zs w
  seen : acc.2.2 = true ↔ ∃ z : ZoneId, z.val < i ∧ RackEntry zs z

/-- A claim about the indices up to i is one about those below i, or about i. -/
theorem exists_below_succ {n : Nat} (i : Fin n) (P : Fin n → Prop) :
    (∃ z : Fin n, z.val < i.val + 1 ∧ P z) ↔ (∃ z : Fin n, z.val < i.val ∧ P z) ∨ P i := by
  constructor
  · rintro ⟨z, below, holds⟩
    rcases Nat.lt_succ_iff_lt_or_eq.1 below with h | h
    · exact .inl ⟨z, h, holds⟩
    · exact .inr (Fin.ext h ▸ holds)
  · rintro (⟨z, below, holds⟩ | holds)
    · exact ⟨z, by omega, holds⟩
    · exact ⟨i, by omega, holds⟩

/-- One zone of the fold of `loadZones`. -/
def loadZoneStep (zs : Table 16 ZoneEntry) (acc : Table 16 Zone × Bool × Bool) (i : ZoneId) : Table 16 Zone × Bool × Bool :=
  let e := zs.get i
  if badZone e then (Table.put acc.1 i (defaultZones.get i), true, acc.2.2)
  else if e.kind = some .rack && acc.2.2 then (Table.put acc.1 i Zone.unused, true, true)
  else (Table.put acc.1 i (zoneOf e), acc.2.1, acc.2.2 || decide (e.kind = some .rack))

theorem loadZones_eq (zs : Table 16 ZoneEntry) : loadZones zs
    = ((allZones.foldl (loadZoneStep zs) (defaultZones, false, false)).1,
       (allZones.foldl (loadZoneStep zs) (defaultZones, false, false)).2.1) := rfl

/-- A pair of RACK records up to zone i is one below it, or ends at it. -/
theorem racks_below_succ (zs : Table 16 ZoneEntry) (i : ZoneId) :
    (∃ w z : ZoneId, z < w ∧ w.val < i.val + 1 ∧ RackEntry zs z ∧ RackEntry zs w)
      ↔ (∃ w z : ZoneId, z < w ∧ w.val < i.val ∧ RackEntry zs z ∧ RackEntry zs w)
        ∨ (RackEntry zs i ∧ ∃ z : ZoneId, z.val < i.val ∧ RackEntry zs z) := by
  have split := exists_below_succ i fun w => RackEntry zs w ∧ ∃ z : ZoneId, z < w ∧ RackEntry zs z
  constructor
  · rintro ⟨w, z, lower, below, rack_z, rack_w⟩
    exact (split.1 ⟨w, below, rack_w, z, lower, rack_z⟩).imp
      (fun ⟨w, below, rack_w, z, lower, rack_z⟩ => ⟨w, z, lower, below, rack_z, rack_w⟩) id
  · intro h
    obtain ⟨w, below, rack_w, z, lower, rack_z⟩ := split.2 (h.imp
      (fun ⟨w, z, lower, below, rack_z, rack_w⟩ => ⟨w, below, rack_w, z, lower, rack_z⟩) id)
    exact ⟨w, z, lower, below, rack_z, rack_w⟩

section
variable {zs : Table 16 ZoneEntry} {i : ZoneId} {acc : Table 16 Zone × Bool × Bool}

/-- The table after zone i, where zone i takes its own value. -/
theorem ZonesLoaded.put (ih : ZonesLoaded zs i acc) {x : Zone} (value : loadedZone zs i = x) (z : ZoneId)
    (below : z.val < i.val + 1) : (Table.put acc.1 i x).get z = loadedZone zs z := by
  rw [Table.get_put]
  split
  · next same => rw [same, value]
  · next apart => exact ih.below z (Nat.lt_of_le_of_ne (Nat.lt_succ_iff.1 below) fun h => apart (Fin.ext h))

theorem ZonesLoaded.step_bad (ih : ZonesLoaded zs i acc) (bad : badZone (zs.get i) = true) :
    ZonesLoaded zs (i + 1) (loadZoneStep zs acc i) := by
  rw [loadZoneStep, if_pos bad]
  refine ⟨ih.put (by rw [loadedZone, if_pos bad]), iff_of_true rfl (.inl ⟨i, by omega, bad⟩), ?_⟩
  rw [exists_below_succ, ← ih.seen, RackEntry, bad]
  simp

theorem ZonesLoaded.step_second (ih : ZonesLoaded zs i acc) (rack : RackEntry zs i) (seen : acc.2.2 = true) :
    ZonesLoaded zs (i + 1) (loadZoneStep zs acc i) := by
  have lower := ih.seen.1 seen
  have good : ¬ badZone (zs.get i) = true := by rw [rack.1]; nofun
  rw [loadZoneStep, if_neg good, if_pos (by simp [rack.2, seen])]
  refine ⟨ih.put ?_, iff_of_true rfl (.inr ((racks_below_succ zs i).2 (.inr ⟨rack, lower⟩))),
    iff_of_true rfl ⟨i, by omega, rack⟩⟩
  rw [loadedZone, if_neg good, if_pos ⟨rack.2, lower⟩]

theorem ZonesLoaded.step_first (ih : ZonesLoaded zs i acc) (good : badZone (zs.get i) = false)
    (first : ¬ ((zs.get i).kind = some .rack ∧ acc.2.2 = true)) : ZonesLoaded zs (i + 1) (loadZoneStep zs acc i) := by
  have not_bad : ¬ badZone (zs.get i) = true := by rw [good]; nofun
  have none_lower : ¬ ((zs.get i).kind = some .rack ∧ ∃ y < i, RackEntry zs y) :=
    fun ⟨rack, lower⟩ => first ⟨rack, ih.seen.2 lower⟩
  rw [loadZoneStep, if_neg not_bad, if_neg (by simpa using first)]
  refine ⟨ih.put ?_, ?_, ?_⟩
  · rw [loadedZone, if_neg not_bad, if_neg none_lower]
  · exact ih.flag.trans (or_congr ((exists_below_succ i _).trans (or_iff_left not_bad)).symm
      ((racks_below_succ zs i).trans (or_iff_left fun h => none_lower ⟨h.1.2, h.2⟩)).symm)
  · rw [exists_below_succ, ← ih.seen, RackEntry, good]
    simp
end

theorem loadZones_spec (zs : Table 16 ZoneEntry) : (∀ z, (loadZones zs).1.get z = loadedZone zs z)
    ∧ ((loadZones zs).2 = true ↔ (∃ z, badZone (zs.get z) = true) ∨ ∃ w z, z < w ∧ RackEntry zs z ∧ RackEntry zs w) := by
  have loaded : ZonesLoaded zs 16 (allZones.foldl (loadZoneStep zs) (defaultZones, false, false)) := by
    refine foldl_finRange_induction (ZonesLoaded zs) ⟨nofun, by simp, by simp⟩ fun i acc ih => ?_
    by_cases bad : badZone (zs.get i) = true
    · exact ih.step_bad bad
    · have good : badZone (zs.get i) = false := by simpa using bad
      by_cases second : (zs.get i).kind = some .rack ∧ acc.2.2 = true
      · exact ih.step_second ⟨good, second.1⟩ second.2
      · exact ih.step_first good second
  rw [loadZones_eq]
  refine ⟨fun z => loaded.below z z.2, loaded.flag.trans ?_⟩
  simp only [Fin.is_lt, true_and]

theorem defaultZones_get (z : ZoneId) : defaultZones.get z = if z = 0 then Zone.whole else Zone.unused := by
  rw [defaultZones, Table.get_put, get_replicate]

theorem loadedZone_rack {zs : Table 16 ZoneEntry} {z : ZoneId} (rack : (loadedZone zs z).kind = .rack) :
    RackEntry zs z ∧ ∀ y < z, ¬ RackEntry zs y := by
  by_cases bad : badZone (zs.get z) = true
  · rw [loadedZone, if_pos bad, defaultZones_get] at rack
    split at rack <;> cases rack
  · rw [loadedZone, if_neg bad] at rack
    split at rack
    · cases rack
    · next first =>
      have kind : (zs.get z).kind = some .rack := by
        cases e : (zs.get z).kind <;> simp_all [zoneOf]
      exact ⟨⟨by simpa using bad, kind⟩, fun y lower rack_y => first ⟨kind, y, lower, rack_y⟩⟩

/-- Settles O7: the two flat sections field by field, the zones by `loadZones_spec`. -/
theorem sectionsInstalled : Obligations.SectionsInstalled := by
  refine ⟨fun s cal ratio w a => ?calibration, fun s cs scan interval c => ?channels, fun s zs x y => ?zones⟩
  case calibration =>
    have flag : (s.install (.calibration cal ratio w)).2 = (badCalibration cal.a || badCalibration cal.b
        || badRatio ratio.a.1 ratio.a.2 || badRatio ratio.b.1 ratio.b.2 || badWorkpiece w) := by
      simp only [State.install, State.installCalibration, orDefault_snd]
    cases a <;> exact ⟨orDefault_fst _ _ _, orDefault_fst _ _ _, orDefault_fst _ _ _, rfl, flag⟩
  case channels =>
    have length : (scanEntries scan).length = (scan.filter (· ≤ 23)).length := by
      rw [← scanEntries_map_val_eq_filter, List.length_map]
    refine ⟨Table.get_map _ _ _, rfl, List.length_take_le _ _, ?_, ?_⟩
    · rw [← scanEntries_map_val_eq_filter, ← List.map_take]; rfl
    · have scanned : scan.any (fun n => decide (23 < n)) = true ↔ ∃ n ∈ scan, 23 < n := by simp
      simp only [State.install, State.installChannels, Bool.or_eq_true, Table.any_toList, scanned, decide_eq_true_eq,
        length, or_assoc]
  case zones =>
    intro t rack
    obtain ⟨value, flag⟩ := loadZones_spec zs
    have at_zone (z : ZoneId) : t.1.zones.get z = loadedZone zs z := value z
    refine ⟨fun rack_x rack_y => ?_, fun bad => ?_, fun rack_x lower rack_y => ?_, fun kind good named first => ?_, flag⟩
    · rw [at_zone] at rack_x rack_y
      obtain ⟨is_x, above_x⟩ := loadedZone_rack rack_x
      obtain ⟨is_y, above_y⟩ := loadedZone_rack rack_y
      rcases Nat.lt_trichotomy x.val y.val with h | h | h
      · exact absurd is_x (above_y x h)
      · exact Fin.ext h
      · exact absurd is_y (above_x y h)
    · rw [at_zone, loadedZone, if_pos bad, defaultZones_get]
    · rw [at_zone, loadedZone, if_neg (by simp [rack_x.1]), if_pos ⟨rack_x.2, y, lower, rack_y⟩]
    · rw [at_zone, loadedZone, if_neg (by simp [good]), if_neg]
      · simp only [zoneOf, named, Option.getD_some]
      · rintro ⟨is_rack, z, lower, rack_z⟩
        exact first (Option.some.inj (named.symm.trans is_rack)) z lower rack_z

end Sys2Proof.Machine
end

section
/-! PROOFS. What a PROBES, a POCKETS and a SETTINGS section leave (R126, R144, R206, R207). -/
namespace Sys2Proof.Machine
open Sys2Proof.Safety

/-! ### PROBES -/

/-- The record a good stored entry leaves, at a given place. -/
def loadedRecord (e : StoredProbe) (pl : Place) : Probe :=
  let good := decide (e.check = countCheck e.mountCount)
  { place := pl, identity := e.identity, home := e.home.bind (index? 12), reach := e.reach, tau := e.tau, qual := e.qual
    mountCount := if good then e.mountCount else 0, corrupt := !good, guarded := e.guarded, locked := false }

theorem loadProbe_eq (t : Table 32 (Option Probe)) (e : StoredProbe) :
    loadProbe t e = loadedRecord e (if placeTaken t (placeOf e.place) then .lost else placeOf e.place) := rfl

/-- A good stored record below slot i asks for a place. -/
def AskedBelow (es : Table 32 (Option StoredProbe)) (i : Nat) (pl : Place) : Prop :=
  ∃ (m : Slot) (d : StoredProbe), m.val < i ∧ es.get m = some d ∧ badStored d = false ∧ placeOf d.place = pl

theorem askedBelow_succ {es : Table 32 (Option StoredProbe)} (i : Slot) (pl : Place) : AskedBelow es (i + 1) pl
    ↔ AskedBelow es i pl ∨ ∃ d, es.get i = some d ∧ badStored d = false ∧ placeOf d.place = pl := by
  have split := exists_below_succ i fun m => ∃ d, es.get m = some d ∧ badStored d = false ∧ placeOf d.place = pl
  simpa only [AskedBelow, exists_and_left] using split

/-- What a slot holds once its stored record has been loaded. -/
def SlotLoaded (es : Table 32 (Option StoredProbe)) (n : Slot) (r : Option Probe) : Prop :=
  ((es.get n = none ∨ ∃ e, es.get n = some e ∧ badStored e = true) → r = none)
  ∧ ∀ e, es.get n = some e → badStored e = false → ∃ pl, r = some (loadedRecord e pl)
      ∧ (AskedBelow es n (placeOf e.place) → pl = .lost) ∧ (¬ AskedBelow es n (placeOf e.place) → pl = placeOf e.place)

theorem slotLoaded_none {es : Table 32 (Option StoredProbe)} {n : Slot}
    (h : ∀ e, es.get n = some e → badStored e = true) : SlotLoaded es n none :=
  ⟨fun _ => rfl, fun e entry good => absurd (h e entry) (by rw [good]; nofun)⟩

/-- The fold of `loadProbes` after the slots below i. -/
structure ProbesLoaded (es : Table 32 (Option StoredProbe)) (i : Nat) (acc : Table 32 (Option Probe) × Bool) : Prop where
  below : ∀ n : Slot, n.val < i → SlotLoaded es n (acc.1.get n)
  above : ∀ n : Slot, i ≤ n.val → acc.1.get n = none
  taken : ∀ pl, pl ≠ .lost → ((∃ n p, acc.1.get n = some p ∧ p.place = pl) ↔ AskedBelow es i pl)
  flag : acc.2 = true ↔ ∃ n : Slot, n.val < i ∧ ∃ e, es.get n = some e ∧ badStored e = true

theorem placeTaken_iff (t : Table 32 (Option Probe)) (pl : Place) :
    placeTaken t pl = true ↔ pl ≠ .lost ∧ ∃ n p, t.get n = some p ∧ p.place = pl := by
  simp [placeTaken, allSlots, Option.any_eq_true]

section
variable {es : Table 32 (Option StoredProbe)} {i : Slot} {acc : Table 32 (Option Probe) × Bool}

/-- A slot whose stored record is missing or bad stays FREE. -/
theorem ProbesLoaded.step_free (ih : ProbesLoaded es i acc) (free : ∀ e, es.get i = some e → badStored e = true)
    {flag : Bool} (flags : flag = true ↔ acc.2 = true ∨ ∃ e, es.get i = some e ∧ badStored e = true) :
    ProbesLoaded es (i + 1) (acc.1, flag) where
  below n h := by
    rcases Nat.lt_succ_iff_lt_or_eq.1 h with h | h
    · exact ih.below n h
    · obtain rfl : n = i := Fin.ext h
      exact ih.above n (Nat.le_refl _) ▸ slotLoaded_none free
  above n h := ih.above n (by omega)
  taken pl held := by
    rw [ih.taken pl held, askedBelow_succ, or_iff_left]
    rintro ⟨d, entry, good, -⟩
    exact absurd (free d entry) (by rw [good]; nofun)
  flag := by rw [exists_below_succ, ← ih.flag]; exact flags

/-- A good stored record takes its place, unless a lower record has it. -/
theorem ProbesLoaded.step_good (ih : ProbesLoaded es i acc) {e : StoredProbe} (entry : es.get i = some e)
    (good : badStored e = false) : ProbesLoaded es (i + 1) (Table.put acc.1 i (some (loadProbe acc.1 e)), acc.2) := by
  have other {d : StoredProbe} (same : es.get i = some d) : d = e := Option.some.inj (same.symm.trans entry)
  have place_taken : placeTaken acc.1 (placeOf e.place) = true ↔ placeOf e.place ≠ .lost ∧ AskedBelow es i (placeOf e.place) := by
    rw [placeTaken_iff]
    exact and_congr_right fun held => ih.taken _ held
  refine ⟨fun n h => ?_, fun n h => ?_, fun pl held => ?_, ?_⟩
  · rw [Table.get_put]
    split
    · next same =>
      subst same
      refine ⟨?_, fun d same _ => ?_⟩
      · rintro (free | ⟨d, same, bad⟩)
        · exact absurd (free.symm.trans entry) nofun
        · exact absurd bad (by rw [other same, good]; nofun)
      · rw [other same]
        refine ⟨_, congrArg some (loadProbe_eq acc.1 e), fun asked => ?_, fun unasked => ?_⟩
        · by_cases lost : placeOf e.place = .lost
          · rw [lost]; exact ite_self _
          · rw [if_pos (place_taken.2 ⟨lost, asked⟩)]
        · exact if_neg fun h => unasked (place_taken.1 h).2
    · next apart => exact ih.below n (Nat.lt_of_le_of_ne (Nat.lt_succ_iff.1 h) fun same => apart (Fin.ext same))
  · rw [Table.get_put, if_neg (fun same => by subst same; omega)]
    exact ih.above n (by omega)
  · have here : (∃ d, es.get i = some d ∧ badStored d = false ∧ placeOf d.place = pl) ↔ placeOf e.place = pl :=
      ⟨fun ⟨d, same, _, at_pl⟩ => other same ▸ at_pl, fun at_pl => ⟨e, entry, good, at_pl⟩⟩
    rw [askedBelow_succ, here]
    constructor
    · rintro ⟨n, p, slot, at_pl⟩
      dsimp only at slot
      rw [Table.get_put] at slot
      split at slot
      · obtain rfl := Option.some.inj slot
        rw [loadProbe_eq] at at_pl
        by_cases lost : placeTaken acc.1 (placeOf e.place) = true
        · rw [if_pos lost] at at_pl; exact absurd at_pl.symm held
        · rw [if_neg lost] at at_pl; exact .inr at_pl
      · exact .inl ((ih.taken pl held).1 ⟨n, p, slot, at_pl⟩)
    · by_cases asked : AskedBelow es i pl
      · intro _
        obtain ⟨n, p, slot, at_pl⟩ := (ih.taken pl held).2 asked
        have apart : n ≠ i := by
          rintro rfl
          rw [ih.above n (Nat.le_refl _)] at slot
          cases slot
        exact ⟨n, p, by rw [Table.get_put, if_neg apart]; exact slot, at_pl⟩
      · intro h
        have at_pl := h.resolve_left asked
        refine ⟨i, _, Table.get_put_same _ _ _, ?_⟩
        rw [loadProbe_eq, if_neg fun h => asked (at_pl ▸ (place_taken.1 h).2)]
        exact at_pl
  · rw [exists_below_succ, ← ih.flag, or_iff_left]
    rintro ⟨d, same, bad⟩
    exact absurd bad (by rw [other same, good]; nofun)
end

theorem loadProbes_spec (es : Table 32 (Option StoredProbe)) : (∀ n, SlotLoaded es n ((loadProbes es).1.get n))
    ∧ ((loadProbes es).2 = true ↔ ∃ n e, es.get n = some e ∧ badStored e = true) := by
  have loaded : ProbesLoaded es 32 (loadProbes es) := by
    refine foldl_finRange_induction (ProbesLoaded es) ⟨nofun, fun n _ => get_replicate _ n, fun pl _ => ?_, by simp⟩
      fun i acc ih => ?_
    · simp [AskedBelow, get_replicate]
    · cases entry : es.get i with
      | none => exact ih.step_free (by simp [entry]) (by simp [entry])
      | some e =>
        dsimp only
        split
        · next bad => exact ih.step_free (by simp [entry, bad]) (by simp [entry, bad])
        · next good => exact ih.step_good entry (by simpa using good)
  refine ⟨fun n => loaded.below n n.2, loaded.flag.trans ?_⟩
  simp only [Fin.is_lt, true_and]

theorem placeOf_pocket (k : PocketId) : placeOf (.pocket k.val) = .stored k := by
  simp [placeOf, index?_of_lt k.2]

theorem placeOf_eq_stored {e : PlaceEntry} {k : PocketId} (h : placeOf e = .stored k) : e = .pocket k.val := by
  match e with
  | .pocket p =>
    by_cases within : p < 12
    · rw [placeOf, index?_of_lt within] at h
      cases h; rfl
    · rw [placeOf, index?_of_le (by omega : 12 ≤ p)] at h
      cases h
  | .arm (some a) => cases h
  | .arm none => cases h
  | .neither => cases h

theorem placeOf_eq_mounted {e : PlaceEntry} {a : Arm} (h : placeOf e = .mounted a) : e = .arm (some a) := by
  match e with
  | .pocket p =>
    rw [placeOf] at h
    split at h <;> cases h
  | .arm (some b) => cases h; rfl
  | .arm none => cases h
  | .neither => cases h

theorem home_of_good {e : StoredProbe} (good : badStored e = false) (pl : Place) :
    (loadedRecord e pl).home.map (·.val) = e.home := by
  cases home : e.home with
  | none => simp [loadedRecord, home]
  | some h =>
    have within : h ≤ 11 := by
      simp only [badStored, badProbeFields, home, Option.any_some, Bool.or_eq_false_iff, decide_eq_false_iff_not] at good
      omega
    simp [loadedRecord, home, index?_of_lt (by omega : h < 12)]

/-! ### POCKETS -/

/-- One pocket of a POCKETS section. -/
def disableStep (ds : Table 12 Bool) (t : State) (p : PocketId) : State := if ds.get p then t.disablePocket p else t

theorem State.disablePocket_fields (s : State) (p : PocketId) :
    (∀ q, (s.disablePocket p).pockets.get q = if q = p then { s.pockets.get p with state := .disabled } else s.pockets.get q)
    ∧ ∀ n, (s.disablePocket p).probes.get n
        = if s.storedAt p = some n then (s.probes.get n).map fun r => { r with place := .lost } else s.probes.get n := by
  unfold State.disablePocket
  cases at_p : s.storedAt p with
  | none => exact ⟨fun q => get_modPocket _ _ _ _, fun n => by simp⟩
  | some m =>
    refine ⟨fun q => get_modPocket _ _ _ _, fun n => ?_⟩
    refine (get_setProbe _ _ _ _).trans ?_
    by_cases same : n = m
    · rw [if_pos same, if_pos (by rw [same]), same]
    · rw [if_neg same, if_neg fun h => same (Option.some.inj h).symm]

theorem State.storedAt_some {s : State} {k : PocketId} {n : Slot} (at_k : s.storedAt k = some n) :
    ∃ p, s.probes.get n = some p ∧ p.place = .stored k := by
  obtain ⟨p, slot, test⟩ := findProbe_some at_k
  exact ⟨p, slot, by simpa using test⟩

theorem State.storedAt_exists {s : State} {k : PocketId} {n : Slot} {p : Probe} (slot : s.probes.get n = some p)
    (at_k : p.place = .stored k) : ∃ m, s.storedAt k = some m := by
  cases found : s.storedAt k with
  | some m => exact ⟨m, rfl⟩
  | none => exact absurd (findProbe_none found slot) (by simp [at_k])

/-- No other record stands in the pocket of a slot's record. -/
def LoneInPocket (s : State) (n : Slot) : Prop := ∀ (m : Slot) (p q : Probe) (k : PocketId), s.probes.get n = some p →
  s.probes.get m = some q → p.place = .stored k → q.place = .stored k → n = m

/-- The fold of a POCKETS section after the pockets below i. -/
structure PocketsLoaded (s : State) (ds : Table 12 Bool) (i : Nat) (t : State) : Prop where
  disabled : ∀ k : PocketId, k.val < i → ds.get k = true → (t.pockets.get k).state = .disabled
  others : ∀ k : PocketId, (ds.get k = false ∨ i ≤ k.val) → t.pockets.get k = s.pockets.get k
  free : ∀ n, s.probes.get n = none → t.probes.get n = none
  earlier : ∀ n p k, t.probes.get n = some p → p.place = .stored k → s.probes.get n = some p
  lone : ∀ n p, s.probes.get n = some p → LoneInPocket s n →
    ((∃ k : PocketId, k.val < i ∧ ds.get k = true ∧ p.place = .stored k) → t.probes.get n = some { p with place := .lost })
    ∧ ((∀ k : PocketId, k.val < i → ds.get k = true → p.place ≠ .stored k) → t.probes.get n = some p)

theorem PocketsLoaded.step_disabled {s t : State} {ds : Table 12 Bool} {i : PocketId} (ih : PocketsLoaded s ds i t)
    (asked : ds.get i = true) : PocketsLoaded s ds (i + 1) (t.disablePocket i) := by
  obtain ⟨pockets, records⟩ := t.disablePocket_fields i
  refine ⟨fun k h is => ?_, fun k h => ?_, fun n slot => ?_, fun n p k slot at_k => ?_, fun n p slot lone => ⟨?_, ?_⟩⟩
  · rw [pockets]
    split
    · rfl
    · next apart => exact ih.disabled k (Nat.lt_of_le_of_ne (Nat.lt_succ_iff.1 h) fun same => apart (Fin.ext same)) is
  · have apart : k ≠ i := by
      rintro rfl
      rcases h with off | above
      · rw [off] at asked; cases asked
      · omega
    rw [pockets, if_neg apart]
    exact ih.others k (h.imp_right fun above => by omega)
  · rw [records, ih.free n slot]; exact ite_self _
  · rw [records] at slot
    split at slot
    · obtain ⟨q, -, rfl⟩ := Option.map_eq_some_iff.1 slot
      cases at_k
    · exact ih.earlier n p k slot at_k
  · rintro ⟨k, below, is, at_k⟩
    rw [records]
    rcases Nat.lt_succ_iff_lt_or_eq.1 below with h | h
    · rw [(ih.lone n p slot lone).1 ⟨k, h, is, at_k⟩]
      exact ite_self _
    · obtain rfl : k = i := Fin.ext h
      have still : t.probes.get n = some p := by
        refine (ih.lone n p slot lone).2 fun j j_below _ at_j => ?_
        obtain rfl : k = j := Place.stored.inj (at_k.symm.trans at_j)
        omega
      obtain ⟨m, found⟩ := State.storedAt_exists still at_k
      obtain ⟨q, slot_m, q_at⟩ := State.storedAt_some found
      obtain rfl : n = m := lone m p q k slot (ih.earlier m q k slot_m q_at) at_k q_at
      rw [if_pos found, still]
      rfl
  · intro elsewhere
    have still := (ih.lone n p slot lone).2 fun k below is => elsewhere k (by omega) is
    rw [records, if_neg, still]
    intro found
    obtain ⟨q, slot_n, q_at⟩ := State.storedAt_some found
    obtain rfl : p = q := Option.some.inj (still.symm.trans slot_n)
    exact elsewhere i (by omega) asked q_at

theorem installPockets_spec (s : State) (ds : Table 12 Bool) : PocketsLoaded s ds 12 (s.installPockets ds) := by
  show PocketsLoaded s ds 12 (allPockets.foldl (disableStep ds) s)
  refine foldl_finRange_induction (PocketsLoaded s ds)
    ⟨nofun, fun _ _ => rfl, fun _ h => h, fun _ _ _ h _ => h, fun n p slot _ => ⟨nofun, fun _ => slot⟩⟩ fun i t ih => ?_
  rw [disableStep]
  split
  · next asked => exact ih.step_disabled asked
  · next off =>
    have off : ds.get i = false := by simpa using off
    have not_here {k : PocketId} (below : k.val < i.val + 1) (is : ds.get k = true) : k.val < i.val := by
      refine Nat.lt_of_le_of_ne (Nat.lt_succ_iff.1 below) fun same => ?_
      rw [Fin.ext same, off] at is
      cases is
    refine ⟨fun k below is => ih.disabled k (not_here below is) is, fun k h => ih.others k ?_, ih.free, ih.earlier,
      fun n p slot lone => ⟨?_, fun elsewhere => ?_⟩⟩
    · exact h.imp_right fun above => by omega
    · rintro ⟨k, below, is, at_k⟩
      exact (ih.lone n p slot lone).1 ⟨k, not_here below is, is, at_k⟩
    · exact (ih.lone n p slot lone).2 fun k below => elsewhere k (by omega)

theorem loneInPocket_of_tables {s : State} (tables : Tables s) (n : Slot) : LoneInPocket s n := by
  intro m p q k slot_n slot_m p_at q_at
  have h := (tables.1 k n).2 ⟨p, slot_n, p_at⟩
  rw [(tables.1 k m).2 ⟨q, slot_m, q_at⟩] at h
  exact (PocketState.occupied.inj h).symm

/-! ### SETTINGS -/

theorem idMatch_symm {m : MatchMode} {x y : Nat} (h : idMatch m x y = true) : idMatch m y x = true := by
  cases m <;> simp only [idMatch, decide_eq_true_eq] at * <;> exact h.symm

theorem idMatch_trans {m : MatchMode} {x y z : Nat} (h : idMatch m x y = true) (h' : idMatch m y z = true) :
    idMatch m x z = true := by
  cases m <;> simp only [idMatch, decide_eq_true_eq] at * <;> exact h.trans h'

/-- A lower slot's record matches an identity. -/
def Lower (s : State) (n : Slot) (p : Probe) : Prop := ∃ (m : Slot) (q : Probe), m < n ∧ s.probes.get m = some q
  ∧ idMatch s.settings.matchMode q.identity p.identity = true

theorem State.lowerMatch_iff (s : State) (n : Slot) : s.lowerMatch n = true ↔ ∃ p, s.probes.get n = some p ∧ Lower s n p := by
  simp only [lowerMatch, allSlots, List.any_eq_true, List.mem_finRange, true_and, Bool.and_eq_true, decide_eq_true_eq,
    Option.any_eq_true, Lower]
  constructor
  · rintro ⟨m, lower, q, slot_m, p, slot_n, same⟩; exact ⟨p, slot_n, m, q, lower, slot_m, same⟩
  · rintro ⟨p, slot_n, m, q, lower, slot_m, same⟩; exact ⟨m, lower, q, slot_m, p, slot_n, same⟩

theorem State.dropDuplicate_kept {s : State} {n : Slot} (h : s.lowerMatch n = false) : s.dropDuplicate n = s := by
  rw [dropDuplicate, h]; rfl

theorem State.dropDuplicate_dropped {s : State} {n : Slot} (h : s.lowerMatch n = true) :
    ∃ ks, s.dropDuplicate n = { s with probes := Table.put s.probes n none, pockets := ks }
      ∧ (∀ k, ks.get k = s.pockets.get k ∨ (ks.get k).state = .empty)
      ∧ ∀ p k, s.probes.get n = some p → p.place = .stored k → (ks.get k).state = .empty := by
  rw [dropDuplicate, if_pos h]
  cases slot : s.probes.get n with
  | none => exact ⟨s.pockets, rfl, fun _ => .inl rfl, fun p k h => by cases h⟩
  | some p =>
    cases place : p.place with
    | stored j =>
      refine ⟨Table.put s.pockets j { s.pockets.get j with state := .empty }, ?_, fun k => ?_, fun q k same at_k => ?_⟩
      · simp only [Option.map_some, place]; rfl
      · rw [Table.get_put]; split
        · exact .inr rfl
        · exact .inl rfl
      · obtain rfl := Option.some.inj same
        obtain rfl : j = k := Place.stored.inj (place.symm.trans at_k)
        rw [Table.get_put_same]
    | _ =>
      refine ⟨s.pockets, ?_, fun _ => .inl rfl, fun q k same at_k => ?_⟩
      · simp only [Option.map_some, place]; rfl
      · obtain rfl := Option.some.inj same
        rw [place] at at_k; cases at_k

/-- The fold of `dropDuplicate` after the slots below i. -/
structure DuplicatesDropped (s : State) (i : Nat) (t : State) : Prop where
  fields : t = { s with probes := t.probes, pockets := t.pockets }
  kept : ∀ n p, s.probes.get n = some p → (i ≤ n.val ∨ ¬ Lower s n p) → t.probes.get n = some p
  dropped : ∀ n p, s.probes.get n = some p → n.val < i → Lower s n p →
    t.probes.get n = none ∧ ∀ k, p.place = .stored k → (t.pockets.get k).state = .empty
  free : ∀ n, s.probes.get n = none → t.probes.get n = none

/-- Of the records that match one, the lowest has no lower match itself. -/
theorem Lower.lowest {s : State} : ∀ {n : Slot} {p : Probe}, Lower s n p → ∃ (m : Slot) (q : Probe), m < n
    ∧ s.probes.get m = some q ∧ idMatch s.settings.matchMode q.identity p.identity = true ∧ ¬ Lower s m q := by
  intro n
  induction below : n.val using Nat.strongRecOn generalizing n with
  | ind v ih =>
    rintro p ⟨m, q, lower, slot, same⟩
    by_cases again : Lower s m q
    · obtain ⟨k, r, lower', slot', same', lowest⟩ := ih m.val (below ▸ lower) rfl again
      exact ⟨k, r, Nat.lt_trans lower' lower, slot', idMatch_trans same' same, lowest⟩
    · exact ⟨m, q, lower, slot, same, again⟩

section
variable {s t : State} {i : Slot}

/-- The slot being judged has a lower match now exactly when it had one before the fold. -/
theorem DuplicatesDropped.lower_iff (ih : DuplicatesDropped s i t) {p : Probe} (slot : s.probes.get i = some p) :
    t.lowerMatch i = true ↔ Lower s i p := by
  have settings : t.settings = s.settings := by rw [ih.fields]
  have here : t.probes.get i = some p := ih.kept i p slot (.inl (Nat.le_refl _))
  rw [State.lowerMatch_iff]
  constructor
  · rintro ⟨p', slot', m, q, lower, slot_m, same⟩
    obtain rfl : p = p' := Option.some.inj (here.symm.trans slot')
    cases was : s.probes.get m with
    | none => rw [ih.free m was] at slot_m; cases slot_m
    | some r =>
      by_cases low : Lower s m r
      · rw [(ih.dropped m r was lower low).1] at slot_m; cases slot_m
      · rw [ih.kept m r was (.inr low)] at slot_m
        obtain rfl := Option.some.inj slot_m
        exact ⟨m, r, lower, was, settings ▸ same⟩
  · intro low
    obtain ⟨m, q, lower, slot_m, same, lowest⟩ := low.lowest
    exact ⟨p, here, m, q, lower, ih.kept m q slot_m (.inr lowest), settings ▸ same⟩

theorem DuplicatesDropped.step (ih : DuplicatesDropped s i t) : DuplicatesDropped s (i + 1) (t.dropDuplicate i) := by
  by_cases low : t.lowerMatch i = true
  · obtain ⟨ks, fields, pockets, own⟩ := State.dropDuplicate_dropped low
    have probes (n : Slot) : (t.dropDuplicate i).probes.get n = if n = i then none else t.probes.get n := by
      rw [fields]; exact Table.get_put _ _ _ _
    refine ⟨by rw [fields, ih.fields], fun n p slot h => ?_, fun n p slot below lower => ?_, fun n slot => ?_⟩
    · have apart : n ≠ i := by
        rintro rfl
        exact h.elim (fun above => by omega) fun h => h ((ih.lower_iff slot).1 low)
      rw [probes, if_neg apart]
      exact ih.kept n p slot (h.imp_left fun above => by omega)
    · by_cases same : n = i
      · subst same
        refine ⟨by rw [probes, if_pos rfl], fun k at_k => ?_⟩
        rw [fields]
        exact own p k (ih.kept n p slot (.inl (Nat.le_refl _))) at_k
      · have below : n.val < i.val := Nat.lt_of_le_of_ne (Nat.lt_succ_iff.1 below) fun h => same (Fin.ext h)
        obtain ⟨gone, emptied⟩ := ih.dropped n p slot below lower
        refine ⟨by rw [probes, if_neg same, gone], fun k at_k => ?_⟩
        rw [fields]
        exact (pockets k).elim (fun kept => kept ▸ emptied k at_k) id
    · rw [probes, ih.free n slot]; exact ite_self _
  · have unmatched : t.lowerMatch i = false := by simpa using low
    rw [State.dropDuplicate_kept unmatched]
    refine ⟨ih.fields, fun n p slot h => ?_, fun n p slot below lower => ih.dropped n p slot ?_ lower, ih.free⟩
    · exact ih.kept n p slot (h.imp_left fun above => by omega)
    · refine Nat.lt_of_le_of_ne (Nat.lt_succ_iff.1 below) fun h => low ?_
      obtain rfl : n = i := Fin.ext h
      exact (ih.lower_iff slot).2 lower
end

theorem dropDuplicates_spec (s : State) : DuplicatesDropped s 32 (allSlots.foldl State.dropDuplicate s) :=
  foldl_finRange_induction (f := State.dropDuplicate) (b := s) (DuplicatesDropped s)
    ⟨rfl, fun _ _ slot _ => slot, fun _ _ _ below => absurd below (Nat.not_lt_zero _), fun _ slot => slot⟩
    fun _ _ ih => ih.step

/-- What a SETTINGS section leaves: the settings and masks first, then the records without a lower match, LOCKED as
asked. -/
theorem installSettings_spec (s : State) (e : SettingsEntry) : ∃ u,
    DuplicatesDropped (s.putSettings (loadSettings e).1 e.maskA e.maskB e.maskS) 32 u
    ∧ (s.install (.settings e)).1
      = { u with probes := u.probes.map fun p => p.map fun q => { q with locked := (loadSettings e).1.startLocked } } :=
  ⟨_, dropDuplicates_spec _, rfl⟩

theorem State.putSettings_attn (s : State) (v : Settings) (a b c : List Notice) (l : Link) :
    ((s.putSettings v a b c).links.get l).attn
      = attnOf ((s.putSettings v a b c).links.get l).flags ((s.putSettings v a b c).links.get l).mask := by
  cases l <;> rfl

/-- Settles O8: the three sections by their folds (`loadProbes_spec`, `installPockets_spec`, `installSettings_spec`). -/
theorem probesInstalled : Obligations.ProbesInstalled := by
  refine ⟨fun s es => ?probes, fun s ds k n p => ?disabled, fun s ds => ?pockets, fun s e => ?settings,
    fun s e m n p q => ?kept⟩
  case probes =>
    obtain ⟨slots, flag⟩ := loadProbes_spec es
    refine ⟨loadProbes_apart es, fun n k => (Tables_installProbes s es).1 k n, fun n e p entry slot differs => ?_, fun n => (slots n).1, flag,
      fun n e entry good => ?_⟩
    · have good : badStored e = false := by
        rw [← Bool.not_eq_true]
        intro bad
        exact absurd (((slots n).1 (.inr ⟨e, entry, bad⟩)).symm.trans slot) nofun
      obtain ⟨pl, record, -⟩ := (slots n).2 e entry good
      obtain rfl := Option.some.inj (record.symm.trans slot)
      simp [loadedRecord, differs]
    · obtain ⟨pl, record, lost, placed⟩ := (slots n).2 e entry good
      refine ⟨_, record, rfl, home_of_good good pl, rfl, rfl, rfl, rfl, fun agrees => by simp [loadedRecord, agrees],
        ?_, fun untaken => ?_⟩
      · rintro ⟨m, d, lower, entry_m, good_m, same⟩
        exact lost ⟨m, d, lower, entry_m, good_m, by rw [same]⟩
      · refine ⟨fun k at_k => ?_, fun a on_a => ?_⟩
        · have asked : placeOf e.place = .stored k := by rw [at_k, placeOf_pocket]
          refine (placed ?_).trans asked
          rintro ⟨m, d, lower, entry_m, good_m, same⟩
          exact untaken ⟨m, d, lower, entry_m, good_m, by rw [at_k, placeOf_eq_stored (same.trans asked)]⟩
        · have asked : placeOf e.place = .mounted a := by rw [on_a]; rfl
          refine (placed ?_).trans asked
          rintro ⟨m, d, lower, entry_m, good_m, same⟩
          exact untaken ⟨m, d, lower, entry_m, good_m, by rw [on_a, placeOf_eq_mounted (same.trans asked)]⟩
  case disabled =>
    intro t asked
    have spec := installPockets_spec s ds
    refine ⟨spec.disabled k k.2 asked, fun unique slot at_k => ?_⟩
    have slot_s := spec.earlier n p k slot at_k
    have lone : LoneInPocket s n := fun m q r j slot_n slot_m q_at r_at =>
      unique m q r slot_n slot_m (q_at.trans r_at.symm) (by rw [q_at]; nofun)
    rw [show t.probes.get n = _ from (spec.lone n p slot_s lone).1 ⟨k, k.2, asked, at_k⟩] at slot
    rw [← Option.some.inj slot] at at_k
    cases at_k
  case pockets =>
    have spec := installPockets_spec s ds
    refine ⟨fun k off => spec.others k (.inl off), spec.free, fun n p tables slot => ⟨?_, fun elsewhere => ?_⟩⟩
    · rintro ⟨k, is, at_k⟩
      exact (spec.lone n p slot (loneInPocket_of_tables tables n)).1 ⟨k, k.2, is, at_k⟩
    · refine (spec.lone n p slot (loneInPocket_of_tables tables n)).2 fun k _ is at_k => ?_
      rw [elsewhere k at_k] at is
      cases is
  case settings =>
    intro t
    obtain ⟨u, spec, installed⟩ := installSettings_spec s e
    have settings : t.settings = (loadSettings e).1 := by
      show (s.install (.settings e)).1.settings = _
      rw [installed, spec.fields]; rfl
    have record (n : Slot) : t.probes.get n
        = (u.probes.get n).map fun q => { q with locked := t.settings.startLocked } := by
      rw [settings]
      show (s.install (.settings e)).1.probes.get n = _
      rw [installed]
      exact Table.get_map _ _ _
    refine ⟨fun n slot => by rw [record, spec.free n slot]; rfl, fun n p slot => ?_⟩
    intro lower
    have same : lower ↔ Lower (s.putSettings (loadSettings e).1 e.maskA e.maskB e.maskS) n p := by
      simp only [lower, settings]; rfl
    refine ⟨fun alone => ?_, fun low => ?_⟩
    · rw [record, spec.kept n p slot (.inr (mt same.2 alone))]; rfl
    · obtain ⟨gone, emptied⟩ := spec.dropped n p slot n.2 (same.1 low)
      refine ⟨by rw [record, gone]; rfl, fun _ k at_k => ?_⟩
      show ((s.install (.settings e)).1.pockets.get k).state = _
      rw [installed]
      exact emptied k at_k
  case kept =>
    intro t slot_m slot_n
    obtain ⟨u, spec, installed⟩ := installSettings_spec s e
    have kept {n : Slot} {p : Probe} (slot : t.probes.get n = some p) : p.locked = (loadSettings e).1.startLocked
        ∧ ∃ q, s.probes.get n = some q ∧ q.identity = p.identity
          ∧ ¬ Lower (s.putSettings (loadSettings e).1 e.maskA e.maskB e.maskS) n q := by
      rw [show t = _ from installed, Table.get_map] at slot
      obtain ⟨q, in_u, rfl⟩ := Option.map_eq_some_iff.1 slot
      cases was : s.probes.get n with
      | none => rw [spec.free n was] at in_u; cases in_u
      | some r =>
        by_cases low : Lower (s.putSettings (loadSettings e).1 e.maskA e.maskB e.maskS) n r
        · rw [(spec.dropped n r was n.2 low).1] at in_u; cases in_u
        · rw [spec.kept n r was (.inr low)] at in_u
          obtain rfl := Option.some.inj in_u
          exact ⟨rfl, r, rfl, rfl, low⟩
    have settings : t.settings = (loadSettings e).1 := by
      rw [show t = _ from installed, spec.fields]; rfl
    have links : t.links = (s.putSettings (loadSettings e).1 e.maskA e.maskB e.maskS).links := by
      rw [show t = _ from installed, spec.fields]
    obtain ⟨locked, p', was_m, same_p, alone_m⟩ := kept slot_m
    obtain ⟨-, q', was_n, same_q, alone_n⟩ := kept slot_n
    refine ⟨settings ▸ locked, fun apart => ?_, fun l => ?_⟩
    · rw [← Bool.not_eq_true, settings, ← same_p, ← same_q]
      intro same
      rcases Nat.lt_or_gt_of_ne (Fin.val_ne_of_ne apart) with lower | lower
      · exact alone_n ⟨m, p', lower, was_m, same⟩
      · exact alone_m ⟨n, q', lower, was_n, idMatch_symm same⟩
    · rw [links]
      exact State.putSettings_attn s _ _ _ _ l

end Sys2Proof.Machine
end

section
/-! PROOFS. A flush (R74, R97), the edits of the probe table (R130 to R133), the guards and QUALIFY (R134 to R136). -/
namespace Sys2Proof.Machine
open Sys2Proof.Safety

/-! ### A flush -/

theorem flush_nil {s : State} {a : Arm} (empty : (s.motion.get a).queue = []) : flush a s = (s, []) := by
  simp only [flush, empty]

theorem flush_cons {s : State} {a : Arm} {h : Segment} {rest : List Segment} (queue : (s.motion.get a).queue = h :: rest)
    (settled : (s.motion.get a).phase ≠ .waiting .zone) : flush a s
      = ((s.modMotion a fun m => { m with queue := [], geometry := none }).addResult a h.tag .flushed
          (some (rest.length + 1)), []) := by
  simp only [flush, queue, if_neg settled, List.length_cons]

/-- Settles O38: the two cases of a flush, the results by the rule of eight. -/
theorem flushRecordsOne : Obligations.FlushRecordsOne := by
  refine fun a s => ⟨flush_nil, fun h rest queue settled => ?_⟩
  intro all
  refine ⟨all.drop (all.length - 8), ?_, fun room => ?_, fun full => ?_⟩
  · rw [flush_cons queue settled]
    cases a <;> rfl
  · rw [show all.length - 8 = 0 by simp [all]; omega]
    exact List.drop_zero
  · rw [show all.length - 8 = 1 by simp [all]; omega]
    exact List.drop_one

/-! ### Requests that name a record -/

section
variable {s : State} {l : Link} {n : Nat} {f : Slot → Probe → State}

theorem onRecord_above (above : 31 < n) : s.onRecord l n f = s.respond l .badArgument := by
  simp only [State.onRecord, index?_of_le (by omega : 32 ≤ n)]

theorem onRecord_free (h : n < 32) (free : s.probes.get ⟨n, h⟩ = none) : s.onRecord l n f = s.respond l .notFound := by
  simp only [State.onRecord, index?_of_lt h, free]

theorem onRecord_at (h : n < 32) {p : Probe} (slot : s.probes.get ⟨n, h⟩ = some p) :
    s.onRecord l n f = f ⟨n, h⟩ p := by
  simp only [State.onRecord, index?_of_lt h, slot]
end

/-! ### While no arm waits, cascades of zone work stay within the zone fields -/

theorem runTasks_contained {w : Nat} : ∀ {ts : List Task} {n : Nat} {s : State}, s.waiters = [] →
    (∀ t ∈ ts, Contained w t) → w * ts.length ≤ n → ExceptZones s (runTasks n ts s)
  | [], n, s, _, _, _ => by rw [runTasks_nil]; exact ExceptZones_refl s
  | t :: ts, n, s, unawaited, contained, room => by
    rw [List.length_cons, Nat.mul_succ] at room
    obtain ⟨s', m, low, -, kept, run⟩ := run_contained (contained t (List.mem_cons_self ..)) unawaited n (by omega) ts
    rw [run]
    exact ExceptZones_trans kept (runTasks_contained (by rw [ExceptZones_waiters kept, unawaited])
      (fun u mem => contained u (List.mem_cons_of_mem _ mem)) (by omega))

theorem remount_recomputes {s t : State} : (∀ k ∈ remount s t, Contained 4 k) ∧ (remount s t).length ≤ 2 := by
  unfold remount
  constructor
  · intro k mem
    rcases List.mem_append.1 mem with mem | mem <;> split at mem <;> simp only [List.mem_singleton, List.not_mem_nil] at mem
    · exact mem ▸ recompute_contained .A
    · exact mem ▸ recompute_contained .B
  · rw [List.length_append]
    split <;> split <;> simp

theorem settle_remount {s t u : State} (unawaited : u.waiters = []) : ExceptZones u (settle (u, remount s t)) := by
  obtain ⟨contained, two⟩ := remount_recomputes (s := s) (t := t)
  have room : 4 * (remount s t).length ≤ cascadeBound := by rw [cascadeBound]; omega
  exact runTasks_contained unawaited contained room

/-! ### Editing the table -/

theorem badProbeFields_iff (reach tau : Nat) (home : Option Nat) : badProbeFields reach tau home = true
    ↔ 8000000 < reach ∨ 4095 < tau ∨ ∃ h, home = some h ∧ 11 < h := by
  simp only [badProbeFields, Bool.or_eq_true, decide_eq_true_eq, Option.any_eq_true, or_assoc]

/-- The home pocket a good payload names. -/
theorem home_map_val {home : Option Nat} (good : ¬ ∃ h, home = some h ∧ 11 < h) :
    (home.bind (index? 12)).map (·.val) = home := by
  cases home with
  | none => rfl
  | some h =>
    have within : h < 12 := by
      refine Classical.byContradiction fun above => ?_
      exact good ⟨h, rfl, by omega⟩
    simp [index?_of_lt within]

theorem inventoryRuns_of_ne {s : State} (runs : s.inventory ≠ .idle) : s.inventoryRuns = true := by
  cases e : s.inventory <;> simp_all [State.inventoryRuns]

theorem inventoryRuns_of_idle {s : State} (idle : s.inventory = .idle) : s.inventoryRuns = false := by
  simp [State.inventoryRuns, idle]

section
variable {s : State} {l : Link} (idle : s.save = .idle)

theorem writeProbe_saving {e : ProbeEntry} (saving : s.save ≠ .idle) : writeProbe l e s = s.respond l .saveInProgress :=
  checked_first (saving_of_ne saving)

include idle

theorem writeProbe_bad {e : ProbeEntry} (bad : 31 < e.slot ∨ badProbeFields e.reach e.tau e.home = true) :
    writeProbe l e s = s.respond l .badArgument := by
  refine (checked_next (saving_of_idle idle)).trans ?_
  cases fields : badProbeFields e.reach e.tau e.home with
  | true => exact checked_first rfl
  | false =>
    refine (checked_next rfl).trans ?_
    have above := bad.resolve_right (by rw [fields]; nofun)
    simp only [checked_nil, index?_of_le (by omega : 32 ≤ e.slot)]

section
variable {e : ProbeEntry} (h : e.slot < 32) (good : badProbeFields e.reach e.tau e.home = false)
include good

theorem writeProbe_free (free : s.probes.get ⟨e.slot, h⟩ = none) : writeProbe l e s = s.respond l .notFound := by
  refine (checked_next (saving_of_idle idle)).trans ((checked_next good).trans ?_)
  simp only [checked_nil, index?_of_lt h, free]

theorem writeProbe_transit {p : Probe} {a : Arm} (slot : s.probes.get ⟨e.slot, h⟩ = some p)
    (away : p.place = .inTransit a) : writeProbe l e s = s.respond l .wrongState := by
  refine (checked_next (saving_of_idle idle)).trans ((checked_next good).trans ?_)
  simp only [checked_nil, index?_of_lt h, slot, away]

theorem writeProbe_accepted {p : Probe} (slot : s.probes.get ⟨e.slot, h⟩ = some p) (present : ∀ a, p.place ≠ .inTransit a) :
    let s1 := s.setProbe ⟨e.slot, h⟩ (some { p with reach := e.reach, tau := e.tau, home := e.home.bind (index? 12) })
    writeProbe l e s = settle (s1.respond l .ok, remount s s1) := by
  refine (checked_next (saving_of_idle idle)).trans ((checked_next good).trans ?_)
  simp only [checked_nil, index?_of_lt h, slot]
end
end

/-- The first two checks of RETIRE PROBE and WRITE POCKET. -/
theorem checked_saving_inventory {s : State} (idle : s.save = .idle) (rests : s.inventory = .idle) {l : Link}
    {f : State → State} :
    s.checked l [(s.saving, .saveInProgress), (s.inventoryRuns, .wrongState)] f = f s :=
  (checked_next (saving_of_idle idle)).trans (checked_next (inventoryRuns_of_idle rests))

theorem checked_inventory {s : State} (idle : s.save = .idle) (runs : s.inventory ≠ .idle) {l : Link}
    {checks : List (Bool × Code)} {f : State → State} :
    s.checked l ((s.saving, .saveInProgress) :: (s.inventoryRuns, .wrongState) :: checks) f = s.respond l .wrongState :=
  (checked_next (saving_of_idle idle)).trans (checked_first (inventoryRuns_of_ne runs))

section
variable {s : State} {l : Link} {n : Nat} (idle : s.save = .idle) (rests : s.inventory = .idle) (h : n < 32) {p : Probe}
  (slot : s.probes.get ⟨n, h⟩ = some p)
include idle rests slot

theorem retireProbe_at : retireProbe l n s
    = s.checked l [(p.guarded, .guarded), (!p.place.retirable, .wrongState)] fun s =>
        (s.retire ⟨n, h⟩ p).respond l .ok :=
  (checked_saving_inventory idle rests).trans (onRecord_at h slot)

theorem retireProbe_guarded (guarded : p.guarded = true) : retireProbe l n s = s.respond l .guarded :=
  (retireProbe_at idle rests h slot).trans (checked_first guarded)

theorem retireProbe_in_use (open_ : p.guarded = false) (kept : ∀ k, p.place ≠ .stored k) (known : p.place ≠ .lost) :
    retireProbe l n s = s.respond l .wrongState := by
  refine (retireProbe_at idle rests h slot).trans ((checked_next open_).trans (checked_first ?_))
  cases place : p.place with
  | stored k => exact absurd place (kept k)
  | lost => exact absurd place known
  | _ => rfl

theorem retireProbe_retires (open_ : p.guarded = false) (retirable : p.place.retirable = true) :
    retireProbe l n s = (s.retire ⟨n, h⟩ p).respond l .ok :=
  (retireProbe_at idle rests h slot).trans ((checked_next open_).trans (checked_next (by rw [retirable]; rfl)))
end

theorem State.retire_lost {s : State} {n : Slot} {p : Probe} (lost : p.place = .lost) : s.retire n p = s.setProbe n none := by
  simp only [retire, lost]

theorem State.retire_stored {s : State} {n : Slot} {p : Probe} {k : PocketId} (at_k : p.place = .stored k) :
    s.retire n p = (s.setProbe n none).modPocket k fun x => { x with state := .empty, unexpected := x.level } := by
  simp only [retire, at_k]
  rfl

section
variable {s : State} {l : Link} {n : Nat} (idle : s.save = .idle) (rests : s.inventory = .idle)
include idle rests

theorem writePocket_above (above : 11 < n) (use : Option PocketUse) : writePocket l n use s = s.respond l .badArgument := by
  refine (checked_saving_inventory idle rests).trans ?_
  simp only [index?_of_le (by omega : 12 ≤ n)]

theorem writePocket_no_use : writePocket l n none s = s.respond l .badArgument := by
  refine (checked_saving_inventory idle rests).trans ?_
  cases index? 12 n <;> rfl

variable (h : n < 12)

theorem writePocket_held (held : (s.pockets.get ⟨n, h⟩).state = .reserved ∨ ∃ m, (s.pockets.get ⟨n, h⟩).state = .occupied m)
    (v : PocketUse) : writePocket l n (some v) s = s.respond l .inUse := by
  refine (checked_saving_inventory idle rests).trans ?_
  rcases held with state | ⟨m, state⟩ <;> simp only [index?_of_lt h, state]

theorem writePocket_disables (state : (s.pockets.get ⟨n, h⟩).state = .empty) : writePocket l n (some .disabled) s
    = (s.modPocket ⟨n, h⟩ fun k => { k with state := .disabled, unexpected := false }).respond l .ok := by
  refine (checked_saving_inventory idle rests).trans ?_
  simp only [index?_of_lt h, state]

theorem writePocket_enables (state : (s.pockets.get ⟨n, h⟩).state = .disabled) : writePocket l n (some .enabled) s
    = (s.modPocket ⟨n, h⟩ fun k => { k with state := .empty, unexpected := k.level }).respond l .ok := by
  refine (checked_saving_inventory idle rests).trans ?_
  simp only [index?_of_lt h, state]
  rfl

theorem writePocket_same {v : PocketUse} (state : ((s.pockets.get ⟨n, h⟩).state = .empty ∧ v = .enabled)
      ∨ (s.pockets.get ⟨n, h⟩).state = .disabled ∧ v = .disabled) : writePocket l n (some v) s = s.respond l .ok := by
  refine (checked_saving_inventory idle rests).trans ?_
  rcases state with ⟨state, rfl⟩ | ⟨state, rfl⟩ <;> simp only [index?_of_lt h, state]
end

theorem badRegister_pocket_iff {e : RegisterEntry} {p : Nat} (at_p : e.place = .pocket p) : badRegister e = true
    ↔ e.identity < 1 ∨ 4294967294 < e.identity ∨ 8000000 < e.reach ∨ 4095 < e.tau
      ∨ (∃ h, e.home = some h ∧ 11 < h) ∨ 11 < p := by
  simp only [badRegister, badIdentity, Bool.or_eq_true, outsideNat_iff, badProbeFields_iff, badPlace, at_p,
    decide_eq_true_eq, or_assoc]

theorem matching_isSome_iff (s : State) (code : Nat) : (s.matching code).isSome = true
    ↔ ∃ n q, s.probes.get n = some q ∧ idMatch s.settings.matchMode q.identity code = true := by
  cases found : s.matching code with
  | none =>
    refine iff_of_false nofun ?_
    rintro ⟨n, q, slot, same⟩
    exact absurd (findProbe_none found slot) (by simp [same])
  | some n =>
    obtain ⟨q, slot, same⟩ := findProbe_some found
    exact iff_of_true rfl ⟨n, q, slot, same⟩

theorem freeSlot_eq_none {s : State} (full : ∀ n, s.probes.get n ≠ none) : s.freeSlot = none := by
  rw [State.freeSlot, List.find?_eq_none]
  intro n _
  simpa [Option.isNone_iff_eq_none] using full n

theorem freeSlot_eq_some {s : State} {n : Slot} (free : s.probes.get n = none) (lowest : ∀ m, m < n → s.probes.get m ≠ none) :
    s.freeSlot = some n := by
  rw [State.freeSlot, List.find?_eq_some_iff_getElem]
  refine ⟨by simp [free], n.val, by simp [allSlots], by simp [allSlots], fun j below => ?_⟩
  simpa [allSlots, Option.isSome_iff_ne_none] using lowest ⟨j, by omega⟩ below

section
variable {s : State} {l : Link} {e : RegisterEntry} (idle : s.save = .idle) (rests : s.inventory = .idle)
include idle rests

theorem registerProbe_bad (bad : badRegister e = true) : registerProbe l e s = s.respond l .badArgument :=
  (checked_next (saving_of_idle idle)).trans ((checked_next (inventoryRuns_of_idle rests)).trans (checked_first bad))

variable (good : badRegister e = false)
include good

theorem registerProbe_known (known : (s.matching e.identity).isSome = true) : registerProbe l e s = s.respond l .inUse :=
  (checked_next (saving_of_idle idle)).trans ((checked_next (inventoryRuns_of_idle rests)).trans
    ((checked_next good).trans (checked_first known)))

variable (new : (s.matching e.identity).isSome = false)
include new

theorem registerProbe_full (full : s.freeSlot = none) : registerProbe l e s = s.respond l .queueFull :=
  (checked_next (saving_of_idle idle)).trans ((checked_next (inventoryRuns_of_idle rests)).trans
    ((checked_next good).trans ((checked_next new).trans (checked_first (by rw [full]; rfl)))))

theorem registerProbe_at {n : Slot} (free : s.freeSlot = some n) {p : Nat} (at_p : e.place = .pocket p) (h : p < 12) :
    registerProbe l e s = s.checked l
      [(decide ((s.pockets.get ⟨p, h⟩).state ≠ .empty), .inUse), (!(s.pockets.get ⟨p, h⟩).level, .noProbe)] fun s =>
        (s.registerAt n ⟨p, h⟩ e).respond l .ok (.slot n) := by
  refine (checked_next (saving_of_idle idle)).trans ((checked_next (inventoryRuns_of_idle rests)).trans
    ((checked_next good).trans ((checked_next new).trans ((checked_next (by rw [free]; rfl)).trans ?_))))
  simp only [checked_nil, at_p, index?_of_lt h, free]
end

/-- Settles O47: each request's checks in order, then its accepted effect. -/
theorem probeTableEdits : Obligations.ProbeTableEdits := by
  refine ⟨fun e s taken => ?write, fun n s taken => ?retire, fun n use s taken => ?pocket, fun e p s taken at_p => ?register⟩
  case write =>
    intro c bad
    refine ⟨fun saving => ?_, fun idle is_bad => ?_, fun h idle good => ?_⟩
    · exact congrArg Host.Outcome.next (serve_reads taken rfl fun g => writeProbe_saving (s := s.modLink .S g) saving)
    · exact congrArg Host.Outcome.next (serve_reads taken rfl fun g => writeProbe_bad (s := s.modLink .S g) idle
        (is_bad.imp_right (badProbeFields_iff ..).2))
    · have fields : badProbeFields e.reach e.tau e.home = false := by
        rw [← Bool.not_eq_true, badProbeFields_iff]; exact fun h => good (.inr h)
      refine ⟨fun free => ?_, fun p a slot away => ?_, fun p slot present unawaited => ?_⟩
      · exact congrArg Host.Outcome.next (serve_reads taken rfl fun g =>
          writeProbe_free (s := s.modLink .S g) idle h fields free)
      · exact congrArg Host.Outcome.next (serve_reads taken rfl fun g =>
          writeProbe_transit (s := s.modLink .S g) idle h fields slot away)
      · let s1 := s.setProbe ⟨e.slot, h⟩ (some { p with reach := e.reach, tau := e.tau, home := e.home.bind (index? 12) })
        refine ⟨_, _, congrArg Host.Outcome.next (serve_goes (u := s1) (fun x => settle (x, remount s s1)) taken rfl rfl
          fun g => writeProbe_accepted (s := s.modLink .S g) idle h fields slot present),
          home_map_val fun h => good (.inr (.inr (.inr h))), settle_remount unawaited⟩
  case retire =>
    intro c
    refine ⟨fun saving => ?_, fun idle runs => ?_, fun idle rests above => ?_, fun h idle rests => ⟨fun free => ?_,
      fun p slot => ⟨fun guarded => ?_, fun open_ kept known => ?_, fun open_ lost => ?_, fun k open_ at_k => ?_⟩⟩⟩
    · exact congrArg Host.Outcome.next (serve_reads taken rfl fun g => checked_first (s := s.modLink .S g) (saving_of_ne saving))
    · exact congrArg Host.Outcome.next (serve_reads taken rfl fun g => checked_inventory (s := s.modLink .S g) idle runs)
    · exact congrArg Host.Outcome.next (serve_reads taken rfl fun g =>
        (checked_saving_inventory (s := s.modLink .S g) idle rests).trans (onRecord_above above))
    · exact congrArg Host.Outcome.next (serve_reads taken rfl fun g =>
        (checked_saving_inventory (s := s.modLink .S g) idle rests).trans (onRecord_free h free))
    · exact congrArg Host.Outcome.next (serve_reads taken rfl fun g =>
        retireProbe_guarded (s := s.modLink .S g) idle rests h slot guarded)
    · exact congrArg Host.Outcome.next (serve_reads taken rfl fun g =>
        retireProbe_in_use (s := s.modLink .S g) idle rests h slot open_ kept known)
    · rw [← State.retire_lost lost]
      exact congrArg Host.Outcome.next (serve_goes id taken rfl (by rw [State.retire_lost lost]; rfl) fun g =>
        (retireProbe_retires (s := s.modLink .S g) idle rests h slot open_ (by rw [lost]; rfl)).trans
          (by rw [State.retire_lost lost, State.retire_lost lost]; rfl))
    · refine congrArg Host.Outcome.next (serve_goes id taken rfl rfl fun g => ?_)
      rw [retireProbe_retires (s := s.modLink .S g) idle rests h slot open_ (by rw [at_k]; rfl), State.retire_stored at_k]
      rfl
  case pocket =>
    intro c
    refine ⟨fun saving => ?_, fun idle runs => ?_, fun idle rests bad => ?_, fun h v idle rests used => ?_⟩
    · exact congrArg Host.Outcome.next (serve_reads taken rfl fun g => checked_first (s := s.modLink .S g) (saving_of_ne saving))
    · exact congrArg Host.Outcome.next (serve_reads taken rfl fun g => checked_inventory (s := s.modLink .S g) idle runs)
    · refine congrArg Host.Outcome.next (serve_reads taken rfl fun g => ?_)
      rcases bad with above | rfl
      · exact writePocket_above (s := s.modLink .S g) idle rests above use
      · exact writePocket_no_use (s := s.modLink .S g) idle rests
    · intro k put
      subst used
      refine ⟨fun held => ?_, fun state use => ?_, fun state use => ?_, fun state use => ?_, fun state use => ?_⟩
      · exact congrArg Host.Outcome.next (serve_reads taken rfl fun g =>
          writePocket_held (s := s.modLink .S g) idle rests h held v)
      · subst use
        exact congrArg Host.Outcome.next (serve_goes id taken rfl rfl fun g =>
          writePocket_disables (s := s.modLink .S g) idle rests h state)
      · subst use
        exact congrArg Host.Outcome.next (serve_goes id taken rfl rfl fun g =>
          writePocket_enables (s := s.modLink .S g) idle rests h state)
      · exact congrArg Host.Outcome.next (serve_reads taken rfl fun g =>
          writePocket_same (s := s.modLink .S g) idle rests h (.inl ⟨state, use⟩))
      · exact congrArg Host.Outcome.next (serve_reads taken rfl fun g =>
          writePocket_same (s := s.modLink .S g) idle rests h (.inr ⟨state, use⟩))
  case register =>
    intro c bad known
    have known_iff (g : LinkState → LinkState) : ((s.modLink .S g).matching e.identity).isSome = true ↔ known :=
      matching_isSome_iff s e.identity
    have good_of (good : ¬ bad) : badRegister e = false := by
      rw [← Bool.not_eq_true, badRegister_pocket_iff at_p]; exact good
    have new_of (new : ¬ known) (g : LinkState → LinkState) : ((s.modLink .S g).matching e.identity).isSome = false := by
      rw [← Bool.not_eq_true, known_iff]; exact new
    refine ⟨fun saving => ?_, fun idle runs => ?_, fun idle rests is_bad => ?_, fun idle rests good is_known => ?_,
      fun idle rests good new full => ?_, fun h n idle rests good new free lowest => ?_⟩
    · exact congrArg Host.Outcome.next (serve_reads taken rfl fun g => checked_first (s := s.modLink .S g) (saving_of_ne saving))
    · exact congrArg Host.Outcome.next (serve_reads taken rfl fun g => checked_inventory (s := s.modLink .S g) idle runs)
    · exact congrArg Host.Outcome.next (serve_reads taken rfl fun g =>
        registerProbe_bad (s := s.modLink .S g) idle rests ((badRegister_pocket_iff at_p).2 is_bad))
    · exact congrArg Host.Outcome.next (serve_reads taken rfl fun g =>
        registerProbe_known (s := s.modLink .S g) idle rests (good_of good) ((known_iff g).2 is_known))
    · exact congrArg Host.Outcome.next (serve_reads taken rfl fun g =>
        registerProbe_full (s := s.modLink .S g) idle rests (good_of good) (new_of new g) (freeSlot_eq_none full))
    · have asked (g : LinkState → LinkState) := registerProbe_at (s := s.modLink .S g) (l := .S) idle rests (good_of good)
        (new_of new g) (freeSlot_eq_some free lowest) at_p h
      refine ⟨fun used => ?_, fun empty absent => ?_, fun empty present => ⟨_, home_map_val fun h => ?_, ?_⟩⟩
      · exact congrArg Host.Outcome.next (serve_reads taken rfl fun g => (asked g).trans (checked_first (decide_eq_true used)))
      · exact congrArg Host.Outcome.next (serve_reads taken rfl fun g => (asked g).trans
          ((checked_next (decide_eq_false (Classical.not_not.2 empty))).trans (checked_first (by simpa using absent))))
      · exact good (.inr (.inr (.inr (.inr (.inl h)))))
      · exact congrArg Host.Outcome.next (serve_goes id taken rfl rfl fun g => (asked g).trans
          ((checked_next (decide_eq_false (Classical.not_not.2 empty))).trans (checked_next (by simpa using present))))

end Sys2Proof.Machine
end

section
/-! PROOFS. The guards of a record and QUALIFY (R134 to R136), and the protection freeze, which only RESET lifts (R135). -/
namespace Sys2Proof.Machine
open Sys2Proof.Safety

/-! ### No command but RESET lifts the freeze -/

/-- The protection freeze stands (R135). -/
def Frozen (s : State) : Prop := s.freeze = true

theorem Frozen.of_steady {s t : State} (frozen : Frozen s) (same : steady t = steady s) : Frozen t :=
  (congrArg Steady.freeze same).trans frozen

theorem Frozen.settle {e : Eff} (frozen : Frozen e.1) : Frozen (settle e) := frozen.of_steady (settle_steady e)

theorem Frozen.respond {s : State} (frozen : Frozen s) (l : Link) (c : Code) (p : Payload) : Frozen (s.respond l c p) := frozen

theorem Frozen.checked {s : State} (frozen : Frozen s) {l : Link} {cs : List (Bool × Code)} {f : State → State}
    (acts : Frozen (f s)) : Frozen (s.checked l cs f) := by
  unfold State.checked
  split
  · exact frozen
  · exact acts

theorem Frozen.arrive {s : State} (frozen : Frozen s) (l : Link) (k : Option Code) : Frozen (s.arrive l k).1 := by
  unfold State.arrive
  split
  · exact frozen
  · exact frozen
  · dsimp only; split <;> exact frozen

theorem Frozen.serve {s : State} (frozen : Frozen s) {l : Link} {c : Instr} {f : State → State}
    (acts : ∀ t, Frozen t → Frozen (f t)) : Frozen (serve l c f s) := by
  unfold Machine.serve
  dsimp only
  split
  · exact acts s frozen
  · split
    · exact acts _ (frozen.arrive l _)
    · exact frozen.arrive l _

theorem Frozen.serve_ownArm {s : State} (frozen : Frozen s) {l : Link} {c : Instr} {f : Arm → State → State}
    (acts : ∀ a t, Frozen t → Frozen (f a t)) : Frozen (Machine.serve l c (ownArm l f) s) :=
  frozen.serve fun t h => by
    unfold ownArm
    split
    · exact acts _ t h
    · exact h

theorem Frozen.serve_namedArm {s : State} (frozen : Frozen s) {l : Link} {c : Instr} {x : Option (Option Arm)}
    {f : Arm → State → State} (acts : ∀ a t, Frozen t → Frozen (f a t)) : Frozen (Machine.serve l c (namedArm l x f) s) :=
  frozen.serve fun t h => by
    unfold namedArm
    split
    · exact acts _ t h
    · split
      · exact acts _ t h
      · exact h

theorem Frozen.onRecord {s : State} (frozen : Frozen s) {l : Link} {n : Nat} {f : Slot → Probe → State}
    (acts : ∀ k p, Frozen (f k p)) : Frozen (s.onRecord l n f) := by
  unfold State.onRecord
  split
  · exact frozen
  · split
    · exact frozen
    · exact acts _ _

theorem Frozen.foldl {α : Type} {f : State → α → State} (acts : ∀ s x, Frozen s → Frozen (f s x)) :
    ∀ (xs : List α) {s : State}, Frozen s → Frozen (xs.foldl f s)
  | [], _, frozen => frozen
  | x :: xs, s, frozen => Frozen.foldl acts xs (acts s x frozen)

/-! The effects that no piece of a cascade is. -/

theorem haltArm_steady (a : Arm) (s : State) : steady (haltArm a s).1 = steady s := by
  cases phase : (s.motion.get a).phase <;> simp [haltArm, phase]

theorem enterFault_steady (a : Arm) (r : FaultReason) (s : State) : steady (enterFault a r s).1 = steady s := by
  unfold enterFault
  dsimp only
  split <;> simp

theorem contactStop_steady (a : Arm) (s : State) : steady (contactStop a s).1 = steady s := by
  unfold contactStop
  dsimp only
  split <;> simp

theorem resetArm_steady (a : Arm) (s : State) : steady (resetArm a s).1 = steady s := by
  unfold resetArm
  dsimp only
  split
  · rfl
  · split <;> simp

theorem illegalTransition_steady (a : Arm) (i : Axis) (s : State) : steady (illegalTransition a i s).1 = steady s := by
  unfold illegalTransition
  dsimp only
  split
  · exact steady_report _ _
  · exact (enterFault_steady _ _ _).trans (steady_report _ _)

theorem referenceMark_steady (a : Arm) (i : Axis) (s : State) : steady (referenceMark a i s).1 = steady s := by
  unfold referenceMark
  dsimp only
  split
  · exact steady_enterStop _ _ _
  · rfl

theorem driveFault_steady (a : Arm) (level : Bool) (s : State) : steady (driveFault a level s).1 = steady s := by
  unfold driveFault
  dsimp only
  split
  · exact (enterFault_steady _ _ _).trans (steady_report _ _)
  · rfl

theorem expiryStep_steady (a : Arm) (s : State) : steady (expiryStep a s).1 = steady s := by
  unfold expiryStep
  dsimp only
  split <;> rfl

theorem setpointExpiry_steady (a : Arm) (s : State) : steady (setpointExpiry a s).1 = steady s := by
  unfold setpointExpiry
  dsimp only
  repeat' split
  · rfl
  · rfl
  · exact (enterFault_steady _ _ _).trans (steady_report _ _)
  · exact expiryStep_steady _ _

theorem stepTimeout_steady (s : State) : steady (stepTimeout s).1 = steady s := by
  unfold stepTimeout
  repeat' split
  all_goals simp

theorem rackTimeout_steady (s : State) : steady (rackTimeout s).1 = steady s := by
  unfold rackTimeout
  dsimp only
  repeat' split
  all_goals simp [setRackFault]

theorem dropRepeat_steady (s : State) : steady (dropRepeat s) = steady s := by
  unfold dropRepeat
  repeat' split
  all_goals simp [State.askDropRead]

theorem loseTake_steady (a : Arm) (n : Slot) (s : State) : steady (loseTake a n s) = steady s := by simp [loseTake]

theorem reservedChange_steady (a : Arm) (c : Context) (p : PocketId) (level : Bool) (s : State) :
    steady (reservedChange a c p level s).1 = steady s := by
  unfold reservedChange dropLevel
  repeat' split
  all_goals simp [loseTake_steady, State.askDropRead]

theorem pocketLevel_steady (p : PocketId) (level : Bool) (s : State) : steady (pocketLevel p level s).1 = steady s := by
  unfold pocketLevel watch
  dsimp only
  repeat' split
  all_goals simp [reservedChange_steady]

theorem rackLevels_steady (opened closed : Bool) (s : State) : steady (rackLevels opened closed s).1 = steady s := by
  unfold rackLevels
  dsimp only
  repeat' split
  all_goals rfl

theorem confirmDrop_steady (a : Arm) (s : State) : steady (confirmDrop a s) = steady s := by
  unfold confirmDrop
  split
  · rfl
  · dsimp only
    repeat' split
    all_goals simp

theorem dropRead_steady (a : Arm) (r : ReadResult) (s : State) : steady (dropRead a r s).1 = steady s := by
  unfold dropRead
  split
  · dsimp only; split
    · exact confirmDrop_steady _ _
    · rfl
  · dsimp only; split
    · exact confirmDrop_steady _ _
    · rfl
  · rfl

theorem confirmPick_steady (a : Arm) (n : Slot) (p : PocketId) (s : State) : steady (confirmPick a n p s) = steady s := by
  unfold confirmPick
  dsimp only
  split <;> simp

theorem steady_ite {b : Bool} {x y : Eff} {k : Steady} (yes : steady x.1 = k) (no : steady y.1 = k) :
    steady (if b then x else y).1 = k := by
  cases b
  · exact no
  · exact yes

theorem pickRead_steady (a : Arm) (r : ReadResult) (s : State) : steady (pickRead a r s).1 = steady s := by
  unfold pickRead
  split
  · rfl
  · split
    · rfl
    · split
      · exact steady_ite (confirmPick_steady _ _ _ _) (by simp [failPick])
      · rfl

theorem inventoryRead_steady (a : Arm) (r : ReadResult) (s : State) : steady (inventoryRead a r s).1 = steady s := by
  unfold inventoryRead
  split <;> rfl

theorem registerDone_steady (l : Link) (e : RegisterEntry) (a : Arm) (r : ReadResult) (s : State) :
    steady (registerDone l e a r s).1 = steady s := by
  unfold registerDone
  dsimp only
  split <;> rfl

theorem deliver_steady (a : Arm) (r : ReadResult) (k : Asker) (s : State) : steady (deliver a r k s).1 = steady s := by
  cases k
  case verify => simp only [deliver, verifyDone]; split <;> rfl
  case register =>
    simp only [deliver, registered]
    split
    · split
      · exact registerDone_steady _ _ _ _ _
      · rfl
    · rfl
  case inventory => exact inventoryRead_steady _ _ _
  case drop => exact dropRead_steady _ _ _
  case pick => exact pickRead_steady _ _ _

theorem startChange_steady (s : State) (a : Arm) (c : Context) : steady (s.startChange a c) = steady s := by
  unfold State.startChange
  have last (t : State) (x : PerArm (Option ChangeOutcome)) : steady { t with lastChange := x } = steady t := rfl
  dsimp only
  repeat' split
  all_goals simp only [last, steady_setContext, steady_place, State.reserve, steady_modPocket]

theorem disableArm_steady (a : Arm) (s : State) : steady (disableArm a s).1 = steady s := by simp [disableArm]

theorem Frozen.install {s : State} (frozen : Frozen s) (im : Image) : Frozen (s.install im).1 := by
  cases im with
  | calibration => exact frozen
  | zones => exact frozen
  | channels => exact frozen
  | probes => exact frozen
  | pockets ds =>
    refine Frozen.foldl (f := disableStep ds) (fun t p h => ?_) allPockets frozen
    unfold disableStep State.disablePocket
    dsimp only
    split
    · split <;> exact h
    · exact h
  | settings e =>
    obtain ⟨u, spec, installed⟩ := installSettings_spec s e
    rw [installed]
    show u.freeze = true
    rw [spec.fields]
    exact frozen

theorem Frozen.disable {s : State} (frozen : Frozen s) (l : Link) (a : Arm) : Frozen (disable l a s) := by
  unfold Machine.disable
  split
  · exact frozen
  · exact frozen
  · exact frozen
  · exact frozen
  · exact frozen.checked (Frozen.settle (e := ((disableArm a s).1.respond l .ok, (disableArm a s).2))
      (frozen.of_steady (disableArm_steady a s)))

theorem Frozen.post {s : State} (frozen : Frozen s) (l : Link) (es : List SegEntry) (a : Arm) : Frozen (post l es a s) := by
  unfold Machine.post
  split
  · exact frozen
  · split
    · exact frozen
    · exact frozen.checked (Frozen.settle frozen)

theorem Frozen.replace {s : State} (frozen : Frozen s) (l : Link) (es : List SegEntry) (a : Arm) : Frozen (replace l es a s) := by
  unfold Machine.replace
  split
  · exact frozen
  · split
    · exact frozen
    · refine frozen.checked (Frozen.settle (frozen.of_steady ?_))
      unfold Machine.replaceAccepted
      dsimp only
      split <;> simp [State.appendSegments]

theorem Frozen.clear {s : State} (frozen : Frozen s) (l : Link) (a : Arm) : Frozen (clear l a s) := by
  unfold Machine.clear
  split
  · exact frozen
  · exact frozen.checked frozen
  · exact frozen

theorem Frozen.changeDone {s : State} (frozen : Frozen s) (l : Link) (a : Arm) : Frozen (changeDone l a s) := by
  unfold Machine.changeDone
  split
  · exact frozen
  · split
    · exact frozen.checked (Frozen.settle (frozen.of_steady (by simp [enterClosing])))
    · exact frozen.checked (Frozen.settle (frozen.of_steady (by simp [enterClosing])))
    · exact frozen

theorem Frozen.abortChange {s : State} (frozen : Frozen s) (l : Link) (a : Arm) : Frozen (abortChange l a s) := by
  unfold Machine.abortChange
  split
  · exact frozen
  · split
    · exact Frozen.settle (frozen.of_steady (endChange_steady _ _ _))
    · exact Frozen.settle (frozen.of_steady (endChange_steady _ _ _))
    · exact frozen.checked (Frozen.settle (frozen.of_steady (by simp [enterClosing])))
    · exact frozen.checked (Frozen.settle (frozen.of_steady (by simp [enterClosing])))
    · exact frozen.checked (Frozen.settle (frozen.of_steady (by simp [enterClosing])))
    · exact frozen

theorem Frozen.qualify {s : State} (frozen : Frozen s) (l : Link) (e : QualifyEntry) : Frozen (qualify l e s) := by
  unfold Machine.qualify
  split
  · exact frozen
  · split
    · split
      · exact frozen
      · exact frozen.checked frozen
    · exact frozen

theorem Frozen.writeChannel {s : State} (frozen : Frozen s) (l : Link) (n : Nat) (e : ChannelEntry) : Frozen (writeChannel l n e s) := by
  unfold Machine.writeChannel
  split
  · exact frozen
  · exact frozen.checked frozen

theorem Frozen.editScanList {s : State} (frozen : Frozen s) (l : Link) (mode : Option ScanMode) (ms : Nat) (es : List Nat) : Frozen (editScanList l mode ms es s) := by
  unfold Machine.editScanList
  split
  · exact frozen
  · exact frozen.checked frozen

theorem Frozen.setTimer {s : State} (frozen : Frozen s) (l : Link) (arm : Option Arm) (n d : Nat) : Frozen (setTimer l arm n d s) := by
  unfold Machine.setTimer
  split
  · exact frozen
  · exact frozen.checked frozen

theorem Frozen.writeCalibration {s : State} (frozen : Frozen s) (l : Link) (arm : Option Arm) (e : Calibration) : Frozen (writeCalibration l arm e s) := by
  refine frozen.checked ?_
  split
  · exact frozen
  · exact Frozen.settle frozen

theorem Frozen.writeZone {s : State} (frozen : Frozen s) (l : Link) (n : Nat) (e : ZoneEntry) : Frozen (writeZone l n e s) := by
  refine frozen.checked ?_
  split
  · exact frozen
  · exact frozen.checked (Frozen.settle frozen)

theorem Frozen.registerProbe {s : State} (frozen : Frozen s) (l : Link) (e : RegisterEntry) : Frozen (registerProbe l e s) := by
  refine frozen.checked ?_
  split
  · split
    · exact frozen.checked frozen
    · exact frozen
  · exact frozen.checked frozen
  · exact frozen

theorem Frozen.writeProbe {s : State} (frozen : Frozen s) (l : Link) (e : ProbeEntry) : Frozen (writeProbe l e s) := by
  refine frozen.checked ?_
  split
  · exact frozen
  · split
    · exact frozen
    · split
      · exact frozen
      · exact Frozen.settle frozen

theorem Frozen.writePocket {s : State} (frozen : Frozen s) (l : Link) (n : Nat) (use : Option PocketUse) : Frozen (writePocket l n use s) := by
  refine frozen.checked ?_
  split
  · split <;> exact frozen
  · exact frozen

theorem Frozen.reload {s : State} (frozen : Frozen s) (l : Link) : Frozen (reload l s) := by
  refine frozen.checked ?_
  obtain ⟨ls, fields⟩ := State.publish_fields s (.cold 0 s.workpiece)
  have kept : (s.publish (.cold 0 s.workpiece)).freeze = true := by rw [fields]; exact frozen
  have same : (startReload l s).freeze = (s.publish (.cold 0 s.workpiece)).freeze := by
    unfold startReload State.reloadThermal; rfl
  exact same.trans kept

theorem Frozen.retireProbe {s : State} (frozen : Frozen s) (l : Link) (n : Nat) : Frozen (retireProbe l n s) := by
  refine frozen.checked (frozen.onRecord fun n p => frozen.checked (frozen.of_steady ?_))
  unfold State.retire
  split <;> rfl

theorem Frozen.writeWorkpiece {s : State} (frozen : Frozen s) (l : Link) (e : Workpiece) : Frozen (writeWorkpiece l e s) := by
  refine frozen.checked ?_
  obtain ⟨ls, fields⟩ := State.publish_fields { s with workpiece := e }
    { s.snapshot with workpiece := e, gradientFlag := decide (e.gradientLimit < s.snapshot.gradient) }
  show (State.publish _ _).freeze = true
  rw [fields]
  exact frozen

theorem Frozen.conversionComplete {s : State} (frozen : Frozen s) (code : Nat) : Frozen (conversion code s) := by
  have ended (t : State) (h : Frozen t) : Frozen t.passEnd := by
    obtain ⟨ls, fields, -⟩ := State.passEnd_fields t
    rw [fields]
    exact h
  unfold Machine.conversion
  split
  · exact frozen
  · split
    · exact frozen
    · dsimp only
      split
      · split <;> exact frozen
      · exact ended _ (by split <;> exact frozen)

/-- A command other than RESET keeps the freeze. -/
theorem Frozen.exec {s t : State} (frozen : Frozen s) {c : Instr} (not_reset : c ≠ .reset) (goes : exec c s = .next t) :
    Frozen t := by
  cases c
  case reset => exact absurd rfl not_reset
  case sectionLoadComplete =>
    cases goes
    split
    · exact frozen
    · refine Frozen.settle ?_
      unfold sectionEnds
      dsimp only
      split <;> exact frozen.install _
  case writePeriod =>
    cases goes
    unfold writePeriodEnd
    dsimp only
    repeat' split
    · exact frozen
    · exact frozen
    · exact Frozen.arrive (s := s.modLink _ _) frozen _ _
    · exact Frozen.arrive (s := s.modLink _ _) frozen _ _
    · exact Frozen.arrive (s := s.modLink _ _) frozen _ _
  case unassignedCommand => cases goes; unfold unassigned; split; exact frozen; exact frozen.arrive _ _
  case readPeriod => cases goes; exact frozen
  case enable => cases goes; exact frozen.serve_ownArm fun _ _ h => h.checked (Frozen.settle h)
  case disable => cases goes; exact frozen.serve_ownArm fun _ _ h => h.disable _ _
  case post => cases goes; exact frozen.serve_ownArm fun _ _ h => h.post _ _ _
  case replace => cases goes; exact frozen.serve_ownArm fun _ _ h => h.replace _ _ _
  case halt => cases goes; exact frozen.serve_namedArm fun _ _ h => Frozen.settle (h.of_steady (haltArm_steady _ _))
  case resume => cases goes; exact frozen.serve_ownArm fun _ _ h => h.checked (Frozen.settle h)
  case clear => cases goes; exact frozen.serve_ownArm fun _ _ h => h.clear _ _
  case override => cases goes; exact frozen.serve_ownArm fun _ _ h => h
  case readPoints => cases goes; exact frozen.serve_ownArm fun _ _ h => Frozen.settle h
  case requestChange =>
    cases goes
    exact frozen.serve_ownArm fun _ _ h => h.checked (Frozen.settle (h.of_steady (startChange_steady _ _ _)))
  case changeDone => cases goes; exact frozen.serve_ownArm fun _ _ h => h.changeDone _ _
  case abortChange => cases goes; exact frozen.serve_namedArm fun _ _ h => h.abortChange _ _
  case qualify => cases goes; exact frozen.serve fun _ h => h.qualify _ _
  case verifyProbe => cases goes; exact frozen.serve_ownArm fun _ _ h => h
  case armReset => cases goes; exact frozen.serve_namedArm fun _ _ h => Frozen.settle (h.of_steady (resetArm_steady _ _))
  case armStatus => cases goes; exact frozen.serve fun t h => by unfold readArm; split <;> exact h
  case readSnapshot => cases goes; exact frozen.serve fun _ h => h
  case readProbe => cases goes; exact frozen.serve fun t h => by unfold readProbe; split <;> exact h
  case readPocket => cases goes; exact frozen.serve fun t h => by unfold readPocket; split <;> exact h
  case readZone => cases goes; exact frozen.serve fun t h => by unfold readZone; split <;> exact h
  case readChannel => cases goes; exact frozen.serve fun t h => by unfold readChannel; split <;> exact h
  case readCalibration => cases goes; exact frozen.serve fun t h => by unfold readCalibration; split <;> exact h
  case readTrap => cases goes; exact frozen.serve fun _ h => h
  case identify => cases goes; exact frozen.serve fun _ h => h
  case status => cases goes; exact frozen.serve fun _ h => h
  case writeCalibration => cases goes; exact frozen.serve fun _ h => h.writeCalibration _ _ _
  case writeWorkpiece => cases goes; exact frozen.serve fun _ h => h.writeWorkpiece _ _
  case writeZone => cases goes; exact frozen.serve fun _ h => h.writeZone _ _ _
  case writeChannel => cases goes; exact frozen.serve fun _ h => h.writeChannel _ _ _
  case editScanList => cases goes; exact frozen.serve fun _ h => h.editScanList _ _ _ _
  case setScanInterval => cases goes; exact frozen.serve fun _ h => h.checked h
  case setTimer => cases goes; exact frozen.serve fun _ h => h.setTimer _ _ _ _
  case setSync => cases goes; exact frozen.serve fun _ h => h
  case writeSettings => cases goes; exact frozen.serve fun _ h => h.checked h
  case registerProbe => cases goes; exact frozen.serve fun _ h => h.registerProbe _ _
  case writeProbe => cases goes; exact frozen.serve fun _ h => h.writeProbe _ _
  case retireProbe => cases goes; exact frozen.serve fun _ h => h.retireProbe _ _
  case setProtection => cases goes; exact frozen.serve fun _ h => h.checked (h.onRecord fun _ _ => h.checked h)
  case freezeProtection => cases goes; exact frozen.serve fun _ _ => rfl
  case lockProbe => cases goes; exact frozen.serve fun _ h => h.onRecord fun _ _ => h
  case unlockProbe => cases goes; exact frozen.serve fun _ h => h.onRecord fun _ _ => h
  case writePocket => cases goes; exact frozen.serve fun _ h => h.writePocket _ _ _
  case inventory => cases goes; exact frozen.serve fun _ h => h.checked (Frozen.settle (h.of_steady (askInventory_steady _)))
  case clearRackFault => cases goes; exact frozen.serve fun _ h => h.checked h
  case clearTrap => cases goes; exact frozen.serve fun _ h => h
  case save => cases goes; exact frozen.serve fun _ h => h.checked h
  case reload => cases goes; exact frozen.serve fun _ h => h.reload _
  case setpointExpiry => cases goes; exact Frozen.settle (frozen.of_steady (setpointExpiry_steady _ _))
  case scanExpiry =>
    cases goes
    unfold scanEnd State.startPass
    repeat' split
    all_goals exact frozen
  case conversionComplete => cases goes; exact frozen.conversionComplete _
  case lingerExpiry =>
    cases goes
    refine Frozen.settle ?_
    unfold lingerEnds
    split <;> exact frozen
  case stepTimerExpiry => cases goes; exact Frozen.settle (frozen.of_steady (stepTimeout_steady _))
  case rackTimerExpiry => cases goes; exact Frozen.settle (frozen.of_steady (rackTimeout_steady _))
  case dropReadRepeat => cases goes; exact frozen.of_steady (dropRepeat_steady _)
  case identityReadComplete =>
    cases goes
    unfold readEnds
    split
    · exact frozen
    · exact Frozen.foldl (fun t k h => Frozen.settle (h.of_steady (deliver_steady _ _ _ _))) _ frozen
  case savePageWritten =>
    cases goes
    unfold pageEnds
    repeat' split
    all_goals exact frozen
  case quadratureCount => cases goes; exact frozen
  case illegalTransition => cases goes; exact Frozen.settle (frozen.of_steady (illegalTransition_steady _ _ _))
  case referenceMark => cases goes; exact Frozen.settle (frozen.of_steady (referenceMark_steady _ _ _))
  case dfltChange => cases goes; exact Frozen.settle (frozen.of_steady (driveFault_steady _ _ _))
  case csyncEdge =>
    cases goes
    unfold csync State.syncScan
    rw [State.syncTimer_fields (s.syncTimer .A), State.syncTimer_fields s]
    repeat' split
    all_goals exact frozen
  case triggerEdge =>
    cases goes
    unfold triggerEdge
    split
    · exact frozen
    · dsimp only
      split
      · exact Frozen.settle (Frozen.of_steady frozen (steady_enterStop _ _ _))
      · exact Frozen.settle (Frozen.of_steady frozen ((contactStop_steady _ _).trans (steady_report _ _)))
      · exact frozen
      · exact frozen
  case triggerRelease => cases goes; exact frozen
  case pocketChange => cases goes; exact Frozen.settle (frozen.of_steady (pocketLevel_steady _ _ _))
  case rackOpenChange => cases goes; exact Frozen.settle (frozen.of_steady (rackLevels_steady _ _ _))
  case rackClosedChange => cases goes; exact Frozen.settle (frozen.of_steady (rackLevels_steady _ _ _))
  case driveFrameEnd => cases goes; exact frozen

/-! ### Guards and QUALIFY -/

section
variable {s : State} {l : Link} {n : Nat} {v : Bool} (idle : s.save = .idle)
include idle

theorem setProtection_above (above : 31 < n) : setProtection l n v s = s.respond l .badArgument :=
  (checked_next (saving_of_idle idle)).trans (onRecord_above above)

variable (h : n < 32)

theorem setProtection_free (free : s.probes.get ⟨n, h⟩ = none) : setProtection l n v s = s.respond l .notFound :=
  (checked_next (saving_of_idle idle)).trans (onRecord_free h free)

variable {p : Probe} (slot : s.probes.get ⟨n, h⟩ = some p)
include slot

theorem setProtection_frozen (frozen : s.freeze = true) : setProtection l n v s = s.respond l .frozen :=
  (checked_next (saving_of_idle idle)).trans ((onRecord_at h slot).trans (checked_first frozen))

theorem setProtection_accepted (thawed : s.freeze = false) :
    setProtection l n v s = (s.setProbe ⟨n, h⟩ (some { p with guarded := v })).respond l .ok :=
  (checked_next (saving_of_idle idle)).trans ((onRecord_at h slot).trans (checked_next thawed))
end

/-- LOCK PROBE and UNLOCK PROBE, refused and accepted (R136). -/
theorem serve_setLock {s : State} {c : Instr} {n : Nat} (v : Bool) (taken : Takes s .S c) (checked : linkCheck .S c = none) :
    (31 < n → serve .S c (setLock .S n v) s = answered s .S .badArgument .none)
    ∧ ∀ h : n < 32, (s.probes.get ⟨n, h⟩ = none → serve .S c (setLock .S n v) s = answered s .S .notFound .none)
      ∧ ∀ p, s.probes.get ⟨n, h⟩ = some p → serve .S c (setLock .S n v) s
          = answered (s.setProbe ⟨n, h⟩ (some { p with locked := v })) .S .ok .none :=
  ⟨fun above => serve_reads taken checked fun _ => onRecord_above above,
   fun h => ⟨fun free => serve_reads taken checked fun _ => onRecord_free h free,
    fun _ slot => serve_goes id taken checked rfl fun g => onRecord_at (s := s.modLink .S g) h slot⟩⟩

section
variable {s : State} {l : Link} {e : QualifyEntry}

theorem qualify_saving (saving : s.save ≠ .idle) : qualify l e s = s.respond l .saveInProgress := by
  rw [qualify, if_pos (saving_of_ne saving)]

theorem qualify_bad (idle : s.save = .idle) (bad : 31 < e.slot ∨ e.arm = none) :
    qualify l e s = s.respond l .badArgument := by
  rw [qualify, if_neg (by rw [saving_of_idle idle]; nofun)]
  by_cases above : 31 < e.slot
  · simp only [index?_of_le (by omega : 32 ≤ e.slot)]
  · simp only [bad.resolve_left above, index?_of_lt (by omega : e.slot < 32)]

variable (idle : s.save = .idle) {a : Arm} (named : e.arm = some a) (h : e.slot < 32)
include idle named

theorem qualify_free (free : s.probes.get ⟨e.slot, h⟩ = none) :
    qualify l e s = s.respond l (if l = .S then .notFound else .noProbe) := by
  rw [qualify, if_neg (by rw [saving_of_idle idle]; nofun)]
  simp only [index?_of_lt h, named, free]
  cases l <;> rfl

variable {p : Probe} (slot : s.probes.get ⟨e.slot, h⟩ = some p)
include slot

theorem qualify_at : qualify l e s = s.checked l
    [(l.arm?.isSome && decide (p.place ≠ .mounted a), .noProbe), (l.arm?.isSome && (p.guarded || p.locked), .guarded)]
    fun s => (s.setProbe ⟨e.slot, h⟩ (some { p with qual := p.qual.set a (some (s.newEntry a (p.qual.get a) e)) })).respond l
      .ok (.generation (s.newEntry a (p.qual.get a) e).generation) := by
  rw [qualify, if_neg (by rw [saving_of_idle idle]; nofun)]
  simp only [index?_of_lt h, named, slot]

theorem qualify_elsewhere (arm_link : l ≠ .S) (elsewhere : p.place ≠ .mounted a) : qualify l e s = s.respond l .noProbe := by
  refine (qualify_at idle named h slot).trans (checked_first ?_)
  simp [Link.arm?_isSome, arm_link, elsewhere]

theorem qualify_guarded (arm_link : l ≠ .S) (here : p.place = .mounted a) (shut : p.guarded = true ∨ p.locked = true) :
    qualify l e s = s.respond l .guarded := by
  refine (qualify_at idle named h slot).trans ((checked_next ?_).trans (checked_first ?_))
  · simp [here]
  · simp [Link.arm?_isSome, arm_link, shut]

theorem qualify_accepted (may : l = .S ∨ (p.place = .mounted a ∧ p.guarded = false ∧ p.locked = false)) :
    qualify l e s
      = (s.setProbe ⟨e.slot, h⟩ (some { p with qual := p.qual.set a (some (s.newEntry a (p.qual.get a) e)) })).respond l .ok
        (.generation (s.newEntry a (p.qual.get a) e).generation) := by
  refine (qualify_at idle named h slot).trans ((checked_next ?_).trans (checked_next ?_)) <;>
    rcases may with rfl | ⟨here, unguarded, unlocked⟩
  · rfl
  · simp [here]
  · rfl
  · simp [unguarded, unlocked]
end

theorem linkCheck_qualify {l : Link} {e : QualifyEntry} (may : permitted l (.qualify l e) = true) :
    linkCheck l (.qualify l e) = none := by
  simp only [linkCheck, may]
  rfl

/-- Settles O48: each request's checks in order, then its accepted effect; the freeze by `Frozen.exec`. -/
theorem guardsAndQualify : Obligations.GuardsAndQualify := by
  refine ⟨fun n v s taken => ?protection, fun n s => ⟨fun taken => ?lock, fun taken => ?unlock, fun taken => ?freeze⟩,
    fun c s t not_reset frozen goes => Frozen.exec frozen not_reset goes, fun l e s taken may => ?qualify⟩
  case protection =>
    intro c
    refine ⟨fun saving => ?_, fun idle above => ?_, fun h idle => ⟨fun free => ?_, fun p slot =>
      ⟨fun frozen => ?_, fun thawed => ?_⟩⟩⟩ <;> refine congrArg Host.Outcome.next ?_
    · exact serve_reads taken rfl fun g => checked_first (s := s.modLink .S g) (saving_of_ne saving)
    · exact serve_reads taken rfl fun g => setProtection_above (s := s.modLink .S g) idle above
    · exact serve_reads taken rfl fun g => setProtection_free (s := s.modLink .S g) idle h free
    · exact serve_reads taken rfl fun g => setProtection_frozen (s := s.modLink .S g) idle h slot frozen
    · exact serve_goes id taken rfl rfl fun g => setProtection_accepted (s := s.modLink .S g) idle h slot thawed
  case lock =>
    obtain ⟨above, record⟩ := serve_setLock (n := n) true taken rfl
    exact ⟨fun h => congrArg Host.Outcome.next (above h), fun h => ⟨fun free => congrArg Host.Outcome.next ((record h).1 free),
      fun p slot => congrArg Host.Outcome.next ((record h).2 p slot)⟩⟩
  case unlock =>
    obtain ⟨above, record⟩ := serve_setLock (n := n) false taken rfl
    exact ⟨fun h => congrArg Host.Outcome.next (above h), fun h => ⟨fun free => congrArg Host.Outcome.next ((record h).1 free),
      fun p slot => congrArg Host.Outcome.next ((record h).2 p slot)⟩⟩
  case freeze => exact congrArg Host.Outcome.next (serve_goes id taken rfl rfl fun _ => rfl)
  case qualify =>
    intro c
    have checked := linkCheck_qualify may
    refine ⟨fun saving => ?_, fun idle bad => ?_, fun h a idle named => ⟨fun free => ?_, fun p slot =>
      ⟨fun arm_link elsewhere => ?_, fun arm_link here shut => ?_, fun open_ => ?_⟩⟩⟩ <;> refine congrArg Host.Outcome.next ?_
    · exact serve_reads taken checked fun g => qualify_saving (s := s.modLink l g) saving
    · exact serve_reads taken checked fun g => qualify_bad (s := s.modLink l g) idle bad
    · exact serve_reads taken checked fun g => qualify_free (s := s.modLink l g) idle named h free
    · exact serve_reads taken checked fun g => qualify_elsewhere (s := s.modLink l g) idle named h slot arm_link elsewhere
    · exact serve_reads taken checked fun g => qualify_guarded (s := s.modLink l g) idle named h slot arm_link here shut
    · exact serve_goes id taken checked rfl fun g => qualify_accepted (s := s.modLink l g) idle named h slot open_

end Sys2Proof.Machine
end

section
/-! PROOFS. The step of an ACTIVE segment (R85, R86); SAVE and RELOAD (R144, R205, R210 to R212). -/
namespace Sys2Proof.Machine
open Sys2Proof.Safety

/-! ### A setpoint expiry of an enabled arm whose check passes -/

/-- The state in which an expiry's frame is formed: the next period has started, the skip marks are spent (R44, R59). -/
def State.expired (s : State) (a : Arm) : State :=
  (s.modTimer a SetpointTimer.startPeriod).modAxes a AxisUnit.clearSkips

theorem setpointExpiry_passed {s : State} {a : Arm} (ready : s.startup = .ready) (den : (s.axes.get a).den = true)
    (passes : (s.axes.get a).strays (s.cal.get a).followingLimit = false) :
    setpointExpiry a s = expiryStep a (s.expired a) := by
  simp only [setpointExpiry, (ready_iff s).2 ready, den, passes, Bool.not_true, Bool.false_eq_true, if_false]
  rfl

/-- The step of an ACTIVE segment (R85). -/
theorem motionStep_active {s : State} {a : Arm} {w : Working} (active : (s.motion.get a).active = some w)
    (status : w.status = .active) : s.motionStep a
      = ((w.step (w.nextVelocity (s.cal.get a).a (s.motion.get a).override)).setpoints,
         some (w.step (w.nextVelocity (s.cal.get a).a (s.motion.get a).override)),
         if w.p + w.nextVelocity (s.cal.get a).a (s.motion.get a).override = w.len then some (endOutcome w.seg.move)
         else none) := by
  simp only [State.motionStep, active, status]
  rfl

theorem expiryStep_none {s : State} {a : Arm} (goes_on : (s.motionStep a).2.2 = none) : expiryStep a s
    = ((s.modMotion a fun m => { m with active := (s.motionStep a).2.1 }).modAxes a (·.sendSetpoints (s.motionStep a).1),
        []) := by
  simp only [expiryStep, goes_on]

theorem AxisUnit.sendSetpoints_lastSent (u : AxisUnit) (sp : Vec3) : (u.sendSetpoints sp).axis.map (·.lastSent) = sp := by
  refine PerAxis.ext_get fun i => ?_
  simp [AxisUnit.sendSetpoints]

/-- The bounds of the next velocity (R85). -/
theorem candidate_bounds (v acc vt : Nat) :
    (if v + acc ≤ vt then v + acc else if vt < v then max (v - acc) vt else vt) ≤ v + acc
    ∧ ∀ lim, v ≤ lim → vt ≤ lim → (if v + acc ≤ vt then v + acc else if vt < v then max (v - acc) vt else vt) ≤ lim := by
  split
  · exact ⟨Nat.le_refl _, fun lim _ h => by omega⟩
  · split
    · exact ⟨by omega, fun lim _ _ => by omega⟩
    · exact ⟨by omega, fun lim _ h => h⟩

/-- Settles O44: the step by `motionStep_active`, its bounds by those of the candidate. -/
theorem interpolation : Obligations.Interpolation := by
  intro a w s ready den passes moving active status short m acc vt cand v
  obtain ⟨rises, bounded⟩ := candidate_bounds w.v acc vt
  have below : v ≤ cand := Nat.le_trans (Nat.min_le_left _ _) (Nat.min_le_left _ _)
  have within : v ≤ w.len - w.p := Nat.min_le_right _ _
  refine ⟨fun goes_on => ?_, Working.setpoints_spec, by omega, fun slow => Nat.le_trans below (bounded _ slow (Nat.min_le_right _ _)),
    Nat.le_trans below rises, fun above => ?_⟩
  · have step : (s.expired a).motionStep a = ((w.step v).setpoints, some (w.step v), none) := by
      rw [motionStep_active (s := s.expired a) active status]
      exact congrArg (fun o => ((w.step v).setpoints, some (w.step v), o)) (if_neg goes_on)
    refine ⟨settle (expiryStep a (s.expired a)), ?_, ?_⟩
    · exact congrArg (fun e => Host.Outcome.next (settle e)) (setpointExpiry_passed ready den passes)
    · rw [expiryStep_none (by rw [step]), settle_nil, step]
      refine ⟨by simp [Working.step], ?_⟩
      have sent (u : State) : ((u.modAxes a (·.sendSetpoints (w.step v).setpoints)).axes.get a).axis.map (·.lastSent)
          = (w.step v).setpoints := by
        rw [State.modAxes_axes, PerArm.get_set]
        exact AxisUnit.sendSetpoints_lastSent _ _
      rw [sent]
      exact Working.setpoints_spec _
  · have fast : w.vFeed ≤ w.vFeed * m.override / 100 := by
      rw [Nat.le_div_iff_mul_le (by decide)]
      exact Nat.mul_le_mul_left _ (by omega)
    have full : w.vFeed * 100 / 100 = w.vFeed := Nat.mul_div_cancel _ (by decide)
    show min _ _ = min _ _
    rw [full, Nat.min_eq_right fast, Nat.min_self]

/-! ### SAVE -/

theorem regionBytes_length (im : Image) : (regionBytes im).length = regionSize im.section := by
  simp [regionBytes, contentBytes, regionSize, Nat.add_assoc]

section
variable {s : State} {im : Image} {page : Nat} (runs : s.save = .running im page)
include runs

theorem pageEnds_failed : pageEnds false s = State.raise { s with save := .idle } .S .saveFailed := by
  simp only [pageEnds, runs]
  rfl

theorem pageEnds_next (more : page + 1 < pageCount im.section) :
    pageEnds true s = { s with save := .running im (page + 1) } := by
  simp only [pageEnds, runs, Bool.not_true, Bool.false_eq_true, if_false, if_pos more]

theorem pageEnds_section (last : pageCount im.section ≤ page + 1) {x : Section} (next : sectionAfter im.section = some x) :
    pageEnds true s = { s with save := .running (s.imageOf x) 0 } := by
  simp only [pageEnds, runs, Bool.not_true, Bool.false_eq_true, if_false, if_neg (Nat.not_lt.2 last), next]

theorem pageEnds_done (last : pageCount im.section ≤ page + 1) (settings : im.section = .settings) :
    pageEnds true s = State.raise { s with save := .idle } .S .saveDone := by
  rw [settings] at last
  simp only [pageEnds, runs, settings, sectionAfter, Bool.not_true, Bool.false_eq_true, if_false, if_neg (Nat.not_lt.2 last)]
end

theorem storedProbe_free {s : State} {n : Slot} (free : s.probes.get n = none) : s.storedProbe n = none := by
  rw [State.storedProbe, free]; rfl

theorem storedProbe_lost {s : State} {n : Slot} {p : Probe} (slot : s.probes.get n = some p) (lost : p.place = .lost) :
    s.storedProbe n = none := by
  rw [State.storedProbe, slot]
  show (s.storedPlace n p).map _ = none
  rw [State.storedPlace, lost]
  rfl

/-- The stored form of a record at a place (R144, R205). -/
theorem storedProbe_at {s : State} {n : Slot} {p : Probe} {pl : PlaceEntry} (slot : s.probes.get n = some p)
    (place : s.storedPlace n p = some pl) : s.storedProbe n = some
      { identity := p.identity, reach := p.reach, tau := p.tau, home := p.home.map (·.val), qual := p.qual,
        guarded := p.guarded, place := pl, mountCount := p.mountCount, check := countCheck p.mountCount } := by
  rw [State.storedProbe, slot]
  show (s.storedPlace n p).map _ = _
  rw [place]
  rfl

/-- Where a record that is not LOST is stored (R144). -/
theorem storedPlace_known (s : State) (n : Slot) {p : Probe} (known : p.place ≠ .lost) : ∃ pl, s.storedPlace n p = some pl
    ∧ (∀ k, p.place = .stored k → pl = .pocket k.val) ∧ (∀ a, p.place = .mounted a → pl = .arm (some a))
    ∧ ∀ a c, p.place = .inTransit a → s.change.get a = some c →
      (∀ k, c.take = some (k, n) → pl = .pocket k.val) ∧ (c.take.map (·.2) ≠ some n → pl = .arm (some a)) := by
  cases place : p.place with
  | stored k => 
    exact ⟨_, by rw [State.storedPlace, place], fun _ e => (by cases e; rfl), fun _ e => (by cases e), fun _ _ e => (by cases e)⟩
  | mounted b => 
    exact ⟨_, by rw [State.storedPlace, place], fun _ e => (by cases e), fun _ e => (by cases e; rfl), fun _ _ e => (by cases e)⟩
  | lost => exact absurd place known
  | inTransit b =>
    cases take : (s.change.get b).bind (·.take) with
    | none =>
      refine ⟨_, by simp only [State.storedPlace, place, take]; rfl, fun _ e => (by cases e), fun _ e => (by cases e),
        fun a c e change => ?_⟩
      cases e
      rw [change] at take
      exact ⟨fun k taken => absurd (taken.symm.trans take) nofun, fun _ => rfl⟩
    | some x =>
      obtain ⟨k, m⟩ := x
      refine ⟨if m = n then .pocket k.val else .arm (some b), ?_, fun _ e => (by cases e), fun _ e => (by cases e),
        fun a c e change => ?_⟩
      · simp only [State.storedPlace, place, take]
        split <;> rfl
      · cases e
        rw [change] at take
        have taken : c.take = some (k, m) := take
        refine ⟨fun j at_j => ?_, fun other => ?_⟩
        · rw [at_j] at taken
          cases taken
          exact if_pos rfl
        · rw [taken] at other
          exact if_neg fun same => other (congrArg some same)

/-! ### RELOAD -/

/-- THERMAL goes to the link of an arm for which what R39 compares has changed; the other links keep all they hold. -/
theorem State.raiseThermal_links (s : State) (old new : Snapshot) :
    (s.raiseThermal old new).links.get .S = s.links.get .S
    ∧ ∀ a : Arm, (s.raiseThermal old new).links.get a.link
      = if old.watched a ≠ new.watched a then LinkState.raise .thermal (s.links.get a.link) else s.links.get a.link := by
  unfold State.raiseThermal
  refine ⟨?_, fun a => ?_⟩
  · dsimp only
    split <;> split <;> rfl
  · cases a <;> dsimp only [Arm.link] <;> split <;> split <;> rfl

/-- The cold snapshot differs for an arm in what was not STALE or HELD (R39, R42). -/
theorem watched_ne_cold_iff (t : Snapshot) (e : Nat) (w : Workpiece) (a : Arm) :
    t.watched a ≠ (Snapshot.cold e w).watched a ↔ t.source ≠ .held ∨ (t.groups.head.get a).stale = false
      ∨ ∃ i, ((t.groups.scale.get a).get i).stale = false := by
  have scale (i : Axis) : (((Snapshot.cold e w).groups.scale.get a).get i).stale = true := by cases a <;> cases i <;> rfl
  have head : ((Snapshot.cold e w).groups.head.get a).stale = true := by cases a <;> rfl
  have source : (Snapshot.cold e w).source = .held := rfl
  rw [Snapshot.watched_ne_iff, source, head]
  simp only [scale, ne_eq, eq_comm (a := true), eq_comm (a := Source.held), Bool.not_eq_true]
  grind

/-- The links at an accepted RELOAD (R190, R212). -/
theorem startReload_links (s : State) :
    (startReload .S s).links.get .S = { s.links.get .S with request := none, work := some .reload }
    ∧ ∀ a : Arm, (startReload .S s).links.get a.link = LinkState.abandon
      (if s.snapshot.watched a ≠ (Snapshot.cold 0 s.workpiece).watched a then LinkState.raise .thermal (s.links.get a.link)
       else s.links.get a.link) := by
  obtain ⟨on_S, on_arms⟩ := State.raiseThermal_links
    { s with snapshot := { Snapshot.cold 0 s.workpiece with epoch := (s.snapshot.epoch + 1) % 65536 } } s.snapshot
    { Snapshot.cold 0 s.workpiece with epoch := (s.snapshot.epoch + 1) % 65536 }
  refine ⟨?_, fun a => ?_⟩
  · exact congrArg (fun x : LinkState => { x with request := none, work := some Work.reload }) on_S
  · cases a
    · exact congrArg LinkState.abandon (on_arms .A)
    · exact congrArg LinkState.abandon (on_arms .B)

/-- All but the links of the state at an accepted RELOAD. -/
theorem startReload_fields (s : State) : ∃ ls, startReload .S s = { s with
    links := ls
    snapshot := { Snapshot.cold 0 s.workpiece with epoch := (s.snapshot.epoch + 1) % 65536 }
    channels := s.channels.map Channel.restart
    pass := none
    holders := Vector.replicate 16 none
    linger := .both none
    timers := s.timers.map fun (t : SetpointTimer) => .stopped t.n t.d
    scanTimer := ⟨0, 0⟩
    scanSync := false
    axes := s.axes.map AxisUnit.unreference
    standing := .both []
    deferred := .both false
    waiters := []
    handover := []
    readers := .both ⟨none, none⟩
    rack := { s.rack with rackTimer := none, stepTimer := none, dropTimer := none }
    startup := .loading
    loading := some .calibration } := by
  obtain ⟨ls, published⟩ := State.publish_fields s (.cold 0 s.workpiece)
  rw [startReload, State.reloadThermal, published]
  exact ⟨_, rfl⟩

/-- The owner of a request acts on the state with its own link's request taken: PENDING, its flags and mask as they
stood. -/
theorem serve_acts {s : State} {l : Link} {c : Instr} {f : State → State} (taken : Takes s l c)
    (checked : linkCheck l c = none) : ∃ x : LinkState, serve l c f s = f (s.modLink l fun _ => x)
      ∧ x.phase = .pending ∧ x.flags = (s.links.get l).flags ∧ x.mask = (s.links.get l).mask := by
  rcases taken with arrives | held
  · exact ⟨LinkState.take (s.links.get l), by rw [serve_open arrives checked]; rfl, rfl, rfl, rfl⟩
  · refine ⟨s.links.get l, ?_, ?_, rfl, rfl⟩
    · rw [serve_held held]
      exact congrArg f (State.modLink_id s l).symm
    · simp only [State.holdsRequest, Bool.and_eq_true, decide_eq_true_eq] at held
      exact held.1.1

theorem bothOff_iff (s : State) : s.bothOff = true ↔ ∀ a : Arm, (s.motion.get a).phase = .off := by
  simp only [State.bothOff, Bool.and_eq_true, decide_eq_true_eq]
  exact ⟨fun h a => by cases a; exact h.1; exact h.2, fun h => ⟨h .A, h .B⟩⟩

theorem anyContext_eq_false_iff (s : State) : s.anyContext = false ↔ ∀ a : Arm, s.change.get a = none := by
  simp only [State.anyContext, Bool.or_eq_false_iff, Option.isSome_eq_false_iff, Option.isNone_iff_eq_none]
  exact ⟨fun h a => by cases a; exact h.1; exact h.2, fun h => ⟨h .A, h .B⟩⟩

theorem inventoryRuns_eq_false_iff (s : State) : s.inventoryRuns = false ↔ s.inventory = .idle := by
  cases e : s.inventory <;> simp [State.inventoryRuns, e]

/-- The state check of RELOAD (R212). -/
theorem reloadBarred_iff (s : State) : (!s.bothOff || s.anyContext || s.inventoryRuns) = true
    ↔ (∃ a, (s.motion.get a).phase ≠ .off) ∨ (∃ a, s.change.get a ≠ none) ∨ s.inventory ≠ .idle := by
  have passes : (!s.bothOff || s.anyContext || s.inventoryRuns) = false
      ↔ ¬ ((∃ a, (s.motion.get a).phase ≠ .off) ∨ (∃ a, s.change.get a ≠ none) ∨ s.inventory ≠ .idle) := by
    simp only [Bool.or_eq_false_iff, Bool.not_eq_false', bothOff_iff, anyContext_eq_false_iff, inventoryRuns_eq_false_iff,
      not_or, not_exists, ne_eq, Classical.not_not, and_assoc]
  rw [← Bool.not_eq_false, passes, Classical.not_not]

theorem LinkState.mem_raise_flags (x : LinkState) (k j : Notice) : j ∈ (x.raise k).flags ↔ j ∈ x.flags ∨ j = k := by
  simp only [LinkState.raise, LinkState.reform, mem_addNotice, or_comm]

theorem Arm.link_inj {a b : Arm} (same : a.link = b.link) : a = b := by
  cases a with
  | A =>
    cases b with
    | A => rfl
    | B => cases same
  | B =>
    cases b with
    | A => cases same
    | B => rfl

/-- Settles O58: SAVE page by page, the copies by `storedProbe_at`, RELOAD by `startReload_fields`. -/
theorem saveAndReload : Obligations.SaveAndReload := by
  refine ⟨fun s taken => ⟨fun saving => ?_, fun idle => ?_⟩, fun ack s => ⟨fun idle => ?_, fun im page runs =>
    ⟨?_, ?_, ?_, ?_⟩⟩, fun s n => ?probes, regionBytes_length, fun s => ?images, fun s taken => ?reload⟩
  · exact congrArg Host.Outcome.next (serve_reads taken rfl fun g => checked_first (s := s.modLink .S g) (saving_of_ne saving))
  · exact congrArg Host.Outcome.next
      (serve_goes id taken rfl rfl fun g => checked_next (s := s.modLink .S g) (saving_of_idle idle))
  · refine congrArg Host.Outcome.next ?_
    simp only [pageEnds, idle]
  · rintro rfl
    exact congrArg Host.Outcome.next (pageEnds_failed runs)
  · rintro rfl more
    exact congrArg Host.Outcome.next (pageEnds_next runs more)
  · rintro x rfl last next
    exact congrArg Host.Outcome.next (pageEnds_section runs last next)
  · rintro rfl last settings
    exact congrArg Host.Outcome.next (pageEnds_done runs last settings)
  case probes =>
    have stored : (Table.of fun n => s.storedProbe n).get n = s.storedProbe n := Table.get_of _ _
    refine ⟨_, rfl, fun free => stored.trans (storedProbe_free free), fun p slot =>
      ⟨fun lost => stored.trans (storedProbe_lost slot lost), fun known => ?_⟩⟩
    obtain ⟨pl, place, at_pocket, on_arm, away⟩ := storedPlace_known s n known
    exact ⟨_, stored.trans (storedProbe_at slot place), rfl, rfl, rfl, rfl, rfl, rfl, rfl, rfl, at_pocket, on_arm,
      fun a c k e change take => (away a c e change).1 k take, fun a c k e change _ other => (away a c e change).2 other⟩
  case images =>
    exact ⟨rfl, ⟨_, rfl, fun z => Table.get_map _ _ _⟩, ⟨_, rfl, fun c => Table.get_map _ _ _⟩,
      ⟨_, rfl, fun p => by rw [Table.get_map, decide_eq_true_eq]⟩, rfl⟩
  case reload =>
    intro wrong
    refine ⟨fun saving => ?_, fun idle is_wrong => ?_, fun idle right => ?_⟩
    · exact congrArg Host.Outcome.next (serve_reads taken rfl fun g => checked_first (s := s.modLink .S g) (saving_of_ne saving))
    · exact congrArg Host.Outcome.next (serve_reads taken rfl fun g =>
        (checked_next (s := s.modLink .S g) (saving_of_idle idle)).trans (checked_first ((reloadBarred_iff s).2 is_wrong)))
    · have passes : (!s.bothOff || s.anyContext || s.inventoryRuns) = false := by
        rw [← Bool.not_eq_true, reloadBarred_iff]; exact right
      obtain ⟨x, acts, pending, flags, mask⟩ := serve_acts (f := Machine.reload .S) taken rfl
      have started : Machine.reload .S (s.modLink .S fun _ => x) = startReload .S (s.modLink .S fun _ => x) :=
        (checked_next (saving_of_idle idle)).trans (checked_next passes)
      obtain ⟨on_S, on_arms⟩ := startReload_links (s.modLink .S fun _ => x)
      obtain ⟨ls, fields⟩ := startReload_fields (s.modLink .S fun _ => x)
      have own_link : (s.modLink .S fun _ => x).links.get .S = x := by
        rw [State.modLink_links, PerLink.get_set]
      have arm_link (a : Arm) : (s.modLink .S fun _ => x).links.get a.link = s.links.get a.link :=
        PerLink.get_set_ne _ _ (by cases a <;> nofun)
      have thermal (a : Arm) := watched_ne_cold_iff s.snapshot 0 s.workpiece a
      refine ⟨_, congrArg Host.Outcome.next (acts.trans started), ?_⟩
      refine ⟨by rw [fields], by rw [fields], by rw [on_S, own_link]; exact pending,
        by rw [on_S], fun a => ?_, fun a => ?_, ?_⟩
      · rw [on_arms, arm_link]
        refine ⟨rfl, rfl, rfl, rfl, ?_⟩
        split <;> rfl
      · rw [fields]
        refine ⟨?_, ?_, ?_, ?_, ?_⟩ <;> simp [SetpointTimer.stopped]
      refine ⟨by rw [fields], by rw [fields], by rw [fields], by rw [fields]; rfl, by rw [fields]; rfl, fun a i => ?_,
        by rw [fields]; rfl, by rw [fields]; rfl, fun l k => ?_, fun z => by rw [fields]; exact get_replicate _ z, ?_⟩
      · rw [fields]
        cases a <;> cases i <;> rfl
      · rcases (show l = .S ∨ ∃ a : Arm, l = a.link by cases l; exact .inr ⟨.A, rfl⟩; exact .inr ⟨.B, rfl⟩; exact .inl rfl)
          with rfl | ⟨a, rfl⟩
        · rw [on_S, own_link, show k ∈ (_ : LinkState).flags ↔ k ∈ (s.links.get .S).flags from iff_of_eq (congrArg (k ∈ ·) flags)]
          refine (or_iff_left ?_).symm
          rintro ⟨-, a, same, -⟩
          cases a <;> cases same
        · have alone (P : Arm → Prop) : (∃ b : Arm, a.link = b.link ∧ P b) ↔ P a :=
            ⟨fun ⟨b, same, holds⟩ => by obtain rfl := Arm.link_inj same; exact holds,
              fun holds => ⟨a, rfl, holds⟩⟩
          rw [on_arms, arm_link, alone, ← thermal a]
          show k ∈ (if s.snapshot.watched a ≠ (Snapshot.cold 0 s.workpiece).watched a then _ else _ : LinkState).flags ↔ _
          by_cases differs : s.snapshot.watched a ≠ (Snapshot.cold 0 s.workpiece).watched a
          · rw [if_pos differs, LinkState.mem_raise_flags, and_iff_left differs]
          · rw [if_neg differs, or_iff_left fun h => differs h.2]
      · rw [fields]
        exact ⟨rfl, rfl, rfl, rfl, rfl, rfl, rfl, rfl, rfl, rfl, rfl, rfl, rfl⟩

end Sys2Proof.Machine
end
section
/-! PROOFS. A cascade piece by piece: what a list of pieces runs to, and the pieces that a flush, a release and the start of a
head set off while no arm waits. -/
namespace Sys2Proof.Machine
open Sys2Proof.Safety

/-! ### Pieces that run to their end -/

/-- The pieces ts take s to t within w steps, whatever waits behind them. -/
def Runs (w : Nat) (ts : List Task) (s t : State) : Prop :=
  ∃ k ≤ w, ∀ n us, runTasks (n + k) (ts ++ us) s = runTasks n us t

namespace Runs
variable {v w : Nat} {ts us : List Task} {s t u : State}

theorem nil (s : State) : Runs 0 [] s s := ⟨0, Nat.le_refl 0, fun _ _ => rfl⟩

theorem mono (h : v ≤ w) (r : Runs v ts s t) : Runs w ts s t := by
  obtain ⟨k, hk, run⟩ := r
  exact ⟨k, Nat.le_trans hk h, run⟩

/-- A piece, then what it sets off. -/
theorem piece {x : Task} {e : Eff} (does : perform x s = e) (r : Runs w e.2 e.1 t) : Runs (w + 1) [x] s t := by
  obtain ⟨k, hk, run⟩ := r
  refine ⟨k + 1, Nat.succ_le_succ hk, fun n us => ?_⟩
  rw [← Nat.add_assoc, List.singleton_append, runTasks_cons, does]
  exact run n us

theorem append (first : Runs v ts s t) (next : Runs w us t u) : Runs (v + w) (ts ++ us) s u := by
  obtain ⟨j, hj, run⟩ := first
  obtain ⟨k, hk, go⟩ := next
  refine ⟨j + k, Nat.add_le_add hj hk, fun n xs => ?_⟩
  rw [List.append_assoc, Nat.add_comm j, ← Nat.add_assoc, run, go]

theorem cons {x : Task} (first : Runs v [x] s t) (next : Runs w us t u) : Runs (v + w) (x :: us) s u := append first next

/-- A cascade whose pieces run to t ends in t. -/
theorem settle (r : Runs w ts s t) (h : w ≤ cascadeBound) : settle (s, ts) = t := by
  obtain ⟨k, hk, run⟩ := r
  have := run (cascadeBound - k) []
  rw [Nat.sub_add_cancel (Nat.le_trans hk h), List.append_nil, runTasks_nil] at this
  exact this

/-- A contained piece, while no arm waits. -/
theorem of_contained {x : Task} (c : Contained w x) (unawaited : s.waiters = []) : ∃ t, Runs w [x] s t ∧ ExceptZones s t := by
  obtain ⟨t, k, -, hk, kept, run⟩ := c s unawaited
  exact ⟨t, ⟨k, hk, run⟩, kept⟩

end Runs

/-! ### The zone fields alone -/

/-- A state that differs in the zone fields, written as an update. -/
theorem ExceptZones_update {u t : State} (h : ExceptZones u t) : ∃ holders standing deferred linger handover,
    t = { u with
      holders := holders, standing := standing, deferred := deferred, linger := linger, handover := handover } :=
  ⟨_, _, _, _, _, h⟩

/-! ### The start of a head -/

/-- The head h becomes the active segment on a geometry, with the rest queued (R83). -/
def State.begins (s : State) (a : Arm) (h : Segment) (rest : List Segment) (g : Option Geometry) : State :=
  (s.modMotion a fun m => { m with queue := rest, geometry := none, active := some (s.work a h g) }).setPhase a .moving

/-- What the working record of a head is formed from (R83). -/
theorem State.work_congr {s u : State} {a : Arm} (cal : u.cal = s.cal) (timers : u.timers = s.timers)
    (snapshot : u.snapshot = s.snapshot) (standing : (u.axes.get a).standing = (s.axes.get a).standing) (h : Segment)
    (g : Option Geometry) : u.work a h g = s.work a h g := by
  simp only [State.work, cal, timers, snapshot, standing]

theorem ExceptZones_begins {s t : State} (kept : ExceptZones s t) (a : Arm) (h : Segment) (rest : List Segment)
    (g : Option Geometry) : ExceptZones (s.begins a h rest g) (t.begins a h rest g) := by
  obtain ⟨_, _, _, _, _, rfl⟩ := ExceptZones_update kept
  rfl

/-- Stage 7 of a head while no arm waits. -/
theorem runs_activate {s : State} {a : Arm} {h : Segment} {rest : List Segment} {g : Option Geometry}
    (queue : (s.motion.get a).queue = h :: rest) (geometry : (s.motion.get a).geometry = g) (unawaited : s.waiters = []) :
    ∃ t, Runs 3 [.activate a] s t ∧ ExceptZones (s.begins a h rest g) t := by
  have acts : activate a s = activateZones a (s.work a h g).needed (s.begins a h rest g) := by
    simp only [activate, queue, geometry, State.begins]
  have kept : ExceptZones (s.begins a h rest g) (activateZones a (s.work a h g).needed (s.begins a h rest g)).1 := rfl
  obtain ⟨t, run, zones⟩ := Runs.of_contained (release_contained a (((s.begins a h rest g).loose a).filter fun z =>
    !(s.work a h g).needed.contains z)) (s := (activateZones a (s.work a h g).needed (s.begins a h rest g)).1) unawaited
  exact ⟨t, Runs.piece (x := .activate a) acts run, ExceptZones_trans kept zones⟩

/-- A HOME at the head starts at once (R82, R89). -/
theorem runs_evaluate_home {s : State} {a : Arm} {h : Segment} {rest : List Segment}
    (unreset : (s.motion.get a).resetPending = false) (queue : (s.motion.get a).queue = h :: rest)
    (home : h.move.kind = .home) (unawaited : s.waiters = []) :
    ∃ t, Runs 4 [.evaluate a] s t ∧ ExceptZones (s.begins a h rest none) t := by
  have target : h.move.target? = none := by
    cases move : h.move with
    | home i d n => rfl
    | _ => simp only [move, Move.kind, reduceCtorEq] at home
  have acts : perform (.evaluate a) s = (s.modMotion a fun m => { m with geometry := none }, [.activate a]) := by
    simp only [perform, evaluate, unreset, queue, target, Bool.false_eq_true, if_false]
  obtain ⟨t, run, zones⟩ := runs_activate (s := s.modMotion a fun m => { m with geometry := none }) (a := a) (h := h)
    (rest := rest) (g := none) (by rw [State.modMotion_motion, PerArm.get_set]; exact queue)
    (by rw [State.modMotion_motion, PerArm.get_set]) unawaited
  refine ⟨t, Runs.piece acts run, ?_⟩
  have same : (s.modMotion a fun m => { m with geometry := none }).begins a h rest none = s.begins a h rest none := by
    cases a <;> rfl
  rwa [same] at zones

/-! ### A flush, with the entry of the head -/

/-- An answer and a notice touch different fields of a link. -/
theorem raise_answered (s : State) (l m : Link) (k : Notice) (c : Code) (p : Payload) :
    (answered s l c p).raise m k = answered (s.raise m k) l c p := by
  cases l <;> cases m <;> rfl

theorem modMotion_answered (s : State) (a : Arm) (f : Motion → Motion) (l : Link) (c : Code) (p : Payload) :
    (answered s l c p).modMotion a f = answered (s.modMotion a f) l c p := rfl

theorem addResult_answered (s : State) (a : Arm) (tag : Nat) (o : Outcome) (n : Option Nat) (l : Link) (c : Code)
    (p : Payload) : (answered s l c p).addResult a tag o n = answered (s.addResult a tag o n) l c p := by
  simp only [State.addResult, modMotion_answered, raise_answered]

theorem withdraw_answered (s : State) (a : Arm) (w : Purpose) (l : Link) (c : Code) (p : Payload) :
    withdraw a w (answered s l c p) = (answered (withdraw a w s).1 l c p, (withdraw a w s).2) := by
  have same : (answered s l c p).entry a = s.entry a := rfl
  unfold withdraw
  rw [same]
  cases s.entry a with
  | none => rfl
  | some x =>
    by_cases purpose : x.purpose = w
    · simp only [purpose, if_true]; rfl
    · simp only [purpose, if_false]

/-- A flush of the answered state answers the flushed state. -/
theorem flush_answered (s : State) (a : Arm) (l : Link) (c : Code) (p : Payload) :
    flush a (answered s l c p) = (answered (flush a s).1 l c p, (flush a s).2) := by
  have same : (answered s l c p).motion = s.motion := rfl
  cases queue : (s.motion.get a).queue with
  | nil => rw [flush_nil queue, flush_nil (by rw [same]; exact queue)]
  | cons h rest =>
    simp only [flush, same, queue, modMotion_answered, addResult_answered, withdraw_answered]
    split <;> rfl

/-- The queue of h and rest leaves with its one result (R74). -/
def State.cutQueue (s : State) (a : Arm) (h : Segment) (rest : List Segment) : State :=
  (s.modMotion a fun m => { m with queue := [], geometry := none }).addResult a h.tag .flushed (some (rest.length + 1))

theorem flush_waiting {s : State} {a : Arm} {h : Segment} {rest : List Segment} (queue : (s.motion.get a).queue = h :: rest)
    (waits : (s.motion.get a).phase = .waiting .zone) : flush a s = withdraw a .segment (s.cutQueue a h rest) := by
  simp only [State.cutQueue, flush, queue, waits, if_true, List.length_cons]

theorem withdraw_unawaited {s : State} (unawaited : s.waiters = []) (a : Arm) (p : Purpose) : withdraw a p s = (s, []) := by
  simp only [withdraw, State.entry, unawaited, List.find?_nil]

theorem withdraw_own {s : State} {a : Arm} {zs : List ZoneId} (own : s.waiters = [⟨a, .segment, zs⟩]) :
    withdraw a .segment s = (s.dropEntry a, [.recomputeOwed a]) := by
  simp [withdraw, State.entry, own]

/-- A flush where no other arm waits leaves no entry, and sets off the deferred recompute at most (R114). -/
theorem flush_alone {s : State} {a : Arm} (alone : Alone s a) :
    (flush a s).1.waiters = [] ∧ ((flush a s).2 = [] ∨ (flush a s).2 = [.recomputeOwed a]) := by
  obtain unawaited | ⟨waits, filled, zs, own⟩ := alone
  · cases queue : (s.motion.get a).queue with
    | nil => rw [flush_nil queue]; exact ⟨unawaited, .inl rfl⟩
    | cons h rest =>
      by_cases waits : (s.motion.get a).phase = .waiting .zone
      · rw [flush_waiting queue waits, withdraw_unawaited (s := s.cutQueue a h rest) unawaited]
        exact ⟨unawaited, .inl rfl⟩
      · rw [flush_cons queue waits]
        exact ⟨unawaited, .inl rfl⟩
  · obtain ⟨h, rest, queue⟩ := List.exists_cons_of_ne_nil filled
    rw [flush_waiting queue waits, withdraw_own (s := s.cutQueue a h rest) own]
    refine ⟨?_, .inr rfl⟩
    show List.filter _ s.waiters = []
    rw [own]
    simp

theorem PerArm.set_get {α : Type} (v : PerArm α) (a : Arm) : v.set a (v.get a) = v := by cases a <;> rfl

/-- What a flush may change: the arm's queue, geometry and results, the links, the waiter list and the hand-over counts. -/
theorem flush_shape (a : Arm) (s : State) : ∃ m links waiters handover, (flush a s).1 = { s with
      motion := s.motion.set a m, links := links, waiters := waiters, handover := handover }
    ∧ m = { s.motion.get a with queue := [], geometry := m.geometry, results := m.results, resultCount := m.resultCount } := by
  cases queue : (s.motion.get a).queue with
  | nil =>
    rw [flush_nil queue]
    exact ⟨s.motion.get a, _, _, _, by rw [PerArm.set_get], by rw [← queue]⟩
  | cons h rest =>
    have cut : ∃ m links, s.cutQueue a h rest = { s with motion := s.motion.set a m, links := links }
        ∧ m = { s.motion.get a with
          queue := [], geometry := m.geometry, results := m.results, resultCount := m.resultCount } := by
      refine ⟨(s.cutQueue a h rest).motion.get a, (s.cutQueue a h rest).links, ?_, ?_⟩ <;> cases a <;> rfl
    obtain ⟨m, links, shape, kept⟩ := cut
    by_cases waits : (s.motion.get a).phase = .waiting .zone
    · rw [flush_waiting queue waits, shape]
      unfold withdraw
      split
      · exact ⟨m, links, _, _, rfl, kept⟩
      · split <;> exact ⟨m, links, _, _, rfl, kept⟩
    · rw [flush_cons queue waits]
      exact ⟨m, links, _, _, shape, kept⟩

/-- The flushed arm: an empty queue, its state as it was. -/
theorem flush_motion (a : Arm) (s : State) : ((flush a s).1.motion.get a).queue = []
    ∧ ((flush a s).1.motion.get a).phase = (s.motion.get a).phase
    ∧ ((flush a s).1.motion.get a).active = (s.motion.get a).active
    ∧ ((flush a s).1.motion.get a).resetPending = (s.motion.get a).resetPending
    ∧ ((flush a s).1.motion.get a).holdPending = (s.motion.get a).holdPending := by
  obtain ⟨m, links, waiters, handover, shape, kept⟩ := flush_shape a s
  rw [shape, PerArm.get_set, kept]
  exact ⟨rfl, rfl, rfl, rfl, rfl⟩

/-- A flush of an arm that does not wait for zones sets off nothing. -/
theorem flush_pieces {s : State} {a : Arm} (settled : (s.motion.get a).phase ≠ .waiting .zone) : (flush a s).2 = [] := by
  cases queue : (s.motion.get a).queue with
  | nil => rw [flush_nil queue]
  | cons h rest => rw [flush_cons queue settled]

theorem unwaited_of_unawaited {s : State} (unawaited : s.waiters = []) : unwaited s = s := by
  rw [unwaited, ← unawaited]

/-- What a flush sets off while no other arm waits. -/
theorem runs_flush {s u : State} {a : Arm} (alone : Alone s a) (unawaited : u.waiters = []) :
    ∃ t, Runs 4 (flush a s).2 u t ∧ ExceptZones u t := by
  obtain ⟨-, none | owed⟩ := flush_alone alone
  · exact ⟨u, none ▸ (Runs.nil u).mono (by decide), rfl⟩
  · rw [owed]; exact Runs.of_contained (recomputeOwed_contained a) unawaited

end Sys2Proof.Machine
end
section
/-! PROOFS. POST and REPLACE (R73, R75 to R77): the checks in the words of the rules, then what an accepted request does. -/
namespace Sys2Proof.Machine
open Sys2Proof.Safety

/-! ### The entries of a request -/

/-- An entry that check 2 of R75 refuses. -/
theorem segmentOf_eq_none_iff (e : SegEntry) : segmentOf e = none ↔ e.kind = none ∨ e.feed < 1 ∨ 1000000 < e.feed
    ∨ (e.kind = some .probe ∧ 1000000 < e.overtravel)
    ∨ (e.kind = some .home ∧ (e.axis = none ∨ e.direction = none ∨ e.search < 1 ∨ 200000000 < e.search)) := by
  unfold segmentOf
  simp only [outsideNat_iff]
  by_cases feed : e.feed < 1 ∨ 1000000 < e.feed
  · rw [if_pos feed]
    exact ⟨fun _ => .inr (feed.imp_right .inl), fun _ => rfl⟩
  · rw [if_neg feed]
    cases kind : e.kind with
    | none => simp
    | some k =>
      cases k with
      | position => simp; omega
      | rack => simp; omega
      | probe => simp; omega
      | home =>
        cases axis : e.axis with
        | none => simp
        | some i =>
          cases direction : e.direction with
          | none => simp
          | some d => simp; omega

/-- The segment of an entry that passes (R73). -/
theorem segmentOf_some {e : SegEntry} {x : Segment} (passes : segmentOf e = some x) : x.tag = e.tag ∧ x.feed = e.feed
    ∧ (e.kind = some .position → x.move = .position e.target) ∧ (e.kind = some .rack → x.move = .rack e.target)
    ∧ (e.kind = some .probe → x.move = .probe e.target e.overtravel)
    ∧ (∀ i d, e.kind = some .home → e.axis = some i → e.direction = some d → x.move = .home i d e.search) := by
  unfold segmentOf at passes
  split at passes
  · cases passes
  · split at passes
    next => cases passes
    next kind => cases passes; simp [kind]
    next kind => cases passes; simp [kind]
    next kind => split at passes <;> cases passes; simp [kind]
    next kind =>
      split at passes
      next axis direction =>
        split at passes <;> cases passes
        simp only [kind, axis, direction, Option.some.injEq, reduceCtorEq, false_implies, true_and]
        rintro i d - rfl rfl
        rfl
      next => cases passes

theorem segmentsOf_eq_none_iff (es : List SegEntry) : segmentsOf es = none ↔ ∃ e ∈ es, segmentOf e = none := by
  induction es with
  | nil => simp [segmentsOf]
  | cons e es ih =>
    simp only [segmentsOf, List.mem_cons, exists_eq_or_imp, ← ih]
    cases segmentOf e <;> cases segmentsOf es <;> simp

/-- The segments of a request are those of its entries, one by one. -/
theorem segmentsOf_get {es : List SegEntry} {xs : List Segment} (pass : segmentsOf es = some xs) : xs.length = es.length
    ∧ ∀ (i : Nat) (e : SegEntry) (x : Segment), es[i]? = some e → xs[i]? = some x → segmentOf e = some x := by
  induction es generalizing xs with
  | nil => cases pass; exact ⟨rfl, fun i e x entry => by simp at entry⟩
  | cons e es ih =>
    simp only [segmentsOf] at pass
    split at pass
    next x ys here there =>
      cases pass
      obtain ⟨length, entries⟩ := ih there
      refine ⟨congrArg (· + 1) length, fun i e' x' entry segment => ?_⟩
      cases i with
      | zero => cases entry; cases segment; exact here
      | succ i => exact entries i e' x' entry segment
    next => cases pass

/-! ### The checks -/

theorem State.postBarred_iff (s : State) (a : Arm) : s.postBarred a = true ↔ (s.motion.get a).phase = .off
    ∨ (s.motion.get a).phase = .collision ∨ (∃ r, (s.motion.get a).phase = .fault r)
    ∨ (s.motion.get a).resetPending = true := by
  cases phase : (s.motion.get a).phase <;> simp [State.postBarred, phase]

theorem withinLimits_iff (c : Calibration) (t : Vec3) : withinLimits c t = true ↔ ∀ i, (c.axis.get i).softMin < (c.axis.get i).softMax
    ∧ (c.axis.get i).softMin ≤ t.get i ∧ t.get i ≤ (c.axis.get i).softMax := by
  simp only [withinLimits, PerAxis.every, PerAxis.of, id, Bool.and_eq_true, decide_eq_true_eq, and_assoc]
  exact ⟨fun ⟨x1, x2, x3, y1, y2, y3, z⟩ i => match i with | .X => ⟨x1, x2, x3⟩ | .Y => ⟨y1, y2, y3⟩ | .Z => z,
    fun h => ⟨(h .X).1, (h .X).2.1, (h .X).2.2, (h .Y).1, (h .Y).2.1, (h .Y).2.2, h .Z⟩⟩

theorem State.unreferenced_iff (s : State) (a : Arm) :
    s.unreferenced a = true ↔ ∃ i, ((s.axes.get a).axis.get i).referenced = false := by
  simp only [State.unreferenced, PerAxis.any_iff, Bool.not_eq_true']

theorem State.mountedOn_isNone_iff (s : State) (a : Arm) :
    (s.mountedOn a).isNone = true ↔ ∀ n p, s.probes.get n = some p → p.place ≠ .mounted a := by
  cases mounted : s.mountedOn a with
  | none => exact iff_of_true rfl fun n p slot place => mountedOn_none mounted n ⟨p, slot, place⟩
  | some n =>
    obtain ⟨p, slot, place⟩ := mountedOn_some mounted
    exact iff_of_false Bool.false_ne_true fun free => free n p slot place

/-- The owner of POST and REPLACE before the request is accepted (R75, R77). -/
def judgeSegments (l : Link) (a : Arm) (es : List SegEntry) (room : Nat) (accept : List Segment → State → State) (s : State) :
    State :=
  if s.postBarred a then s.respond l .wrongState
  else
    match segmentsOf es with
    | none => s.respond l .badArgument
    | some segs => s.checked l (s.postChecks a segs room) (accept segs)

theorem post_eq (l : Link) (es : List SegEntry) (a : Arm) (s : State) : post l es a s
    = judgeSegments l a es (16 - (s.motion.get a).queue.length) (fun segs s => settle (postAccepted a segs (s.respond l .ok))) s := rfl

theorem replace_eq (l : Link) (es : List SegEntry) (a : Arm) (s : State) : replace l es a s
    = judgeSegments l a es 16 (fun segs s => settle (replaceAccepted a segs (s.respond l .ok))) s := rfl

section
variable {l : Link} {a : Arm} {es : List SegEntry} {room : Nat} {accept : List Segment → State → State} {s : State}

theorem judgeSegments_barred (barred : s.postBarred a = true) :
    judgeSegments l a es room accept s = s.respond l .wrongState := if_pos barred

theorem judgeSegments_bad (barred : s.postBarred a = false) (bad : segmentsOf es = none) :
    judgeSegments l a es room accept s = s.respond l .badArgument := by
  simp only [judgeSegments, barred, bad, Bool.false_eq_true, if_false]

theorem judgeSegments_checked (barred : s.postBarred a = false) {xs : List Segment} (pass : segmentsOf es = some xs) :
    judgeSegments l a es room accept s = s.checked l (s.postChecks a xs room) (accept xs) := by
  simp only [judgeSegments, barred, pass, Bool.false_eq_true, if_false]

/-- The five checks that follow the argument check, by what each finds (R75). -/
theorem State.postChecks_spec (s : State) (a : Arm) (xs : List Segment) (room : Nat) : ∃ rack mark limit tip full : Bool,
    s.postChecks a xs room = [(rack, .wrongState), (mark, .notReferenced), (limit, .outOfLimits), (tip, .noProbe),
      (full, .queueFull)]
    ∧ (rack = true ↔ (∃ x ∈ xs, x.move.kind = .rack) ∧ s.rackOpenStep a = false)
    ∧ (mark = true ↔ (∃ x ∈ xs, x.move.kind ≠ .home) ∧ ∃ i, ((s.axes.get a).axis.get i).referenced = false)
    ∧ (limit = true ↔ ∃ x ∈ xs, ∃ t, x.move.target? = some t ∧ ∃ i,
      ¬ (((s.cal.get a).axis.get i).softMin < ((s.cal.get a).axis.get i).softMax
        ∧ ((s.cal.get a).axis.get i).softMin ≤ t.get i ∧ t.get i ≤ ((s.cal.get a).axis.get i).softMax))
    ∧ (tip = true ↔ (∃ x ∈ xs, x.move.kind = .probe)
      ∧ ((∀ n p, s.probes.get n = some p → p.place ≠ .mounted a) ∨ s.change.get a ≠ none))
    ∧ (full = true ↔ room < xs.length) := by
  refine ⟨_, _, _, _, _, rfl, ?_, ?_, ?_, ?_, decide_eq_true_iff⟩
  · simp only [Bool.and_eq_true, List.any_map, List.any_eq_true, Function.comp, decide_eq_true_eq, Bool.not_eq_true']
  · simp only [Bool.and_eq_true, List.any_map, List.any_eq_true, Function.comp, decide_eq_true_eq, State.unreferenced_iff]
  · simp only [List.any_map, List.any_eq_true, Function.comp, Option.any_eq_true, Bool.not_eq_true', ← Bool.not_eq_true,
      withinLimits_iff, Classical.not_forall]
  · simp only [Bool.and_eq_true, List.any_map, List.any_eq_true, Function.comp, decide_eq_true_eq, Bool.or_eq_true,
      State.mountedOn_isNone_iff, Option.isSome_iff_ne_none]

end

/-! ### The commands -/

theorem linkCheck_post {es : List SegEntry} (some_entry : 1 ≤ es.length) (at_most : es.length ≤ 4) (a : Arm) :
    linkCheck a.link (.post a.link es) = none := by
  cases a <;> simp [linkCheck, lengthOk, permitted, commandClass, Arm.link, Link.arm?, some_entry, at_most]

theorem linkCheck_replace {es : List SegEntry} (some_entry : 1 ≤ es.length) (at_most : es.length ≤ 4) (a : Arm) :
    linkCheck a.link (.replace a.link es) = none := by
  cases a <;> simp [linkCheck, lengthOk, permitted, commandClass, Arm.link, Link.arm?, some_entry, at_most]

/-- An accepted POST on an arm that is not IDLE (R76). -/
theorem postAccepted_queues {s : State} {a : Arm} (busy : (s.motion.get a).phase ≠ .idle) (xs : List Segment) :
    settle (postAccepted a xs s) = s.modMotion a fun m => { m with queue := m.queue ++ xs } := by
  simp only [postAccepted, busy, if_false, settle_nil, State.appendSegments]

/-- An accepted POST on an IDLE arm with a HOME in front, which starts at once (R76, R82). -/
theorem postAccepted_starts {s : State} {a : Arm} {h : Segment} {rest : List Segment} (idle : (s.motion.get a).phase = .idle)
    (unreset : (s.motion.get a).resetPending = false) (empty : (s.motion.get a).queue = []) (home : h.move.kind = .home)
    (unawaited : s.waiters = []) : ExceptZones (s.begins a h rest none) (settle (postAccepted a (h :: rest) s)) := by
  have motion : ((s.appendSegments a (h :: rest)).motion.get a) = { s.motion.get a with queue := h :: rest } := by
    simp only [State.appendSegments, State.modMotion_motion, PerArm.get_set, empty, List.nil_append]
  obtain ⟨t, run, kept⟩ := runs_evaluate_home (s := s.appendSegments a (h :: rest)) (a := a) (h := h) (rest := rest)
    (by rw [motion]; exact unreset) (by rw [motion]) home unawaited
  have ends : settle (postAccepted a (h :: rest) s) = t := by
    simp only [postAccepted, idle, if_true]
    exact run.settle (by decide)
  have same : (s.appendSegments a (h :: rest)).begins a h rest none = s.begins a h rest none := by cases a <;> rfl
  rw [ends, ← same]
  exact kept

/-- An accepted REPLACE on an arm that is neither IDLE nor WAITING (R77). -/
theorem replaceAccepted_queues {s : State} {a : Arm} (busy : (s.motion.get a).phase ≠ .idle)
    (settled : ∀ r, (s.motion.get a).phase ≠ .waiting r) (xs : List Segment) :
    settle (replaceAccepted a xs s) = (flush a s).1.modMotion a fun m => { m with queue := xs } := by
  have empty := (flush_motion a s).1
  have append : (flush a s).1.appendSegments a xs = (flush a s).1.modMotion a fun m => { m with queue := xs } := by
    simp only [State.appendSegments, State.modMotion, empty, List.nil_append]
  have pieces := flush_pieces (settled .zone)
  rw [← append]
  cases phase : (s.motion.get a).phase with
  | idle => exact absurd phase busy
  | waiting r => exact absurd phase (settled r)
  | _ => simp only [replaceAccepted, phase, pieces, settle_nil]

theorem work_flushed (s : State) (a : Arm) (h : Segment) (g : Option Geometry) :
    (unwaited (flush a s).1).work a h g = s.work a h g := by
  obtain ⟨m, links, waiters, handover, shape, -⟩ := flush_shape a s
  rw [shape]
  rfl

theorem begins_answered (u : State) (a : Arm) (h : Segment) (rest : List Segment) (g : Option Geometry) (l : Link) (k : Code)
    (p : Payload) : (unwaited (answered u l k p)).begins a h rest g = answered ((unwaited u).begins a h rest g) l k p := rfl

/-- The arm is enabled as IDLE and as MOVING, so the start of a head after IDLE is its start. -/
theorem State.begins_of_idle (s : State) (a : Arm) (xs : List Segment) (h : Segment) (rest : List Segment) :
    ((s.setPhase a .idle).appendSegments a xs).begins a h rest none = s.begins a h rest none := by
  have work : ((s.setPhase a .idle).appendSegments a xs).work a h none = s.work a h none :=
    State.work_congr (by rfl) (by rfl) (by rfl) (by
      simp [State.appendSegments, State.setPhase, AxisUnit.standing, AxisUnit.drive_true, denOf]) h none
  unfold State.begins
  rw [work]
  simp only [State.appendSegments, State.setPhase, State.modMotion, State.modAxes, PerArm.get_set,
    PerArm.set_set, denOf, AxisUnit.drive_true]

/-- An accepted REPLACE with a HOME in front on an arm that is IDLE or WAITING (R77, R82). -/
theorem replaceAccepted_starts {s : State} {a : Arm} {h : Segment} {rest : List Segment}
    (evaluates : (s.motion.get a).phase = .idle ∨ ∃ r, (s.motion.get a).phase = .waiting r)
    (unreset : (s.motion.get a).resetPending = false) (home : h.move.kind = .home) (alone : Alone s a) :
    ExceptZones ((unwaited (flush a s).1).begins a h rest none) (settle (replaceAccepted a (h :: rest) s)) := by
  obtain ⟨empty, phase, -, reset, -⟩ := flush_motion a s
  have unawaited := (flush_alone alone).1
  have goes_on : ∀ v : State, v.waiters = [] → (v.motion.get a).queue = h :: rest → (v.motion.get a).resetPending = false →
      v.begins a h rest none = (flush a s).1.begins a h rest none →
      ExceptZones ((flush a s).1.begins a h rest none) (settle (v, (flush a s).2 ++ [.evaluate a])) := by
    intro v clear queue pending same
    obtain ⟨v', run, kept⟩ := runs_flush alone clear
    have motion : v'.motion = v.motion := by rw [kept]
    obtain ⟨t, next, begun⟩ := runs_evaluate_home (s := v') (a := a) (by rw [motion]; exact pending)
      (by rw [motion]; exact queue) home (by rw [ExceptZones_waiters kept, clear])
    rw [(run.append next).settle (by decide), ← same]
    exact ExceptZones_trans (ExceptZones_begins kept a h rest none) begun
  rw [unwaited_of_unawaited unawaited]
  rcases evaluates with idle | ⟨r, waits⟩
  · simp only [replaceAccepted, idle]
    refine goes_on ((flush a s).1.appendSegments a (h :: rest)) unawaited ?_ ?_ ?_
    · simp [State.appendSegments, empty]
    · simp [State.appendSegments, reset, unreset]
    · cases a <;> rfl
  · simp only [replaceAccepted, waits]
    refine goes_on (((flush a s).1.setPhase a .idle).appendSegments a (h :: rest)) unawaited ?_ ?_ ?_
    · simp [State.appendSegments, State.setPhase, empty]
    · simp [State.appendSegments, State.setPhase, reset, unreset]
    · exact State.begins_of_idle _ _ _ _ _

section
variable {a : Arm} {es : List SegEntry} {s : State} {c : Instr} {room : Nat} {accept : List Segment → State → State}
  {f : Arm → State → State}

/-- A request of an owner that judges segments: refused by the first check that fails, else accepted on the answered
state (R75, R191). -/
theorem exec_judges (takes : Takes s a.link c) (checked : linkCheck a.link c = none)
    (row : ∀ t, exec c t = .next (serve a.link c (ownArm a.link f) t))
    (owner : ∀ g, f a (s.modLink a.link g) = judgeSegments a.link a es room accept (s.modLink a.link g)) :
    (s.postBarred a = true → Refuses c a.link s .wrongState)
    ∧ (s.postBarred a = false → segmentsOf es = none → Refuses c a.link s .badArgument)
    ∧ ∀ xs, s.postBarred a = false → segmentsOf es = some xs →
      (∀ k, firstFailure (s.postChecks a xs room) = some k → Refuses c a.link s k)
      ∧ (firstFailure (s.postChecks a xs room) = none → ∀ (u : State) (F : State → State),
          u.links.get a.link = s.links.get a.link →
          (∀ g, accept xs (s.modLink a.link g) = F ((u.modLink a.link g).respond a.link .ok)) →
          Goes c s (F (answered u a.link .ok .none))) := by
  have answers : ∀ k, (∀ g, judgeSegments a.link a es room accept (s.modLink a.link g) = (s.modLink a.link g).respond a.link k) →
      Refuses c a.link s k := fun k acts => (row s).trans (congrArg Host.Outcome.next
        (serve_reads takes checked fun g => by rw [ownArm_link, owner, acts]))
  refine ⟨fun barred => answers _ fun g => judgeSegments_barred barred,
    fun free bad => answers _ fun g => judgeSegments_bad free bad, fun xs free pass => ⟨fun k fails => answers k fun g => ?_,
    fun passes u F link_kept acts => (row s).trans (congrArg Host.Outcome.next (serve_goes F takes checked link_kept fun g => ?_))⟩⟩
  · exact (judgeSegments_checked (s := s.modLink a.link g) free pass).trans (checked_fail fails)
  · rw [ownArm_link, owner, ← acts]
    exact (judgeSegments_checked (s := s.modLink a.link g) free pass).trans (checked_pass passes)

end

/-- Settles O37: the checks by `State.postChecks_spec`, an accepted request by what its owner does on the answered state. -/
theorem postAndReplace : Obligations.PostAndReplace := by
  intro a es s some_entry at_most m barred bad taken noRack noMark beyond noTip judged passes started
  have isBarred : s.postBarred a = true ↔ barred := s.postBarred_iff a
  have fails : ∀ {b : Bool} {p : Prop}, (b = true ↔ p) → ¬ p → b = false := fun is no => Bool.eq_false_iff.2 (mt is.1 no)
  have judge : ∀ (c : Instr) (room : Nat), (s.postBarred a = true → Refuses c a.link s .wrongState) →
      (s.postBarred a = false → segmentsOf es = none → Refuses c a.link s .badArgument) →
      (∀ xs, s.postBarred a = false → segmentsOf es = some xs →
        ∀ k, firstFailure (s.postChecks a xs room) = some k → Refuses c a.link s k) → judged c room := by
    intro c room barring arguing checking
    refine ⟨fun h => barring (isBarred.2 h), ?_, fun xs pass => ⟨(segmentsOf_get pass).1, fun i e x here there =>
      segmentOf_some ((segmentsOf_get pass).2 i e x here there)⟩, fun free => arguing (fails isBarred free), fun xs free pass => ?_⟩
    · simp only [segmentsOf_eq_none_iff, segmentOf_eq_none_iff, bad]
    · obtain ⟨rack, mark, limit, tip, full, list, isRack, isMark, isLimit, isTip, isFull⟩ := s.postChecks_spec a xs room
      have check := checking xs (fails isBarred free) pass
      rw [list] at check
      exact ⟨fun h => check _ (by simp [isRack.2 h]), fun n h => check _ (by simp [fails isRack n, isMark.2 h]),
        fun n n1 h => check _ (by simp [fails isRack n, fails isMark n1, isLimit.2 h]),
        fun n n1 n2 h => check _ (by simp [fails isRack n, fails isMark n1, fails isLimit n2, isTip.2 h]),
        fun n n1 n2 n3 h => check _ (by
          simp [fails isRack n, fails isMark n1, fails isLimit n2, fails isTip n3, isFull.2 h])⟩
  have pass : ∀ xs room, passes xs room → s.postBarred a = false ∧ segmentsOf es = some xs
      ∧ firstFailure (s.postChecks a xs room) = none := by
    rintro xs room ⟨free, pass, n, n1, n2, n3, fits⟩
    obtain ⟨rack, mark, limit, tip, full, list, isRack, isMark, isLimit, isTip, isFull⟩ := s.postChecks_spec a xs room
    refine ⟨fails isBarred free, pass, ?_⟩
    rw [list]
    simp [fails isRack n, fails isMark n1, fails isLimit n2, fails isTip n3, fails isFull (Nat.not_lt.2 fits)]
  have unreset : ∀ xs room, passes xs room → m.resetPending = false := fun xs room pass =>
    Bool.eq_false_iff.2 fun pending => pass.1 (.inr (.inr (.inr pending)))
  refine ⟨fun takes => ?_, fun takes => ?_⟩
  · obtain ⟨barring, arguing, checking⟩ := exec_judges (room := 16 - (s.motion.get a).queue.length)
      (f := post a.link es) takes (linkCheck_post some_entry at_most a) (fun _ => rfl)
      (fun g => post_eq a.link es a (s.modLink a.link g))
    refine ⟨judge _ _ barring arguing fun xs free pass => (checking xs free pass).1, fun xs good => ?_⟩
    obtain ⟨free, segs, good_checks⟩ := pass xs _ good
    have accepts := (checking xs free segs).2 good_checks
    refine ⟨fun busy => ?_, fun h rest idle empty front home unawaited => ?_⟩
    · exact accepts (s.modMotion a fun m => { m with queue := m.queue ++ xs }) id rfl fun g =>
        postAccepted_queues (s := (s.modLink a.link g).respond a.link .ok) busy xs
    · subst front
      exact ⟨_, accepts s (fun x => settle (postAccepted a (h :: rest) x)) rfl fun g => rfl,
        postAccepted_starts (s := answered s a.link .ok .none) idle (unreset _ _ good) empty home unawaited⟩
  · obtain ⟨barring, arguing, checking⟩ := exec_judges (room := 16) (f := replace a.link es) takes (linkCheck_replace some_entry at_most a) (fun _ => rfl)
      (fun g => replace_eq a.link es a (s.modLink a.link g))
    refine ⟨judge _ _ barring arguing fun xs free pass => (checking xs free pass).1, fun xs good => ?_⟩
    obtain ⟨free, segs, good_checks⟩ := pass xs _ good
    have accepts := (checking xs free segs).2 good_checks s (fun x => settle (replaceAccepted a xs x)) rfl fun g => rfl
    refine ⟨fun busy settled => ?_, fun h rest evaluates front home alone => ?_⟩
    · rw [replaceAccepted_queues (s := answered s a.link .ok .none) busy settled xs, flush_answered] at accepts
      exact accepts
    · subst front
      refine ⟨_, accepts, ?_⟩
      have starts := replaceAccepted_starts (s := answered s a.link .ok .none) evaluates (unreset _ _ good) home alone (rest := rest)
      rw [flush_answered] at starts
      have begun : started h rest (unwaited (flush a s).1)
          = answered ((unwaited (flush a s).1).begins a h rest none) a.link .ok .none := by
        rw [State.begins, work_flushed]
      rw [begun, ← begins_answered]
      exact starts

end Sys2Proof.Machine
end
section
/-! PROOFS. The zone arbiter piece by piece: what a release, the linger timer, a standing recompute and the settling of an
ended segment's zones leave of the holders, the linger timers and the hand-over counts (R109, R115 to R118). -/
namespace Sys2Proof

theorem Arm.other_ne (a : Arm) : a.other ≠ a := by cases a <;> decide

theorem Arm.other_other (a : Arm) : a.other.other = a := by cases a <;> rfl

theorem Arm.eq_or_other (a b : Arm) : b = a ∨ b = a.other := by cases a <;> cases b <;> decide

namespace Machine
open Sys2Proof.Safety

theorem State.mem_heldFor {s : State} {a : Arm} {w : HoldWhy} {z : ZoneId} :
    z ∈ s.heldFor a w ↔ s.holders.get z = some (a, w) := by
  simp only [State.heldFor, List.mem_filter, mem_allZones, true_and, decide_eq_true_eq]

theorem State.mem_loose {s : State} {a : Arm} {z : ZoneId} :
    z ∈ s.loose a ↔ s.holders.get z = some (a, .segment) ∨ s.holders.get z = some (a, .linger) := by
  simp only [State.loose, List.mem_filter, mem_allZones, true_and, Bool.or_eq_true, decide_eq_true_eq]

theorem State.heldFor_isEmpty_iff {s : State} {a : Arm} {w : HoldWhy} :
    (s.heldFor a w).isEmpty = true ↔ ∀ z, s.holders.get z ≠ some (a, w) := by
  simp only [List.isEmpty_iff, List.eq_nil_iff_forall_not_mem, State.mem_heldFor, ne_eq]

/-! ### A release -/

/-- What becomes of a zone an arm releases: the other arm's where that arm's standing set has it, else free (R117). -/
def State.handed (s : State) (a : Arm) (z : ZoneId) : Option (Arm × HoldWhy) :=
  if z ∈ s.standing.get a.other then some (a.other, if s.unreferenced a.other = true then .claim else .standing) else none

theorem State.handed_ne {s : State} {a : Arm} {z : ZoneId} (w : HoldWhy) : s.handed a z ≠ some (a, w) := by
  unfold State.handed
  split
  · intro h
    exact a.other_ne (congrArg Prod.fst (Option.some.inj h))
  · exact nofun

/-- State t is s after arm a has released the zones zs that it holds, before any waiter is served (R116 to R118). -/
structure Released (a : Arm) (zs : List ZoneId) (s t : State) : Prop where
  kept : ExceptZones s t
  standing : t.standing = s.standing
  deferred : t.deferred = s.deferred
  out : ∀ z w, z ∈ zs → s.holders.get z = some (a, w) → t.holders.get z = s.handed a z
  stays : ∀ z, z ∉ zs ∨ (∀ w, s.holders.get z ≠ some (a, w)) → t.holders.get z = s.holders.get z
  handover : ∀ h, h ∈ t.handover ↔ h ∈ s.handover
    ∧ ¬ (h.holder = a ∧ h.zone ∈ zs ∧ ∃ w, s.holders.get h.zone = some (a, w))
  nothing : (∀ z ∈ zs, ∀ w, s.holders.get z ≠ some (a, w)) → t = s
  lingers : (∃ z, t.holders.get z = some (a, .linger)) → t.linger = s.linger
  stops : (∃ z ∈ zs, ∃ w, s.holders.get z = some (a, w)) → (∀ z, t.holders.get z ≠ some (a, .linger)) →
    t.linger = s.linger.set a none
  other_timer : t.linger.get a.other = s.linger.get a.other

theorem State.tidyLinger_shape (s : State) (a : Arm) : s.tidyLinger a = { s with linger := (s.tidyLinger a).linger }
    ∧ ((∃ z, s.holders.get z = some (a, .linger)) → (s.tidyLinger a).linger = s.linger)
    ∧ ((∀ z, s.holders.get z ≠ some (a, .linger)) → (s.tidyLinger a).linger = s.linger.set a none)
    ∧ (s.tidyLinger a).linger.get a.other = s.linger.get a.other := by
  unfold State.tidyLinger
  by_cases empty : (s.heldFor a .linger).isEmpty = true
  · have none_lingers := State.heldFor_isEmpty_iff.1 empty
    rw [if_pos empty]
    exact ⟨rfl, fun ⟨z, lingers⟩ => absurd lingers (none_lingers z), fun _ => rfl, PerArm.get_set_ne _ _ a.other_ne⟩
  · rw [if_neg empty]
    exact ⟨rfl, fun _ => rfl, fun free => absurd (State.heldFor_isEmpty_iff.2 free) empty, rfl⟩

/-- What a release does, and that it sets off a waiter scan unless it releases nothing (R117). -/
theorem release_spec (a : Arm) (zs : List ZoneId) (s : State) : Released a zs s (release a zs s).1
    ∧ (((∀ z ∈ zs, ∀ w, s.holders.get z ≠ some (a, w)) ∧ release a zs s = (s, []))
      ∨ ((∃ z ∈ zs, ∃ w, s.holders.get z = some (a, w)) ∧ (release a zs s).2 = [.scan])) := by
  have out_iff : ∀ z, (zs.filter fun z => s.holds a z).contains z = true ↔ z ∈ zs ∧ ∃ w, s.holders.get z = some (a, w) :=
    fun z => by rw [List.contains_iff_mem, List.mem_filter, holds_iff]
  by_cases any : ∃ z ∈ zs, ∃ w, s.holders.get z = some (a, w)
  · have filled : (zs.filter fun z => s.holds a z).isEmpty ≠ true := by
      obtain ⟨z, mem, held⟩ := any
      intro is_empty
      have empty := List.isEmpty_iff.1 is_empty
      have := (out_iff z).2 ⟨mem, held⟩
      rw [empty] at this
      exact absurd this (by simp)
    simp only [release, Bool.eq_false_iff.2 filled, Bool.false_eq_true, if_false]
    generalize give : ({ s with
      holders := s.holders.mapIdx fun z h => if (zs.filter fun z => s.holds a z).contains z then
        (if (s.standing.get a.other).contains z then
          some (a.other, if s.unreferenced a.other then .claim else .standing) else none) else h
      handover := s.handover.filter fun h => !(decide (h.holder = a) && (zs.filter fun z => s.holds a z).contains h.zone) }
      : State) = u
    have gone : ∀ z, z ∈ zs → (∃ w, s.holders.get z = some (a, w)) → u.holders.get z = s.handed a z := by
      intro z mem held
      rw [← give]
      rw [Table.get_mapIdx, if_pos ((out_iff z).2 ⟨mem, held⟩)]
      simp only [State.handed, List.contains_iff_mem]
    have left : ∀ z, ¬ (z ∈ zs ∧ ∃ w, s.holders.get z = some (a, w)) → u.holders.get z = s.holders.get z := by
      intro z no
      rw [← give]
      rw [Table.get_mapIdx, if_neg (mt (out_iff z).1 no)]
    have handover : ∀ h, h ∈ u.handover ↔ h ∈ s.handover
        ∧ ¬ (h.holder = a ∧ h.zone ∈ zs ∧ ∃ w, s.holders.get h.zone = some (a, w)) := by
      intro h
      rw [← give]
      simp only [List.mem_filter, Bool.not_eq_true', ← Bool.not_eq_true, Bool.and_eq_true, decide_eq_true_eq, out_iff]
    have base : ExceptZones s u ∧ u.standing = s.standing ∧ u.deferred = s.deferred ∧ u.linger = s.linger := by
      rw [← give]; exact ⟨rfl, rfl, rfl, rfl⟩
    obtain ⟨kept, standing, deferred, linger⟩ := base
    obtain ⟨tidy, lingers, stops, other_timer⟩ := u.tidyLinger_shape a
    have same : (u.tidyLinger a).holders = u.holders := by rw [tidy]
    refine ⟨{ kept := ExceptZones_tidyLinger a kept, standing := (by rw [tidy]; exact standing),
              deferred := (by rw [tidy]; exact deferred), out := ?_, stays := ?_,
              handover := (by rw [tidy]; exact handover), nothing := ?_, lingers := ?_, stops := ?_,
              other_timer := (by rw [other_timer, linger]) }, .inr ⟨any, trivial⟩⟩
    · intro z w mem held
      rw [same, gone z mem ⟨w, held⟩]
    · rintro z (absent | free)
      · rw [same, left z fun h => absent h.1]
      · rw [same, left z fun ⟨_, w, held⟩ => free w held]
    · rintro free
      obtain ⟨z, mem, w, held⟩ := any
      exact absurd held (free z mem w)
    · rintro ⟨z, still⟩
      rw [lingers ⟨z, by rw [← same]; exact still⟩, linger]
    · rintro - free
      rw [stops fun z => by rw [← same]; exact free z, linger]
  · have none_held : ∀ z ∈ zs, ∀ w, s.holders.get z ≠ some (a, w) := fun z mem w held => any ⟨z, mem, w, held⟩
    have empty : (zs.filter fun z => s.holds a z).isEmpty = true := by
      rw [List.isEmpty_iff, List.eq_nil_iff_forall_not_mem]
      exact fun z mem => any ⟨z, (out_iff z).1 (List.contains_iff_mem.2 mem)⟩
    have same : release a zs s = (s, []) := by simp only [release, empty, if_true]
    rw [same]
    exact ⟨{
      kept := rfl, standing := rfl, deferred := rfl, out := fun z w mem held => absurd held (none_held z mem w),
      stays := fun _ _ => rfl, handover := fun h => ⟨fun mem => ⟨mem, fun ⟨_, there, w, held⟩ => none_held _ there w held⟩, And.left⟩,
      nothing := fun _ => rfl, lingers := fun _ => rfl, stops := fun held => absurd held any, other_timer := rfl },
      .inl ⟨none_held, rfl⟩⟩

/-- The waiter scan with no entry on the list. -/
theorem runs_scan {s : State} (unawaited : s.waiters = []) : Runs 1 [.scan] s s :=
  Runs.piece (e := (s, [])) (by simp [perform, scan, unawaited]) (Runs.nil s)

/-- A piece that releases zones while no arm waits. -/
theorem runs_releases {s : State} {a : Arm} {zs : List ZoneId} {x : Task} (does : perform x s = release a zs s)
    (unawaited : s.waiters = []) : ∃ t, Runs 2 [x] s t ∧ Released a zs s t := by
  obtain ⟨released, ⟨-, none⟩ | ⟨-, scan⟩⟩ := release_spec a zs s
  · rw [none] at released
    exact ⟨s, (Runs.piece (does.trans none) (Runs.nil s)).mono (by decide), released⟩
  · refine ⟨_, Runs.piece does ?_, released⟩
    rw [scan]
    exact runs_scan (by rw [ExceptZones_waiters released.kept, unawaited])

theorem runs_release {s : State} (unawaited : s.waiters = []) (a : Arm) (zs : List ZoneId) :
    ∃ t, Runs 2 [.release a zs] s t ∧ Released a zs s t := runs_releases (x := .release a zs) rfl unawaited

theorem runs_releaseLoose {s : State} (unawaited : s.waiters = []) (a : Arm) :
    ∃ t, Runs 2 [.releaseLoose a] s t ∧ Released a (s.loose a) s t := runs_releases (x := .releaseLoose a) rfl unawaited

/-- After its loose zones are released an arm holds none (R108). -/
theorem Released.noLoose {a : Arm} {s t : State} (released : Released a (s.loose a) s t) : NoLoose t a := by
  have gone : ∀ z w, w = .segment ∨ w = .linger → t.holders.get z ≠ some (a, w) := by
    intro z w loose held
    by_cases mem : z ∈ s.loose a
    · obtain ⟨r, own⟩ : ∃ r, s.holders.get z = some (a, r) := (State.mem_loose.1 mem).elim (⟨_, ·⟩) (⟨_, ·⟩)
      rw [released.out z r mem own] at held
      exact State.handed_ne _ held
    · rw [released.stays z (.inl mem)] at held
      refine mem (State.mem_loose.2 ?_)
      rcases loose with rfl | rfl
      · exact .inl held
      · exact .inr held
  exact fun z w held => ⟨fun segment => gone z w (.inl segment) held, fun linger => gone z w (.inr linger) held⟩

/-! ### The linger timer -/

/-- State t is s after the start of arm a's linger timer, while no arm waits: with length 0 the lingering zones are
released, and the timer runs where a zone lingers (R116). -/
structure Lingered (a : Arm) (s t : State) : Prop where
  kept : ExceptZones s t
  standing : t.standing = s.standing
  deferred : t.deferred = s.deferred
  out : ∀ z, s.holders.get z = some (a, .linger) → s.settings.linger = 0 → t.holders.get z = s.handed a z
  stays : ∀ z, s.holders.get z ≠ some (a, .linger) ∨ s.settings.linger ≠ 0 → t.holders.get z = s.holders.get z
  runs : (∃ z, t.holders.get z = some (a, .linger)) → t.linger = s.linger.set a (some ⟨s.settings.linger * 10000, 0⟩)
  stops : (∀ z, t.holders.get z ≠ some (a, .linger)) → t.linger = s.linger.set a none
  counts : ∀ h ∈ t.handover, h ∈ s.handover

theorem runs_linger {s : State} (unawaited : s.waiters = []) (a : Arm) : ∃ t, Runs 3 [.linger a] s t ∧ Lingered a s t := by
  by_cases empty : (s.heldFor a .linger).isEmpty = true
  · have none_lingers := State.heldFor_isEmpty_iff.1 empty
    refine ⟨{ s with linger := s.linger.set a none }, (Runs.piece (x := .linger a) (e := (_, [])) ?_ (Runs.nil _)).mono (by decide),
      rfl, rfl, rfl, fun z lingers => absurd lingers (none_lingers z), fun _ _ => rfl,
      fun ⟨z, lingers⟩ => absurd lingers (none_lingers z), fun _ => rfl, fun _ mem => mem⟩
    simp only [perform, startLinger, empty, if_true]
  · obtain ⟨z0, lingers0⟩ : ∃ z, s.holders.get z = some (a, .linger) := by
      refine Classical.byContradiction fun none_lingers => ?_
      exact empty (State.heldFor_isEmpty_iff.2 fun z lingers => none_lingers ⟨z, lingers⟩)
    by_cases zero : s.settings.linger = 0
    · obtain ⟨t, run, released⟩ := runs_release unawaited a (s.heldFor a .linger)
      have gone : ∀ z, t.holders.get z ≠ some (a, .linger) := by
        intro z
        by_cases lingers : s.holders.get z = some (a, .linger)
        · rw [released.out z .linger (State.mem_heldFor.2 lingers) lingers]
          exact State.handed_ne _
        · rw [released.stays z (.inl fun mem => lingers (State.mem_heldFor.1 mem))]
          exact lingers
      refine ⟨t, Runs.piece (x := .linger a) (e := (s, [.release a (s.heldFor a .linger)])) ?_ run, released.kept, released.standing,
        released.deferred, fun z lingers _ => released.out z .linger (State.mem_heldFor.2 lingers) lingers, fun z other => ?_,
        fun ⟨z, lingers⟩ => absurd lingers (gone z), released.stops ⟨z0, State.mem_heldFor.2 lingers0, .linger, lingers0⟩,
        fun h mem => ((released.handover h).1 mem).1⟩
      · simp only [perform, startLinger, empty, zero, if_true, if_false, Bool.false_eq_true]
      · exact released.stays z (.inl fun mem => other.elim (· (State.mem_heldFor.1 mem)) (· zero))
    · have no_entry : s.entry a.other = none := by simp only [State.entry, unawaited, List.find?_nil]
      obtain ⟨t, run, released⟩ := runs_release
        (s := { s with linger := s.linger.set a (some ⟨s.settings.linger * 10000, 0⟩) }) unawaited a []
      have same := released.nothing nofun
      refine ⟨t, Runs.piece (x := .linger a)
        (e := ({ s with linger := s.linger.set a (some ⟨s.settings.linger * 10000, 0⟩) }, [.release a []])) ?_ run, ?_⟩
      · simp only [perform, startLinger, empty, zero, if_false, Bool.false_eq_true, no_entry, Option.map_none, Option.getD_none,
          List.contains_nil]
        rw [List.filter_eq_nil_iff.2 nofun]
      · subst same
        exact { kept := rfl, standing := rfl, deferred := rfl, out := fun _ _ h => absurd h zero, stays := fun _ _ => rfl,
                runs := fun _ => rfl, stops := fun gone => absurd lingers0 (gone z0), counts := fun _ mem => mem }

/-! ### A standing recompute -/

theorem State.mem_standingSet (s : State) (a : Arm) (z : ZoneId) : z ∈ s.standingSet a ↔ (s.zones.get z).kind = .shared
    ∧ (s.unreferenced a = true ∨ Meets (Around (s.position a) (s.reach a)) (s.zones.get z).box) := by
  unfold State.standingSet
  have box : s.standingBox a = Around (s.position a) (s.reach a) := rfl
  split
  next unreferenced =>
    simp only [State.sharedZones, List.mem_filter, mem_allZones, true_and, decide_eq_true_eq, unreferenced, true_or, and_true]
  next referenced =>
    simp only [State.zonesMet, List.mem_filter, mem_allZones, true_and, Bool.and_eq_true, decide_eq_true_eq, boxMeets_iff, box,
      referenced, false_or, Bool.false_eq_true]

/-- The reason for which an arm holds a free zone it takes (R109, R110). -/
def State.deemed (s : State) (a : Arm) : HoldWhy := if s.unreferenced a = true then .claim else .standing

/-- State r is s after the standing set of arm a has been formed anew, before what that sets off (R109). -/
structure Reformed (a : Arm) (needed : List ZoneId) (s r : State) : Prop where
  kept : ExceptZones s r
  standing : r.standing = s.standing.set a (s.standingSet a)
  deferred : r.deferred = s.deferred
  linger : r.linger = s.linger
  handover : r.handover = s.handover
  unshared : ∀ z, (s.zones.get z).kind ≠ .shared → r.holders.get z = s.holders.get z
  free : ∀ z, (s.zones.get z).kind = .shared → s.holders.get z = none →
    r.holders.get z = if z ∈ s.standingSet a then some (a, s.deemed a) else none
  others : ∀ z w, s.holders.get z = some (a.other, w) → r.holders.get z = some (a.other, w)
  inside : ∀ z w, (s.zones.get z).kind = .shared → s.holders.get z = some (a, w) → z ∈ s.standingSet a →
    r.holders.get z = some (a, if w = .claim then s.deemed a else .standing)
  outside : ∀ z w, (s.zones.get z).kind = .shared → s.holders.get z = some (a, w) → z ∉ s.standingSet a →
    w = .standing ∨ w = .claim → r.holders.get z
      = some (a, if denOf (s.motion.get a).phase = true then (if z ∈ needed then .segment else .linger) else w)
  loose : ∀ z w, s.holders.get z = some (a, w) → z ∉ s.standingSet a → w ≠ .standing → w ≠ .claim →
    r.holders.get z = some (a, w)

theorem recomputeCore_reformed (a : Arm) (needed : List ZoneId) (s : State) : Reformed a needed s (recomputeCore a needed s).1 := by
  have shared : ∀ z, (s.zones.get z).kind = .shared → (recomputeCore a needed s).1.holders.get z
      = s.standingHolder a needed ((s.standingSet a).contains z) z (s.holders.get z) := fun z kind => by
    simp only [recomputeCore, Table.get_mapIdx, kind, if_true]
  have unshared : ∀ z, (s.zones.get z).kind ≠ .shared → (recomputeCore a needed s).1.holders.get z = s.holders.get z := fun z kind => by
    simp only [recomputeCore, Table.get_mapIdx, kind, if_false]
  refine { kept := rfl, standing := rfl, deferred := rfl, linger := rfl, handover := rfl, unshared := unshared, free := ?_,
           others := ?_, inside := ?_, outside := ?_, loose := ?_ }
  · intro z kind held
    simp only [shared z kind, held, State.standingHolder, List.contains_iff_mem, State.deemed]
  · intro z w held
    by_cases kind : (s.zones.get z).kind = .shared
    · simp only [shared z kind, held, State.standingHolder, a.other_ne, ne_eq, not_false_eq_true, if_true]
    · rw [unshared z kind, held]
  · intro z w kind held mem
    simp only [shared z kind, held, State.standingHolder, ne_eq, not_true_eq_false, if_false, List.contains_iff_mem, mem, if_true,
      State.deemed, Bool.and_eq_true, decide_eq_true_eq]
    by_cases claim : w = .claim <;> simp [claim]
  · intro z w kind held absent why
    simp only [shared z kind, held, State.standingHolder, ne_eq, not_true_eq_false, if_false, List.contains_iff_mem, absent]
    cases den : denOf (s.motion.get a).phase <;> rcases why with rfl | rfl <;> simp [apply_ite]
  · intro z w held absent not_standing not_claim
    by_cases kind : (s.zones.get z).kind = .shared
    · simp only [shared z kind, held, State.standingHolder, ne_eq, not_true_eq_false, if_false, List.contains_iff_mem, absent]
      simp [not_standing, not_claim]
    · rw [unshared z kind, held]

/-- State t is r after every zone arm a holds for SEGMENT or LINGER lingers, or with length 0 has been released (R115, R116). -/
structure Loosened (a : Arm) (r t : State) : Prop where
  standing : t.standing = r.standing
  out : ∀ z, r.holders.get z = some (a, .segment) ∨ r.holders.get z = some (a, .linger) →
    t.holders.get z = if r.settings.linger ≠ 0 then some (a, .linger) else r.handed a z
  stays : ∀ z, r.holders.get z ≠ some (a, .segment) → r.holders.get z ≠ some (a, .linger) → t.holders.get z = r.holders.get z
  runs : (∃ z, t.holders.get z = some (a, .linger)) → t.linger = r.linger.set a (some ⟨r.settings.linger * 10000, 0⟩)
  stops : (∀ z, t.holders.get z ≠ some (a, .linger)) → t.linger = r.linger.set a none

theorem Lingered.loosened {a : Arm} {r t : State} (lingered : Lingered a r t)
    (no_segment : ∀ z, r.holders.get z ≠ some (a, .segment)) : Loosened a r t where
  standing := lingered.standing
  out z held := by
    have lingers := held.resolve_left (no_segment z)
    by_cases zero : r.settings.linger = 0
    · rw [lingered.out z lingers zero, if_neg (Classical.not_not.2 zero)]
    · rw [lingered.stays z (.inr zero), lingers, if_pos zero]
  stays z _ other := lingered.stays z (.inl other)
  runs := lingered.runs
  stops := lingered.stops

/-- What a recompute of an enabled arm leaves, once its loose zones linger (R109, R115, R116). -/
theorem rests_of_loosened {a : Arm} {needed : List ZoneId} {s r t : State} (reformed : Reformed a needed s r)
    (enabled : denOf (s.motion.get a).phase = true) (loosened : Loosened a r t) : Rests s t a := by
  have settings : r.settings = s.settings := by rw [reformed.kept]
  have handed : ∀ z, r.handed a z
      = if z ∈ s.standing.get a.other then some (a.other, if s.unreferenced a.other = true then .claim else .standing) else none := by
    intro z
    have unref : r.unreferenced a.other = s.unreferenced a.other := by rw [reformed.kept]; rfl
    simp only [State.handed, reformed.standing, PerArm.get_set_ne _ _ a.other_ne, unref]
  have kept_in : ∀ z w, w ≠ .segment → w ≠ .linger → r.holders.get z = some (a, w) → t.holders.get z = some (a, w) := by
    intro z w not_segment not_linger held
    rw [loosened.stays z (by rw [held]; simpa using not_segment) (by rw [held]; simpa using not_linger), held]
  have deemed_kept : ∀ z, r.holders.get z = some (a, s.deemed a) → t.holders.get z = some (a, s.deemed a) := fun z =>
    kept_in z _ (by unfold State.deemed; split <;> decide) (by unfold State.deemed; split <;> decide)
  have elsewhere : ∀ z h, (∀ w, h ≠ some (a, w)) → r.holders.get z = h → t.holders.get z = h := by
    intro z h other held
    rw [loosened.stays z (by rw [held]; exact other _) (by rw [held]; exact other _), held]
  refine ⟨loosened.standing.trans reformed.standing, s.mem_standingSet a, fun z b kind held => ?_, fun z kind =>
    ⟨fun held => ?_, fun w held => ?_, fun w held mem => ?_, fun w held not_change absent => ?_⟩, ?_, ?_⟩
  · have same := reformed.unshared z kind
    rw [held] at same
    rcases a.eq_or_other b with rfl | rfl
    · exact kept_in z .change (by decide) (by decide) same
    · exact elsewhere z _ (fun w h => a.other_ne (congrArg Prod.fst (Option.some.inj h))) same
  · have same := reformed.free z kind held
    by_cases mem : z ∈ s.standingSet a
    · rw [if_pos mem] at same ⊢
      exact deemed_kept z same
    · rw [if_neg mem] at same ⊢
      exact elsewhere z _ (fun w => nofun) same
  · exact elsewhere z _ (fun w h => a.other_ne (congrArg Prod.fst (Option.some.inj h))) (reformed.others z w held)
  · have same := reformed.inside z w kind held mem
    by_cases claim : w = .claim
    · rw [if_pos claim] at same ⊢
      exact deemed_kept z same
    · rw [if_neg claim] at same ⊢
      exact kept_in z .standing (by decide) (by decide) same
  · have loose : r.holders.get z = some (a, .segment) ∨ r.holders.get z = some (a, .linger) := by
      cases w with
      | change => exact absurd rfl not_change
      | segment => exact .inl (reformed.loose z _ held absent nofun nofun)
      | linger => exact .inr (reformed.loose z _ held absent nofun nofun)
      | standing =>
        rw [reformed.outside z _ kind held absent (.inl rfl), if_pos enabled]
        by_cases needs : z ∈ needed <;> simp [needs]
      | claim =>
        rw [reformed.outside z _ kind held absent (.inr rfl), if_pos enabled]
        by_cases needs : z ∈ needed <;> simp [needs]
    rw [loosened.out z loose, settings, handed]
  · rw [← settings, ← reformed.linger]
    exact loosened.runs
  · rw [← reformed.linger]
    exact loosened.stops

end Machine
end Sys2Proof
end
section
/-! PROOFS. The end of a segment while no arm waits: its result, the zones it leaves and where the arm goes (R86, R88, R96,
R115). -/
namespace Sys2Proof.Machine
open Sys2Proof.Safety

/-! ### The recompute of an arm, and the zones of an ended segment -/

theorem recompute_unawaited {s : State} (loaded : s.startup ≠ .loading) (unawaited : s.waiters = []) (a : Arm)
    (needed : List ZoneId) : recompute a needed s = recomputeCore a needed s := by
  simp [recompute, loaded, State.entry, unawaited]

/-- A recompute of an enabled arm, while no arm waits. -/
theorem runs_recompute_enabled {s : State} {a : Arm} {needed : List ZoneId} {x : Task}
    (does : perform x s = recompute a needed s) (loaded : s.startup ≠ .loading) (unawaited : s.waiters = [])
    (enabled : denOf (s.motion.get a).phase = true) :
    ∃ t, Runs 4 [x] s t ∧ ExceptZones s t ∧ Lingered a (recomputeCore a needed s).1 t := by
  have reformed := recomputeCore_reformed a needed s
  obtain ⟨t, run, lingered⟩ := runs_linger (s := (recomputeCore a needed s).1)
    (by rw [ExceptZones_waiters reformed.kept, unawaited]) a
  have sets_off : (recomputeCore a needed s).2 = [.linger a] := by simp only [recomputeCore, enabled, if_true]
  refine ⟨t, Runs.piece (does.trans (recompute_unawaited loaded unawaited a needed)) (sets_off ▸ run),
    ExceptZones_trans reformed.kept lingered.kept, lingered⟩

/-- A recompute of an arm that is OFF or in FAULT, while no arm waits. -/
theorem runs_recompute_disabled {s : State} {a : Arm} {needed : List ZoneId} {x : Task}
    (does : perform x s = recompute a needed s) (loaded : s.startup ≠ .loading) (unawaited : s.waiters = [])
    (disabled : denOf (s.motion.get a).phase = false) :
    ∃ t, Runs 3 [x] s t ∧ ExceptZones s t ∧ Released a ((s.heldFor a .standing ++ s.heldFor a .claim).filter fun z =>
      !(s.standingSet a).contains z) (recomputeCore a needed s).1 t := by
  have reformed := recomputeCore_reformed a needed s
  obtain ⟨t, run, released⟩ := runs_release (s := (recomputeCore a needed s).1)
    (by rw [ExceptZones_waiters reformed.kept, unawaited]) a ((s.heldFor a .standing ++ s.heldFor a .claim).filter fun z =>
      !(s.standingSet a).contains z)
  have sets_off : (recomputeCore a needed s).2 = [.release a ((s.heldFor a .standing ++ s.heldFor a .claim).filter fun z =>
      !(s.standingSet a).contains z)] := by simp only [recomputeCore, disabled, Bool.false_eq_true, if_false]
  refine ⟨t, Runs.piece (does.trans (recompute_unawaited loaded unawaited a needed)) (sets_off ▸ run),
    ExceptZones_trans reformed.kept released.kept, released⟩

/-- The zones still held for SEGMENT linger (R115). -/
def State.loosen (s : State) (a : Arm) : State :=
  { s with holders := s.holders.mapIdx fun _ h => if h = some (a, .segment) then some (a, .linger) else h }

theorem State.loosen_holders (s : State) (a : Arm) (z : ZoneId) : (s.loosen a).holders.get z
    = if s.holders.get z = some (a, .segment) then some (a, .linger) else s.holders.get z := by
  rw [loosen, Table.get_mapIdx]

/-- The settling of an ended segment's zones, while no arm waits: no zone stays held for SEGMENT, and zones that an earlier
start of the linger timer left are as if it came after (R115). -/
theorem runs_settle {s : State} {a : Arm} (ended : (s.motion.get a).active = none)
    (settled : (s.motion.get a).phase ≠ .waiting .zone) (enabled : denOf (s.motion.get a).phase = true)
    (unawaited : s.waiters = []) : ∃ t, Runs 4 [.settleZones a] s t ∧ ExceptZones s t
      ∧ (∀ z, t.holders.get z ≠ some (a, .segment))
      ∧ ∀ r u, Lingered a r u → s.holders = u.holders → s.standing = u.standing → s.linger = u.linger →
        s.settings = r.settings → s.unreferenced a.other = r.unreferenced a.other → Loosened a r t := by
  have acts : settleZones a s = (s.loosen a, if ((s.loosen a).heldFor a .linger).isEmpty then [] else [.linger a]) := by
    have ends : ((s.motion.get a).active.isSome || decide ((s.motion.get a).phase = .waiting .zone)
        || !denOf (s.motion.get a).phase) = false := by simp [ended, settled, enabled]
    simp only [settleZones, ends, Bool.false_eq_true, if_false]
    rfl
  have no_segment : ∀ z, (s.loosen a).holders.get z ≠ some (a, .segment) := by
    intro z
    rw [State.loosen_holders]
    split
    · simp
    · assumption
  have handed_same : ∀ r u, Lingered a r u → s.standing = u.standing → s.unreferenced a.other = r.unreferenced a.other →
      ∀ z, (s.loosen a).handed a z = r.handed a z := by
    intro r u lingered standing unref z
    have same : (s.loosen a).unreferenced a.other = s.unreferenced a.other := rfl
    have sets : (s.loosen a).standing = r.standing := standing.trans lingered.standing
    simp only [State.handed, sets, same, unref]
  by_cases empty : ((s.loosen a).heldFor a .linger).isEmpty = true
  · have gone := State.heldFor_isEmpty_iff.1 empty
    refine ⟨s.loosen a, (Runs.piece (x := .settleZones a) acts ?_).mono (w := 4) (v := 1) (by decide), rfl, no_segment, ?_⟩
    · rw [if_pos empty]; exact Runs.nil _
    · intro r u lingered holders standing linger settings unref
      have free : ∀ z, u.holders.get z ≠ some (a, .segment) ∧ u.holders.get z ≠ some (a, .linger) := by
        intro z
        have gone := gone z
        rw [State.loosen_holders, holders] at gone
        split at gone
        · exact absurd rfl gone
        · exact ⟨‹_›, gone⟩
      have same : ∀ z, (s.loosen a).holders.get z = u.holders.get z := fun z => by
        rw [State.loosen_holders, holders, if_neg (free z).1]
      refine ⟨standing.trans lingered.standing, fun z held => ?_, fun z _ other => (same z).trans (lingered.stays z (.inl other)),
        fun ⟨z, lingers⟩ => absurd lingers (gone z), fun _ => linger.trans (lingered.stops fun z => (free z).2)⟩
      rcases held with segment | lingers
      · have stays := lingered.stays z (.inl (by rw [segment]; simp))
        exact absurd (stays.trans segment) (free z).1
      · by_cases zero : r.settings.linger = 0
        · rw [same, lingered.out z lingers zero, if_neg (Classical.not_not.2 zero)]
        · exact absurd ((lingered.stays z (.inr zero)).trans lingers) (free z).2
  · obtain ⟨t, run, again⟩ := runs_linger (s := s.loosen a) unawaited a
    refine ⟨t, Runs.piece (x := .settleZones a) acts (by rw [if_neg empty]; exact run), ExceptZones_trans (t := s.loosen a) rfl again.kept, fun z => ?_, ?_⟩
    · by_cases out : (s.loosen a).holders.get z = some (a, .linger) ∧ (s.loosen a).settings.linger = 0
      · rw [again.out z out.1 out.2]; exact State.handed_ne _
      · rw [again.stays z (by rwa [Classical.not_and_iff_not_or_not] at out)]; exact no_segment z
    · intro r u lingered holders standing linger settings unref
      have handed := handed_same r u lingered standing unref
      have lingers_on : ∃ x, s.linger = r.linger.set a x := by
        rw [linger]
        by_cases any : ∃ z, u.holders.get z = some (a, .linger)
        · exact ⟨_, lingered.runs any⟩
        · exact ⟨_, lingered.stops fun z lingers => any ⟨z, lingers⟩⟩
      obtain ⟨x, before⟩ := lingers_on
      have timer : ∀ y, (s.loosen a).linger.set a y = r.linger.set a y := fun y => by
        rw [show (s.loosen a).linger = r.linger.set a x from before, PerArm.set_set]
      have length : (s.loosen a).settings = r.settings := settings
      refine ⟨again.standing.trans (standing.trans lingered.standing), fun z held => ?_, fun z not_segment not_linger => ?_,
        fun any => by rw [again.runs any, timer, length], fun gone => by rw [again.stops gone, timer]⟩
      · by_cases zero : r.settings.linger = 0
        · rw [if_neg (Classical.not_not.2 zero), ← handed]
          rcases held with segment | lingers
          · refine again.out z ?_ (by rw [length]; exact zero)
            rw [State.loosen_holders, holders, lingered.stays z (.inl (by rw [segment]; simp)), if_pos segment]
          · have handed_on := lingered.out z lingers zero
            rw [again.stays z (.inl ?_), State.loosen_holders, holders, handed_on, if_neg (State.handed_ne _), handed]
            rw [State.loosen_holders, holders, handed_on, if_neg (State.handed_ne _)]
            exact State.handed_ne _
        · rw [if_pos zero, again.stays z (.inr (by rw [length]; exact zero)), State.loosen_holders, holders, lingered.stays z (.inr zero)]
          rcases held with segment | lingers
          · rw [if_pos segment]
          · rw [lingers]; simp
      · have same := lingered.stays z (.inl not_linger)
        have loosened : (s.loosen a).holders.get z = r.holders.get z := by
          rw [State.loosen_holders, holders, same, if_neg not_segment]
        rw [again.stays z (.inl (by rw [loosened]; exact not_linger)), loosened]

/-! ### The end of a segment -/

/-- The active segment w has ended with an outcome: its result is on the list (R96). -/
def State.finish (s : State) (a : Arm) (w : Working) (o : Outcome) : State :=
  (s.modMotion a fun m => { m with active := none }).addResult a w.seg.tag o

/-- Where an arm with an empty queue goes after an outcome other than CONTACT (R86, R92, R96). -/
def State.rested (s : State) (a : Arm) (o : Outcome) : State :=
  let u := s.modMotion a fun m => { m with holdPending := false }
  if (s.motion.get a).holdPending = true then u.hold a .idMismatch
  else if o = .missed then u.hold a .missed
  else if o = .homeFailed then u.hold a .homeFailed
  else u.setPhase a .idle

/-- Evaluation with an empty queue (R78). -/
theorem runs_evaluate_empty {s : State} {a : Arm} (unreset : (s.motion.get a).resetPending = false)
    (empty : (s.motion.get a).queue = []) : Runs 1 [.evaluate a] s (s.setPhase a .idle) :=
  Runs.piece (x := .evaluate a) (e := (s.setPhase a .idle, []))
    (by simp only [perform, evaluate, unreset, empty, Bool.false_eq_true, if_false]) (Runs.nil _)

theorem runs_afterEnd {s : State} {a : Arm} {o : Outcome} (other : o ≠ .contact)
    (unreset : (s.motion.get a).resetPending = false) (empty : (s.motion.get a).queue = []) :
    Runs 2 [.afterEnd a o] s (s.rested a o) := by
  by_cases held : (s.motion.get a).holdPending = true
  · refine (Runs.piece (x := .afterEnd a o) (e := (s.rested a o, [])) ?_ (Runs.nil _)).mono (by decide)
    simp only [perform, afterEnd, State.rested, other, held, if_false, if_true]
  · by_cases missed : o = .missed
    · refine (Runs.piece (x := .afterEnd a o) (e := (s.rested a o, [])) ?_ (Runs.nil _)).mono (by decide)
      subst missed
      simp only [perform, afterEnd, State.rested, held, other, if_false, if_true, Bool.false_eq_true]
    · by_cases failed : o = .homeFailed
      · refine (Runs.piece (x := .afterEnd a o) (e := (s.rested a o, [])) ?_ (Runs.nil _)).mono (by decide)
        subst failed
        simp only [perform, afterEnd, State.rested, held, other, missed, if_false, if_true, Bool.false_eq_true]
      · refine Runs.piece (x := .afterEnd a o) (e := (s.modMotion a fun m => { m with holdPending := false }, [.evaluate a])) ?_ ?_
        · simp only [perform, afterEnd, held, other, missed, failed, if_false, Bool.false_eq_true]
        · simp only [State.rested, held, missed, failed, if_false, Bool.false_eq_true]
          exact runs_evaluate_empty (by rw [State.modMotion_motion, PerArm.get_set]; exact unreset)
            (by rw [State.modMotion_motion, PerArm.get_set]; exact empty)

theorem State.setPhase_enabled (s : State) (a : Arm) {p : Phase} (enabled : denOf p = true) : s.setPhase a p = { s with
    motion := s.motion.set a { s.motion.get a with phase := p }, axes := s.axes.set a { s.axes.get a with den := true } } := by
  simp only [State.setPhase, enabled, AxisUnit.drive_true, State.modMotion, State.modAxes]

theorem State.hold_shape (s : State) (a : Arm) (r : HoldReason) : s.hold a r = { s with
    motion := s.motion.set a { s.motion.get a with phase := .held r }
    axes := s.axes.set a { s.axes.get a with den := true }
    links := (s.raise a.link .armHeld).links } := by
  rw [State.hold, State.setPhase_enabled s a (p := .held r) rfl]
  rfl

/-- An arm that rests is IDLE or HELD, and enabled. -/
theorem State.rested_shape (s : State) (a : Arm) (o : Outcome) : ∃ p links, s.rested a o = { s with
      motion := s.motion.set a { s.motion.get a with holdPending := false, phase := p }
      axes := s.axes.set a { s.axes.get a with den := true }
      links := links }
    ∧ (p = .idle ∨ ∃ r, p = .held r) := by
  have motion : ∀ p, (s.motion.set a { s.motion.get a with holdPending := false }).set a
      { ((s.motion.set a { s.motion.get a with holdPending := false }).get a) with phase := p }
      = s.motion.set a { s.motion.get a with holdPending := false, phase := p } := fun p => by
    rw [PerArm.set_set, PerArm.get_set]
  have hold : ∀ r, ∃ links, (s.modMotion a fun m => { m with holdPending := false }).hold a r = { s with
      motion := s.motion.set a { s.motion.get a with holdPending := false, phase := .held r }
      axes := s.axes.set a { s.axes.get a with den := true }
      links := links } := fun r => by
    rw [State.hold_shape, State.modMotion_motion, motion]
    exact ⟨_, rfl⟩
  unfold State.rested
  split
  · obtain ⟨links, shape⟩ := hold .idMismatch
    exact ⟨_, links, shape, .inr ⟨_, rfl⟩⟩
  split
  · obtain ⟨links, shape⟩ := hold .missed
    exact ⟨_, links, shape, .inr ⟨_, rfl⟩⟩
  split
  · obtain ⟨links, shape⟩ := hold .homeFailed
    exact ⟨_, links, shape, .inr ⟨_, rfl⟩⟩
  · refine ⟨.idle, s.links, ?_, .inl rfl⟩
    rw [State.setPhase_enabled _ a (p := .idle) rfl, State.modMotion_motion, motion]
    rfl

theorem State.unreferenced_enabled (s : State) (m : PerArm Motion) (links : PerLink LinkState) (a b : Arm) :
    State.unreferenced { s with
      motion := m, axes := s.axes.set a { s.axes.get a with den := true }, links := links } b = s.unreferenced b := by
  cases a <;> cases b <;> rfl

theorem ExceptZones_rested {s t : State} (kept : ExceptZones s t) (a : Arm) (o : Outcome) :
    ExceptZones (s.rested a o) (t.rested a o) := by
  obtain ⟨_, _, _, _, _, rfl⟩ := ExceptZones_update kept
  unfold State.rested
  dsimp only
  (repeat' split) <;> rfl

theorem ExceptZones_finish {s t : State} (kept : ExceptZones s t) (a : Arm) (w : Working) (o : Outcome) :
    ExceptZones (s.finish a w o) (t.finish a w o) := by
  obtain ⟨_, _, _, _, _, rfl⟩ := ExceptZones_update kept
  rfl

/-- An arm rests, and the zones of its ended segment are settled. -/
theorem runs_rest {s u : State} {a : Arm} {o : Outcome} (other : o ≠ .contact) (kept : ExceptZones s u)
    (ended : (s.motion.get a).active = none) (unreset : (s.motion.get a).resetPending = false)
    (empty : (s.motion.get a).queue = []) (unawaited : s.waiters = []) :
    ∃ t, Runs 6 [.afterEnd a o, .settleZones a] u t ∧ ExceptZones (s.rested a o) t ∧ (∀ z, t.holders.get z ≠ some (a, .segment))
      ∧ ∀ r, Lingered a r u → u.settings = r.settings → u.unreferenced a.other = r.unreferenced a.other → Loosened a r t := by
  have motion : u.motion = s.motion := by rw [kept]
  have after := runs_afterEnd (s := u) (a := a) other (by rw [motion]; exact unreset) (by rw [motion]; exact empty)
  obtain ⟨p, links, shape, phase⟩ := u.rested_shape a o
  have at_rest : ((u.rested a o).motion.get a).active = none ∧ ((u.rested a o).motion.get a).phase = p := by
    rw [shape, PerArm.get_set]
    exact ⟨by rw [motion]; exact ended, rfl⟩
  obtain ⟨none_active, now⟩ := at_rest
  have enabled : denOf p = true ∧ p ≠ .waiting .zone := by
    rcases phase with rfl | ⟨r, rfl⟩ <;> exact ⟨rfl, nofun⟩
  obtain ⟨t, run, settled, no_segment, loosens⟩ := runs_settle none_active (by rw [now]; exact enabled.2)
    (by rw [now]; exact enabled.1) (by rw [shape]; exact (ExceptZones_waiters kept).trans unawaited)
  refine ⟨t, after.append run, ExceptZones_trans (ExceptZones_rested kept a o) settled, no_segment, fun r lingered settings unref => ?_⟩
  refine loosens r u lingered (by rw [shape]) (by rw [shape]) (by rw [shape]) (by rw [shape]; exact settings) ?_
  rw [shape, State.unreferenced_enabled]
  exact unref

/-- The end of a segment of an arm with an empty queue, while no arm waits. -/
theorem runs_segmentEnd {s : State} {a : Arm} {w : Working} {o : Outcome} (other : o ≠ .contact)
    (active : (s.motion.get a).active = some w) (unreset : (s.motion.get a).resetPending = false)
    (empty : (s.motion.get a).queue = []) (unawaited : s.waiters = []) :
    ∃ t, Runs 12 [.segmentEnd a o] s t ∧ ExceptZones ((s.finish a w o).rested a o) t
      ∧ (∀ z, t.holders.get z ≠ some (a, .segment))
      ∧ (s.startup ≠ .loading → denOf (s.motion.get a).phase = true → Rests (s.finish a w o) t a) := by
  have acts : perform (.segmentEnd a o) s
      = (s.finish a w o, [.recomputeEnd a w.needed, .afterEnd a o, .settleZones a]) := by
    simp only [perform, segmentEnd, active, unreset, Bool.false_eq_true, if_false, State.finish]
  have finished : ((s.finish a w o).motion.get a).active = none ∧ ((s.finish a w o).motion.get a).resetPending = false
      ∧ ((s.finish a w o).motion.get a).queue = [] ∧ ((s.finish a w o).motion.get a).phase = (s.motion.get a).phase := by
    simp [State.finish, State.addResult, unreset, empty]
  obtain ⟨ended, pending, left, phase⟩ := finished
  have clear : (s.finish a w o).waiters = [] := unawaited
  by_cases known : s.startup ≠ .loading ∧ denOf (s.motion.get a).phase = true
  · have reformed := recomputeCore_reformed a w.needed (s.finish a w o)
    obtain ⟨u, run, kept, lingered⟩ := runs_recompute_enabled (s := s.finish a w o) (a := a) (x := .recomputeEnd a w.needed) rfl
      known.1 clear (by rw [phase]; exact known.2)
    obtain ⟨t, next, rested, no_segment, loosens⟩ := runs_rest other kept ended pending left clear
    refine ⟨t, (Runs.piece (x := .segmentEnd a o) acts (Runs.append (v := 4) (w := 6) run next)).mono (by decide), rested, no_segment, fun _ _ =>
      rests_of_loosened reformed (by rw [phase]; exact known.2) (loosens _ lingered ?_ ?_)⟩
    · rw [lingered.kept]
    · rw [lingered.kept]; rfl
  · obtain ⟨u, run, kept⟩ := Runs.of_contained (recomputeEnd_contained a w.needed) clear
    obtain ⟨t, next, rested, no_segment, -⟩ := runs_rest other kept ended pending left clear
    exact ⟨t, (Runs.piece (x := .segmentEnd a o) acts (Runs.append (v := 4) (w := 6) run next)).mono (by decide), rested, no_segment,
      fun loaded enabled => absurd ⟨loaded, enabled⟩ known⟩

/-! ### A stop at v = 0 -/

/-- A stop of an active segment that moves: the stop ramp begins (R88). -/
theorem enterStop_ramp {s : State} {a : Arm} {w : Working} (active : (s.motion.get a).active = some w) (running : w.status = .active)
    (moves : 0 < w.v) (o : Outcome) : enterStop a o s
      = ((s.modMotion a fun m => { m with active := some { w with status := .stopping o } }).setPhase a .stopping, []) := by
  simp only [enterStop, active, running, Nat.pos_iff_ne_zero.1 moves, if_false]

/-- A stop of an active segment that stands: it ends at once (R88). -/
theorem enterStop_stands {s : State} {a : Arm} {w : Working} (active : (s.motion.get a).active = some w) (running : w.status = .active)
    (stands : w.v = 0) (o : Outcome) : enterStop a o s
      = (((s.modMotion a fun m => { m with active := some { w with status := .stopping o } }).setPhase a .stopping).setStanding a
        w.setpoints, [.segmentEnd a o]) := by
  simp only [enterStop, active, running, stands, if_true]

end Sys2Proof.Machine
end
section
/-! PROOFS. Reference marks (R57 to R59, R88, R89). -/
namespace Sys2Proof.Machine
open Sys2Proof.Safety

/-- A segment that a stop ends at v = 0 leaves the arm at its setpoints, IDLE (R88). -/
theorem State.stopped_rested {s : State} {a : Arm} {w x : Working} {o : Outcome} (unheld : (s.motion.get a).holdPending = false)
    (not_missed : o ≠ .missed) (not_failed : o ≠ .homeFailed) (same : x.seg = w.seg) (sp : Vec3) :
    ((((s.modMotion a fun m => { m with active := some x }).setPhase a .stopping).setStanding a sp).finish a x o).rested a o
      = (((s.setStanding a sp).modMotion a fun m => { m with active := none }).addResult a w.seg.tag o).setPhase a .idle := by
  simp only [State.finish, State.rested, not_missed, not_failed, State.addResult, State.setPhase, denOf, AxisUnit.drive_true,
    State.setStanding, State.modMotion_motion, State.modAxes_motion, State.raise_motion, PerArm.get_set, unheld, if_false,
    Bool.false_eq_true, same]
  simp only [State.modMotion, State.modAxes, State.raise, State.modLink, PerArm.get_set, PerArm.set_set, unheld]

/-- A stop of an active segment that stands, with an empty queue and while no arm waits: the arm is IDLE at the segment's
setpoints (R88). Before it may run what changes zone fields alone. -/
theorem settle_stands {s : State} {a : Arm} {w : Working} {o : Outcome} {ts : List Task}
    (active : (s.motion.get a).active = some w) (running : w.status = .active) (stands : w.v = 0)
    (empty : (s.motion.get a).queue = []) (unreset : (s.motion.get a).resetPending = false)
    (unheld : (s.motion.get a).holdPending = false) (unawaited : s.waiters = []) (not_missed : o ≠ .missed)
    (not_failed : o ≠ .homeFailed) (not_contact : o ≠ .contact)
    (before : ∀ v : State, v.waiters = [] → ∃ v', Runs 4 ts v v' ∧ ExceptZones v v') :
    ExceptZones ((((s.setStanding a w.setpoints).modMotion a fun m => { m with active := none }).addResult a w.seg.tag o).setPhase
      a .idle) (settle ((enterStop a o s).1, ts ++ (enterStop a o s).2)) := by
  rw [enterStop_stands active running stands,
    ← State.stopped_rested (x := { w with status := .stopping o }) unheld not_missed not_failed rfl]
  have motion : ((((s.modMotion a fun m => { m with active := some { w with status := .stopping o } }).setPhase a
      .stopping).setStanding a w.setpoints).motion.get a)
      = { s.motion.get a with phase := .stopping, active := some { w with status := .stopping o } } := by
    simp [State.setStanding, State.setPhase]
  have clear : (((s.modMotion a fun m => { m with active := some { w with status := .stopping o } }).setPhase a
      .stopping).setStanding a w.setpoints).waiters = [] := by
    simp [State.setStanding, State.setPhase, unawaited]
  generalize (((s.modMotion a fun m => { m with active := some { w with status := .stopping o } }).setPhase a
      .stopping).setStanding a w.setpoints) = v at motion clear ⊢
  obtain ⟨v', run, kept⟩ := before v clear
  have same : v'.motion = v.motion := by rw [kept]
  obtain ⟨t, ends, rested, -, -⟩ := runs_segmentEnd (s := v') (a := a) (w := { w with status := .stopping o }) not_contact
    (by rw [same, motion]) (by rw [same, motion]; exact unreset) (by rw [same, motion]; exact empty)
    (by rw [ExceptZones_waiters kept, clear])
  rw [(run.append ends).settle (by decide)]
  exact ExceptZones_trans (ExceptZones_rested (ExceptZones_finish kept a _ _) a _) rested

theorem State.markCounts_iff (s : State) (a : Arm) (i : Axis) : s.markCounts a i = true ↔ ∃ w dir search,
    (s.motion.get a).active = some w ∧ w.seg.move = .home i dir search ∧ w.status = .active
      ∧ ((s.axes.get a).axis.get i).sense = senseOf dir := by
  unfold State.markCounts
  rw [Option.any_eq_true]
  constructor
  · rintro ⟨w, active, counts⟩
    split at counts
    next j dir search move =>
      simp only [Bool.and_eq_true, decide_eq_true_eq] at counts
      obtain ⟨⟨rfl, running⟩, sense⟩ := counts
      exact ⟨w, dir, search, active, move, running, sense⟩
    next => cases counts
  · rintro ⟨w, dir, search, active, move, running, sense⟩
    refine ⟨w, active, ?_⟩
    rw [move]
    simp [running, sense]

/-- The axis and the path after a mark that counts (R58, R59, R89). -/
def State.rebased (s : State) (a : Arm) (i : Axis) (w : Working) : State :=
  let ref := ((s.cal.get a).axis.get i).reference
  (s.modAxis a i fun y => { y with count := ref, referenced := true, error := false, skip := true }).modMotion a
    fun m => { m with active := some (w.rebase i (wrap32 (ref - ((s.axes.get a).axis.get i).count))) }

theorem referenceMark_of_counts {s : State} {a : Arm} {i : Axis} {w : Working} (counts : s.markCounts a i = true)
    (active : (s.motion.get a).active = some w) : referenceMark a i s = ((enterStop a .done (s.rebased a i w)).1,
      (if ((s.axes.get a).axis.get i).referenced then [] else [.recompute a]) ++ (enterStop a .done (s.rebased a i w)).2) := by
  have moved : ∀ delta, ((s.modAxis a i fun y => { y with
        count := ((s.cal.get a).axis.get i).reference, referenced := true, error := false, skip := true }).modMotion a
        fun m => { m with active := m.active.map (·.rebase i delta) })
      = (s.modAxis a i fun y => { y with
        count := ((s.cal.get a).axis.get i).reference, referenced := true, error := false, skip := true }).modMotion a
        fun m => { m with active := some (w.rebase i delta) } := fun delta => by
    simp only [State.modMotion, State.modAxis, State.modAxes, active, Option.map_some]
  simp only [referenceMark, counts, if_true, State.rebased, moved]

/-- A mark that counts while the HOME moves begins its stop ramp (R59, R88). -/
theorem referenceMark_moves {s : State} {a : Arm} {i : Axis} {w : Working} (counts : s.markCounts a i = true)
    (active : (s.motion.get a).active = some w) (running : w.status = .active) (moves : 0 < w.v) :
    referenceMark a i s = (((s.modAxis a i fun y => { y with
        count := ((s.cal.get a).axis.get i).reference, referenced := true, error := false, skip := true }).modMotion a fun m =>
        { m with active := some { (w.rebase i (wrap32 (((s.cal.get a).axis.get i).reference
          - ((s.axes.get a).axis.get i).count))) with status := .stopping .done } }).setPhase a .stopping,
      if ((s.axes.get a).axis.get i).referenced then [] else [.recompute a]) := by
  have now : ((s.rebased a i w).motion.get a).active = some (w.rebase i (wrap32 (((s.cal.get a).axis.get i).reference
      - ((s.axes.get a).axis.get i).count))) := by
    simp only [State.rebased, State.modMotion_motion, PerArm.get_set]
  rw [referenceMark_of_counts counts active, enterStop_ramp now running moves, List.append_nil]
  simp only [State.rebased, State.modMotion, PerArm.get_set, PerArm.set_set]

/-- A mark that counts at v = 0 ends the HOME, after the recompute of a newly REFERENCED axis (R59, R88, R109). -/
theorem referenceMark_stands {s : State} {a : Arm} {i : Axis} {w : Working} (counts : s.markCounts a i = true)
    (active : (s.motion.get a).active = some w) (running : w.status = .active) (stands : w.v = 0)
    (empty : (s.motion.get a).queue = []) (unreset : (s.motion.get a).resetPending = false)
    (unheld : (s.motion.get a).holdPending = false) (unawaited : s.waiters = []) :
    ExceptZones (((((s.modAxis a i fun y => { y with
        count := ((s.cal.get a).axis.get i).reference, referenced := true, error := false, skip := true }).setStanding a
        (w.rebase i (wrap32 (((s.cal.get a).axis.get i).reference - ((s.axes.get a).axis.get i).count))).setpoints).modMotion a fun m =>
        { m with active := none }).addResult a w.seg.tag .done).setPhase a .idle) (settle (referenceMark a i s)) := by
  have motion : (s.rebased a i w).motion.get a = { s.motion.get a with active := some (w.rebase i
      (wrap32 (((s.cal.get a).axis.get i).reference - ((s.axes.get a).axis.get i).count))) } := by
    simp only [State.rebased, State.modMotion_motion, PerArm.get_set]
    rfl
  have start : ((s.rebased a i w).setStanding a (w.rebase i (wrap32 (((s.cal.get a).axis.get i).reference
        - ((s.axes.get a).axis.get i).count))).setpoints).modMotion a (fun m => { m with active := none })
      = ((s.modAxis a i fun y => { y with
        count := ((s.cal.get a).axis.get i).reference, referenced := true, error := false, skip := true }).setStanding a
        (w.rebase i (wrap32 (((s.cal.get a).axis.get i).reference - ((s.axes.get a).axis.get i).count))).setpoints).modMotion a
        fun m => { m with active := none } := by
    simp only [State.rebased, State.setStanding, State.modMotion, State.modAxes, State.modAxis, PerArm.get_set, PerArm.set_set]
  rw [referenceMark_of_counts counts active, ← start]
  refine settle_stands (s := s.rebased a i w) (by rw [motion]) running stands (by rw [motion]; exact empty) (by rw [motion]; exact unreset)
    (by rw [motion]; exact unheld) unawaited (by decide) (by decide) (by decide) fun v clear => ?_
  split
  · exact ⟨v, (Runs.nil v).mono (by decide), rfl⟩
  · exact Runs.of_contained (recompute_contained a) clear

end Sys2Proof.Machine

namespace Sys2Proof
open Machine Safety

/-- Settles O31: a mark counts as `State.markCounts_iff` says; one that counts begins the stop ramp, or at v = 0 ends the
HOME by `runs_segmentEnd`, after the recompute of a newly REFERENCED axis. -/
theorem referenceMark : Obligations.ReferenceMark := by
  intro a i s x acted
  have isActed : s.markCounts a i = true ↔ ∃ w, acted w := by
    rw [State.markCounts_iff]
    refine exists_congr fun w => exists_congr fun dir => exists_congr fun search => ?_
    cases dir <;> rfl
  refine ⟨fun none => ?_, fun w counts moves => ?_, fun w counts stands empty unreset unheld unawaited => ?_⟩
  · have ignored := Bool.eq_false_iff.2 (mt isActed.1 none)
    exact congrArg Host.Outcome.next (by simp only [Machine.referenceMark, ignored, Bool.false_eq_true, if_false, settle_nil])
  · have counted := isActed.2 ⟨w, counts⟩
    obtain ⟨dir, search, active, -, running, -⟩ := counts
    have acts := referenceMark_moves counted active running moves
    refine ⟨fun known => congrArg Host.Outcome.next ?_, fun unawaited => ⟨_, rfl, ?_⟩⟩
    · rw [acts, if_pos known, settle_nil]
      rfl
    · rw [acts]
      split
      · rw [settle_nil]; rfl
      · exact settle_contained (recompute_contained a) (by decide) unawaited
  · have counted := isActed.2 ⟨w, counts⟩
    obtain ⟨dir, search, active, -, running, -⟩ := counts
    exact ⟨_, rfl, referenceMark_stands counted active running stands empty unreset unheld unawaited⟩

end Sys2Proof
end
section
/-! PROOFS. RESUME and the evaluation of a head (R78 to R83, R89, R93, R120). -/
namespace Sys2Proof.Machine
open Sys2Proof.Safety

/-- A result entry leaves the arm's state, queue, segment and marks (R97). -/
theorem State.addResult_kept (s : State) (a : Arm) (tag : Nat) (o : Outcome) (n : Option Nat) :
    ((s.addResult a tag o n).motion.get a).phase = (s.motion.get a).phase
    ∧ ((s.addResult a tag o n).motion.get a).queue = (s.motion.get a).queue
    ∧ ((s.addResult a tag o n).motion.get a).active = (s.motion.get a).active
    ∧ ((s.addResult a tag o n).motion.get a).resetPending = (s.motion.get a).resetPending
    ∧ ((s.addResult a tag o n).motion.get a).holdPending = (s.motion.get a).holdPending := by
  simp [State.addResult]

/-! ### Lengths -/

theorem vecNorm_eq_zero_iff (v : Vec3) : vecNorm v = 0 ↔ ∀ i, v.get i = 0 := by
  have spec := isqrt_spec (v.x.natAbs ^ 2 + v.y.natAbs ^ 2 + v.z.natAbs ^ 2)
  constructor
  · intro zero
    have root : isqrt (v.x.natAbs ^ 2 + v.y.natAbs ^ 2 + v.z.natAbs ^ 2) = 0 := zero
    rw [root] at spec
    have small : v.x.natAbs ^ 2 = 0 ∧ v.y.natAbs ^ 2 = 0 ∧ v.z.natAbs ^ 2 = 0 := by omega
    obtain ⟨x, y, z⟩ := small
    simp only [Nat.pow_eq_zero, Int.natAbs_eq_zero] at x y z
    exact fun i => match i with | .X => x.1 | .Y => y.1 | .Z => z.1
  · intro zero
    have x : v.x = 0 := zero .X
    have y : v.y = 0 := zero .Y
    have z : v.z = 0 := zero .Z
    show isqrt (v.x.natAbs ^ 2 + v.y.natAbs ^ 2 + v.z.natAbs ^ 2) = 0
    rw [x, y, z]
    decide

theorem vecNorm_sub_eq_zero_iff (p q : Vec3) : vecNorm (vecSub p q) = 0 ↔ p = q := by
  rw [vecNorm_eq_zero_iff]
  constructor
  · intro zero
    have get : ∀ i, p.get i = q.get i := fun i => by
      have := zero i
      cases i <;> exact Int.sub_eq_zero.1 this
    cases p; cases q
    have x := get .X
    have y := get .Y
    have z := get .Z
    simp only [PerAxis.get] at x y z
    rw [x, y, z]
  · rintro rfl i
    cases i <;> exact Int.sub_self _

/-! ### The stages of the evaluation -/

section
variable {s : State} {a : Arm} {h : Segment} {rest : List Segment} (unreset : (s.motion.get a).resetPending = false)
  (queue : (s.motion.get a).queue = h :: rest)
include queue

/-- The head leaves the queue with an outcome (R78). -/
theorem endHead_cons (o : Outcome) : s.endHead a o
    = (s.modMotion a fun m => { m with queue := rest, geometry := none }).addResult a h.tag o := by
  simp only [State.endHead, queue]

include unreset

theorem evaluate_closed (rack : h.move.kind = .rack) (closed : s.rackOpenStep a = false) :
    evaluate a s = (s.endHeld a .refusedRack .refusedRack, []) := by
  cases move : h.move <;> simp only [move, Move.kind, reduceCtorEq] at rack
  simp [evaluate, unreset, queue, move, Move.target?, Move.kind, closed]

theorem evaluate_stuck (probe : h.move.kind = .probe) (trig : (s.capture.get a).trig = true) :
    evaluate a s = (s.endHeld a .triggerStuck .triggerStuck, []) := by
  cases move : h.move <;> simp only [move, Move.kind, reduceCtorEq] at probe
  simp [evaluate, unreset, queue, move, Move.target?, Move.kind, trig]

theorem evaluate_full (probe : h.move.kind = .probe) (trig : (s.capture.get a).trig = false)
    (full : 32 ≤ (s.capture.get a).points.length) :
    evaluate a s = ((s.setPhase a (.waiting .points)).raise a.link .pointsWait, []) := by
  cases move : h.move <;> simp only [move, Move.kind, reduceCtorEq] at probe
  simp [evaluate, unreset, queue, move, Move.target?, Move.kind, trig, full]

variable {target : Vec3} (aims : h.move.target? = some target) (open_step : h.move.kind = .rack → s.rackOpenStep a = true)
  (ready : h.move.kind = .probe → (s.capture.get a).trig = false ∧ (s.capture.get a).points.length < 32)
include aims

include ready in
/-- Past the rack, trigger and point queue tests, a PROBE whose target is its start has no direction (R79). -/
theorem evaluate_still_probe (probe : h.move.kind = .probe) (still : target = (s.formGeometry a h.move target).start) :
    evaluate a s = (s.endHeld a .noDirection .noDirection, []) := by
  obtain ⟨trig, room⟩ := ready probe
  have zero := (vecNorm_sub_eq_zero_iff _ _).2 still
  simp only [State.formGeometry] at zero
  simp [evaluate, unreset, queue, aims, probe, trig, Nat.not_le.2 room, zero]

include open_step in
/-- Another segment whose target is its start is DONE at once (R79). -/
theorem evaluate_still (other : h.move.kind ≠ .probe) (still : target = (s.formGeometry a h.move target).start) :
    evaluate a s = (s.endHead a .done, [.evaluate a]) := by
  have zero : (s.formGeometry a h.move target).len = 0 := by
    cases move : h.move with
    | probe t beyond => rw [move] at other; exact absurd rfl other
    | _ => rw [move] at still; exact (vecNorm_sub_eq_zero_iff _ _).2 still
  have opened : (decide (h.move.kind = .rack) && !s.rackOpenStep a) = false := by
    simpa using fun rack => open_step rack
  simp [evaluate, unreset, queue, aims, other, zero, opened]

include open_step ready in
/-- Every other segment goes on to stages 4 to 6 (R79 to R82). -/
theorem evaluate_moves (moves : target ≠ (s.formGeometry a h.move target).start) :
    evaluate a s = stages a h.move (s.formGeometry a h.move target) s := by
  have length : vecNorm (vecSub target (s.formGeometry a h.move target).start) ≠ 0 := mt (vecNorm_sub_eq_zero_iff _ _).1 moves
  have opened : (decide (h.move.kind = .rack) && !s.rackOpenStep a) = false := by
    simpa using fun rack => open_step rack
  by_cases probe : h.move.kind = .probe
  · obtain ⟨trig, room⟩ := ready probe
    simp only [State.formGeometry] at length
    simp [evaluate, unreset, queue, aims, probe, trig, Nat.not_le.2 room, length]
  · have long : (s.formGeometry a h.move target).len ≠ 0 := by
      cases move : h.move with
      | probe t beyond => rw [move] at probe; exact absurd rfl probe
      | _ => rw [move] at length; exact length
    simp [evaluate, unreset, queue, aims, probe, long, opened]

end

theorem stages_forbidden {s : State} {a : Arm} {m : Move} {g : Geometry} (inside : InForbidden s a g) :
    stages a m g s = (s.endHeld a .refusedForbidden .refusedForbidden, []) := if_pos ((s.forbidden_iff a g).2 inside)

theorem stages_rack {s : State} {a : Arm} {m : Move} {g : Geometry} (outside : ¬ InForbidden s a g) (other : m.kind ≠ .rack)
    (inside : InRackZone s g) : stages a m g s = (s.endHeld a .refusedRack .refusedRack, []) := by
  have free := Bool.eq_false_iff.2 (mt (s.forbidden_iff a g).1 outside)
  simp [stages, free, other, (s.meetsRack_iff g).2 inside]

theorem stages_barred {s : State} {a : Arm} {m : Move} {g : Geometry} (outside : ¬ InForbidden s a g)
    (free_rack : m.kind = .rack ∨ ¬ InRackZone s g) (bars : HandoverBars s a g) : stages a m g s
      = ((s.modMotion a fun m => { m with geometry := none }).hold a .handover, []) := by
  have free := Bool.eq_false_iff.2 (mt (s.forbidden_iff a g).1 outside)
  have beside : (decide (m.kind ≠ .rack) && s.meetsRack g.swept) = false := by
    rw [← Bool.not_eq_true, Bool.and_eq_true, decide_eq_true_eq, s.meetsRack_iff g]
    exact fun ⟨other, inside⟩ => free_rack.elim other (· inside)
  simp only [stages, free, beside, (s.barred_iff a g).2 bars, Bool.false_eq_true, if_false, if_true]

/-- A head that passes stages 4 and 5 asks for its zones (R82). -/
theorem stages_pass {s : State} {a : Arm} {m : Move} {g : Geometry} (outside : ¬ InForbidden s a g)
    (free_rack : m.kind = .rack ∨ ¬ InRackZone s g) (open_way : ¬ HandoverBars s a g) : stages a m g s
      = (s.modMotion a fun m => { m with geometry := some g }, [.request a true]) := by
  have free := Bool.eq_false_iff.2 (mt (s.forbidden_iff a g).1 outside)
  have beside : (decide (m.kind ≠ .rack) && s.meetsRack g.swept) = false := by
    rw [← Bool.not_eq_true, Bool.and_eq_true, decide_eq_true_eq, s.meetsRack_iff g]
    exact fun ⟨other, inside⟩ => free_rack.elim other (· inside)
  simp only [stages, free, beside, Bool.eq_false_iff.2 (mt (s.barred_iff a g).1 open_way), Bool.false_eq_true, if_false]

/-! ### RESUME -/

/-- An arm that is IDLE and enabled stays as it is. -/
theorem State.setPhase_same {s : State} {a : Arm} (idle : (s.motion.get a).phase = .idle) (enabled : (s.axes.get a).den = true) :
    s.setPhase a .idle = s := by
  have motion : { s.motion.get a with phase := .idle } = s.motion.get a := by rw [← idle]
  have axes : { s.axes.get a with den := true } = s.axes.get a := by rw [← enabled]
  rw [State.setPhase_enabled s a (p := .idle) rfl, motion, axes, PerArm.set_get, PerArm.set_get]

theorem State.isHeld_iff (s : State) (a : Arm) : s.isHeld a = true ↔ ∃ r, (s.motion.get a).phase = .held r := by
  cases phase : (s.motion.get a).phase <;> simp [State.isHeld, phase]

theorem linkCheck_resume (a : Arm) : linkCheck a.link (.resume a.link) = none := by cases a <;> rfl

theorem exec_resume_refused {s : State} {a : Arm} (taken : Takes s a.link (.resume a.link))
    (barred : (∀ r, (s.motion.get a).phase ≠ .held r) ∨ (s.motion.get a).resetPending = true) :
    Refuses (.resume a.link) a.link s .wrongState := by
  have fails : (!s.isHeld a || (s.motion.get a).resetPending) = true := by
    rcases barred with other | pending
    · have free : s.isHeld a = false := Bool.eq_false_iff.2 fun held => by
        obtain ⟨r, phase⟩ := (s.isHeld_iff a).1 held
        exact other r phase
      simp [free]
    · simp [pending]
  exact congrArg Host.Outcome.next (serve_reads taken (linkCheck_resume a) fun g => by
    rw [ownArm_link]
    exact checked_first (s := s.modLink a.link g) fails)

/-- The IDLE arm of an accepted RESUME, its link answered (R93). -/
def State.resumed (s : State) (a : Arm) : State := answered (s.setPhase a .idle) a.link .ok .none

/-- An accepted RESUME evaluates the head (R93). -/
theorem exec_resume {s : State} {a : Arm} {r : HoldReason} (taken : Takes s a.link (.resume a.link))
    (held : (s.motion.get a).phase = .held r) (unreset : (s.motion.get a).resetPending = false) :
    Goes (.resume a.link) s (settle (s.resumed a, [.evaluate a])) := by
  have passes : (!s.isHeld a || (s.motion.get a).resetPending) = false := by
    simp [(s.isHeld_iff a).2 ⟨r, held⟩, unreset]
  refine congrArg Host.Outcome.next (serve_goes (u := s.setPhase a .idle) (fun x => settle (x, [.evaluate a])) taken (linkCheck_resume a) rfl fun g => ?_)
  rw [ownArm_link]
  exact checked_next (s := s.modLink a.link g) passes

/-- Evaluation after RESUME that sets off nothing. -/
theorem exec_resume_ends {s t : State} {a : Arm} {r : HoldReason} (taken : Takes s a.link (.resume a.link))
    (held : (s.motion.get a).phase = .held r) (unreset : (s.motion.get a).resetPending = false)
    (ends : evaluate a (s.resumed a) = (t, [])) : Goes (.resume a.link) s t := by
  have goes := exec_resume taken held unreset
  rwa [settle_one (k := .evaluate a) ends] at goes

theorem State.resumed_motion (s : State) (a : Arm) : (s.resumed a).motion.get a = { s.motion.get a with phase := .idle } := by
  simp only [State.resumed, State.setPhase]
  cases a <;> rfl

theorem State.resumed_enabled (s : State) {a : Arm} : ((s.resumed a).axes.get a).den = true := by
  simp only [State.resumed, State.setPhase, denOf, AxisUnit.drive_true]
  cases a <;> rfl

/-- The last segment of an IDLE arm is DONE at once: the arm stays IDLE (R79). -/
theorem settle_done {s : State} {a : Arm} {h : Segment} (idle : (s.motion.get a).phase = .idle) (enabled : (s.axes.get a).den = true)
    (unreset : (s.motion.get a).resetPending = false) (last : (s.motion.get a).queue = [h])
    (once : evaluate a s = (s.endHead a .done, [.evaluate a])) : settle (s, [.evaluate a]) = s.endHead a .done := by
  rw [endHead_cons last] at once ⊢
  obtain ⟨phase, left, -, reset, -⟩ := State.addResult_kept (s.modMotion a fun m => { m with queue := [], geometry := none }) a h.tag .done none
  have before : (s.modMotion a fun m => { m with queue := [], geometry := none }).motion.get a
      = { s.motion.get a with queue := [], geometry := none } := by rw [State.modMotion_motion, PerArm.get_set]
  rw [before] at phase left reset
  have next := runs_evaluate_empty (reset.trans unreset) left
  rw [State.setPhase_same (phase.trans idle) enabled] at next
  exact (Runs.piece (x := .evaluate a) once next).settle (by decide)

/-- The geometry of a head does not depend on the phase and the links. -/
theorem State.formGeometry_resumed (s : State) (a : Arm) (m : Move) (target : Vec3) :
    (s.resumed a).formGeometry a m target = s.formGeometry a m target := by
  have standing : ((s.resumed a).axes.get a).standing = (s.axes.get a).standing := by
    simp only [State.resumed, State.setPhase, denOf, AxisUnit.drive_true]
    cases a <;> rfl
  unfold State.formGeometry
  rw [standing]
  rfl

theorem State.work_resumed (s : State) (a : Arm) (h : Segment) (g : Option Geometry) : (s.resumed a).work a h g = s.work a h g :=
  State.work_congr (by rfl) (by rfl) (by rfl) (by
    simp only [State.resumed, State.setPhase, denOf, AxisUnit.drive_true]
    cases a <;> rfl) h g

/-- Settles O41: the refusals, then each stage of the evaluation that an accepted RESUME runs. -/
theorem resumeEvaluates : Obligations.ResumeEvaluates := by
  intro a s taken m c u
  refine ⟨exec_resume_refused taken, fun r held unreset => ?_⟩
  have motion := s.resumed_motion a
  have pending : ((s.resumed a).motion.get a).resetPending = false := by rw [motion]; exact unreset
  refine ⟨fun empty => ?_, ?_⟩
  · have goes := exec_resume taken held unreset
    rwa [(runs_evaluate_empty pending (by rw [motion]; exact empty)).settle (by decide),
      State.setPhase_same (by rw [motion]) s.resumed_enabled] at goes
  intro h rest queue cut w
  have front : ((s.resumed a).motion.get a).queue = h :: rest := by rw [motion]; exact queue
  have held_as : ∀ (o : Outcome) (x : HoldReason), evaluate a (s.resumed a) = ((s.resumed a).endHeld a o x, []) →
      Goes c s ((cut o).hold a x) := by
    intro o x ends
    rw [State.endHeld, endHead_cons front] at ends
    exact exec_resume_ends taken held unreset ends
  refine ⟨fun home unawaited => ?_, fun i d n move => ?_, fun rack closed => ?_, fun probe trig => ?_, fun probe trig full => ?_, ?_⟩
  · obtain ⟨t, run, begun⟩ := runs_evaluate_home pending front home unawaited
    have goes := exec_resume taken held unreset
    rw [run.settle (by decide)] at goes
    rw [State.begins, State.work_resumed] at begun
    exact ⟨t, goes, begun⟩
  · have work : w = s.work a h none := rfl
    simp only [State.work, move] at work
    rw [work]
    refine ⟨rfl, rfl, rfl, rfl, rfl, rfl, ?_, fun j other => ?_⟩
    · cases d <;> cases i <;> rfl
    · show ((s.axes.get a).standing.set i _).get j = _
      rw [PerAxis.get_set_if, if_neg other]
      cases j <;> rfl
  · exact held_as _ _ (evaluate_closed pending front rack closed)
  · exact held_as _ _ (evaluate_stuck pending front probe trig)
  · exact exec_resume_ends taken held unreset (evaluate_full pending front probe trig full)
  · intro target aims open_step ready g start
    have same : g = (s.resumed a).formGeometry a h.move target := (s.formGeometry_resumed a h.move target).symm
    refine ⟨s.formGeometry_spec a h.move target, fun probe still => ?_, fun other still alone => ?_, fun moves => ?_⟩
    · exact held_as _ _ (evaluate_still_probe pending front aims ready probe (same ▸ still))
    · have once := evaluate_still pending front aims open_step other (same ▸ still)
      subst alone
      have goes := exec_resume taken held unreset
      rw [settle_done (by rw [motion]) s.resumed_enabled pending front once, endHead_cons front] at goes
      exact goes
    · have on := evaluate_moves pending front aims open_step ready (same ▸ moves)
      rw [← same] at on
      refine ⟨fun inside => ?_, fun outside other inside => ?_, fun outside free bars => ?_⟩
      · exact held_as _ _ (on.trans (stages_forbidden (s := s.resumed a) inside))
      · exact held_as _ _ (on.trans (stages_rack (s := s.resumed a) outside other inside))
      · exact exec_resume_ends taken held unreset (on.trans (stages_barred (s := s.resumed a) outside free bars))

end Sys2Proof.Machine
end
section
/-! PROOFS. The request of a head for its zones: the grant and the start, the wait with its entry and its hand-over counts, and
the deadlock (R82 to R84, R108, R111 to R121). -/
namespace Sys2Proof.Machine
open Sys2Proof.Safety

/-! ### The start of a head, zone by zone -/

/-- What a release leaves of the arm's own linger timer. -/
theorem Released.own_timer {a : Arm} {zs : List ZoneId} {s t : State} (released : Released a zs s t) :
    t.linger.get a = s.linger.get a ∨ t.linger.get a = none := by
  by_cases lingers : ∃ z, t.holders.get z = some (a, .linger)
  · exact .inl (by rw [released.lingers lingers])
  · by_cases any : ∃ z ∈ zs, ∃ w, s.holders.get z = some (a, w)
    · exact .inr (by rw [released.stops any fun z held => lingers ⟨z, held⟩, PerArm.get_set])
    · exact .inl (by rw [released.nothing fun z mem w held => any ⟨z, mem, w, held⟩])

/-- State t is p after arm a has started its head, which needs these zones (R116, R117, R119). -/
structure Activated (a : Arm) (needed : List ZoneId) (p t : State) : Prop where
  standing : t.standing = p.standing
  deferred : t.deferred = p.deferred
  needs : ∀ z ∈ needed, t.holders.get z = if p.holders.get z = some (a, .linger) then some (a, .segment) else p.holders.get z
  others : ∀ z ∉ needed, t.holders.get z
    = if p.holders.get z = some (a, .segment) ∨ p.holders.get z = some (a, .linger) then p.handed a z else p.holders.get z
  timer : t.linger.get a = none
  other_timer : t.linger.get a.other = p.linger.get a.other
  counted : ∀ h ∈ p.handover, h.holder = a → h.zone ∈ needed →
    { h with count := min (h.count + 1) (p.zones.get h.zone).k } ∈ t.handover
  counts : ∀ x ∈ t.handover, ∃ h ∈ p.handover, x.holder = h.holder ∧ x.zone = h.zone
    ∧ (h.holder = a → h.zone ∈ needed → x.count = min (h.count + 1) (p.zones.get h.zone).k)
    ∧ (h.zone ∉ needed → x.count = h.count)

/-- The zones at an activation, before the rest of the loose zones are released. -/
theorem activateZones_fields (a : Arm) (needed : List ZoneId) (s : State) :
    (∀ z, (activateZones a needed s).1.holders.get z = if s.holders.get z = some (a, .linger) ∧ z ∈ needed then some (a, .segment)
      else s.holders.get z)
    ∧ (activateZones a needed s).1.linger = s.linger.set a none
    ∧ (activateZones a needed s).1.handover = s.handover.map (fun h => if h.holder = a ∧ h.zone ∈ needed then
        { h with count := min (h.count + 1) (s.zones.get h.zone).k } else h) := by
  refine ⟨fun z => ?_, rfl, ?_⟩
  · simp only [activateZones, Table.get_mapIdx, Bool.and_eq_true, decide_eq_true_eq, List.contains_iff_mem]
  · simp only [activateZones, Bool.and_eq_true, decide_eq_true_eq, List.contains_iff_mem]

/-- The start of a head whose loose zones it needs all, or while no arm waits. -/
theorem runs_activated {s : State} {a : Arm} {h : Segment} {rest : List Segment} {g : Option Geometry} {needed : List ZoneId}
    (queue : (s.motion.get a).queue = h :: rest) (geometry : (s.motion.get a).geometry = g) (needs : (s.work a h g).needed = needed)
    (calm : s.waiters = [] ∨ ∀ z, s.holders.get z = some (a, .segment) ∨ s.holders.get z = some (a, .linger) → z ∈ needed) :
    ∃ t, Runs 3 [.activate a] s t ∧ ExceptZones (s.begins a h rest g) t ∧ Activated a needed s t := by
  have acts : activate a s = activateZones a needed (s.begins a h rest g) := by
    simp only [activate, queue, geometry, State.begins, needs]
  have mem_left : ∀ z, z ∈ ((s.begins a h rest g).loose a).filter (fun z => !needed.contains z)
      ↔ (s.holders.get z = some (a, .segment) ∨ s.holders.get z = some (a, .linger)) ∧ z ∉ needed := fun z => by
    rw [List.mem_filter, State.mem_loose, Bool.not_eq_true', ← Bool.not_eq_true, List.contains_iff_mem]
    rfl
  obtain ⟨holders, linger, handover⟩ := activateZones_fields a needed (s.begins a h rest g)
  have released : ∃ t, Runs 2 [.release a (((s.begins a h rest g).loose a).filter fun z => !needed.contains z)]
      (activateZones a needed (s.begins a h rest g)).1 t ∧ Released a (((s.begins a h rest g).loose a).filter fun z =>
        !needed.contains z) (activateZones a needed (s.begins a h rest g)).1 t := by
    rcases calm with unawaited | all
    · exact runs_release (s := (activateZones a needed (s.begins a h rest g)).1) unawaited _ _
    · have none_left : ((s.begins a h rest g).loose a).filter (fun z => !needed.contains z) = [] := by
        rw [List.eq_nil_iff_forall_not_mem]
        exact fun z mem => ((mem_left z).1 mem).2 (all z ((mem_left z).1 mem).1)
      rw [none_left]
      obtain ⟨spec, ⟨-, idle⟩ | ⟨⟨z, mem, -⟩, -⟩⟩ := release_spec a [] (activateZones a needed (s.begins a h rest g)).1
      · rw [idle] at spec
        exact ⟨_, (Runs.piece (x := .release a []) idle (Runs.nil _)).mono (by decide), spec⟩
      · exact absurd mem (List.not_mem_nil)
  obtain ⟨t, run, released⟩ := released
  have kept : ExceptZones (s.begins a h rest g) (activateZones a needed (s.begins a h rest g)).1 := rfl
  refine ⟨t, Runs.piece (x := .activate a) acts run, ExceptZones_trans kept released.kept, ?_⟩
  generalize after : (activateZones a needed (s.begins a h rest g)).1 = x at holders linger handover released
  have same : x.standing = s.standing ∧ x.deferred = s.deferred ∧ ∀ z, x.handed a z = s.handed a z := by
    rw [← after]
    refine ⟨rfl, rfl, fun z => ?_⟩
    have unref : (s.begins a h rest g).unreferenced a.other = s.unreferenced a.other := by
      simp only [State.begins, State.setPhase, denOf, AxisUnit.drive_true]
      cases a <;> rfl
    show State.handed (s.begins a h rest g) a z = _
    unfold State.handed
    rw [unref]
    rfl
  obtain ⟨standing, deferred, handed⟩ := same
  have before : (s.begins a h rest g).holders = s.holders := rfl
  refine { standing := released.standing.trans standing, deferred := released.deferred.trans deferred, needs := fun z mem => ?_,
           others := fun z absent => ?_, timer := ?_, other_timer := ?_, counted := fun k mem holder zone => ?_, counts := fun k mem => ?_ }
  · rw [released.stays z (.inl fun left => ((mem_left z).1 left).2 mem), holders, before]
    simp only [mem, and_true]
  · have here : x.holders.get z = s.holders.get z := by rw [holders, before]; simp only [absent, and_false, if_false]
    split
    next loose =>
      obtain ⟨w, held⟩ : ∃ w, x.holders.get z = some (a, w) := by
        rw [here]
        exact loose.elim (⟨_, ·⟩) (⟨_, ·⟩)
      rw [released.out z w ((mem_left z).2 ⟨loose, absent⟩) held, handed]
    next tight =>
      rw [released.stays z (.inl fun left => tight ((mem_left z).1 left).1), here]
  · rcases released.own_timer with kept_on | stopped
    · rw [kept_on, linger, PerArm.get_set]
    · exact stopped
  · rw [released.other_timer, linger, PerArm.get_set_ne _ _ a.other_ne]
    rfl
  · refine (released.handover _).2 ⟨?_, fun ⟨_, left, _⟩ => ((mem_left _).1 left).2 zone⟩
    rw [handover, List.mem_map]
    exact ⟨k, mem, if_pos ⟨holder, zone⟩⟩
  · have there := ((released.handover k).1 mem).1
    rw [handover, List.mem_map] at there
    obtain ⟨j, old, rfl⟩ := there
    refine ⟨j, old, ?_⟩
    split
    next both => exact ⟨rfl, rfl, fun _ _ => rfl, fun absent => absurd both.2 absent⟩
    next no => exact ⟨rfl, rfl, fun holder zone => absurd ⟨holder, zone⟩ no, fun _ => rfl⟩

/-! ### The grant -/

theorem State.takeZones_fields (s : State) (a : Arm) (needed : List ZoneId) : ExceptZones s (s.takeZones a needed)
    ∧ (∀ z, (s.takeZones a needed).holders.get z = if z ∈ needed ∧ (s.zones.get z).kind = .shared
        ∧ s.holders.get z ≠ some (a, .standing) ∧ s.holders.get z ≠ some (a, .claim) then some (a, .segment) else s.holders.get z)
    ∧ (∀ h, h ∈ (s.takeZones a needed).handover ↔ h ∈ s.handover ∧ ¬ (h.holder = a.other ∧ h.zone ∈ needed)) := by
  refine ⟨rfl, fun z => ?_, fun h => ?_⟩
  · simp only [State.takeZones, Table.get_mapIdx, Bool.and_eq_true, Bool.not_eq_true', decide_eq_true_eq, decide_eq_false_iff_not,
      List.contains_iff_mem, and_assoc, ne_eq]
  · simp only [State.takeZones, List.mem_filter, Bool.not_eq_true', ← Bool.not_eq_true, Bool.and_eq_true, decide_eq_true_eq,
      List.contains_iff_mem]

/-- The zones a segment with a target needs are those of its geometry. -/
theorem State.work_needed (s : State) (a : Arm) (h : Segment) (g : Geometry) (aims : h.move.kind ≠ .home) :
    (s.work a h (some g)).needed = g.needed := by
  have target : h.move.target? ≠ none := by
    cases move : h.move with
    | home i d n => rw [move] at aims; exact absurd rfl aims
    | _ => simp [Move.target?]
  obtain ⟨-, geometry, -⟩ := s.work_spec a h g target
  simp only [Working.needed, geometry, Option.map_some, Option.getD_some]

/-- Whether every zone a head needs is free, its own or lingering with the other arm (R111). -/
theorem free_iff (s : State) (a : Arm) (needed : List ZoneId) : (needed.all fun z =>
      (s.holders.get z).all fun h => decide (h.1 = a) || decide (h = (a.other, .linger))) = true
    ↔ ∀ z ∈ needed, ∀ b why, s.holders.get z = some (b, why) → b = a ∨ why = .linger := by
  simp only [List.all_eq_true, Option.all_eq_true, Bool.or_eq_true, decide_eq_true_eq, Prod.forall, Prod.mk.injEq]
  refine forall_congr' fun z => forall_congr' fun _ => forall_congr' fun b => forall_congr' fun why => ?_
  have := a.eq_or_other b
  have := a.other_ne
  grind

/-- A head whose zones are free for it is granted them and starts (R111, R116, R119). -/
theorem runs_grant {s : State} {a : Arm} {h : Segment} {rest : List Segment} {g : Geometry}
    (queue : (s.motion.get a).queue = h :: rest) (geometry : (s.motion.get a).geometry = some g) (aims : h.move.kind ≠ .home)
    (free : ∀ z ∈ g.needed, ∀ b why, s.holders.get z = some (b, why) → b = a ∨ why = .linger)
    (calm : s.waiters = [] ∨ ∀ z, s.holders.get z = some (a, .segment) ∨ s.holders.get z = some (a, .linger) → z ∈ g.needed) :
    ∃ t, Runs 4 [.request a true] s t ∧ ExceptZones (s.begins a h rest (some g)) t ∧ Granted s t a g.needed
      ∧ RaisesCounts s t a g.needed := by
  have acts : perform (.request a true) s = ((s.takeZones a g.needed).tidyLinger a.other, [.activate a]) := by
    simp only [perform, request, queue, geometry, (free_iff s a g.needed).2 free, Bool.not_true, Bool.false_and, Bool.false_eq_true,
      if_false, if_true]
  obtain ⟨taken, takes, keeps⟩ := s.takeZones_fields a g.needed
  obtain ⟨tidy, lingers, stops, own_timer⟩ := (s.takeZones a g.needed).tidyLinger_shape a.other
  have kept : ExceptZones s ((s.takeZones a g.needed).tidyLinger a.other) := ExceptZones_tidyLinger _ taken
  generalize after : (s.takeZones a g.needed).tidyLinger a.other = p at acts tidy lingers stops own_timer kept
  have holders : ∀ z, p.holders.get z = if z ∈ g.needed ∧ (s.zones.get z).kind = .shared
      ∧ s.holders.get z ≠ some (a, .standing) ∧ s.holders.get z ≠ some (a, .claim) then some (a, .segment) else s.holders.get z :=
    fun z => by rw [tidy]; exact takes z
  have handover : ∀ h, h ∈ p.handover ↔ h ∈ s.handover ∧ ¬ (h.holder = a.other ∧ h.zone ∈ g.needed) := fun h => by
    rw [tidy]; exact keeps h
  have base : p.standing = s.standing ∧ p.zones = s.zones ∧ p.motion = s.motion ∧ p.waiters = s.waiters
      ∧ (∀ z, p.handed a z = s.handed a z) := by
    rw [tidy]; exact ⟨rfl, rfl, rfl, rfl, fun _ => rfl⟩
  obtain ⟨standing, zones, motion, waiters, handed⟩ := base
  have absent_same : ∀ z ∉ g.needed, p.holders.get z = s.holders.get z := fun z absent => by
    rw [holders, if_neg fun all => absent all.1]
  obtain ⟨t, run, begun, active⟩ := runs_activated (s := p) (a := a) (h := h) (rest := rest) (g := some g) (needed := g.needed)
    (by rw [motion]; exact queue) (by rw [motion]; exact geometry) (p.work_needed a h g aims) (by
      rcases calm with unawaited | all
      · exact .inl (waiters.trans unawaited)
      · refine .inr fun z loose => ?_
        refine Classical.byContradiction fun absent => ?_
        rw [absent_same z absent] at loose
        exact absent (all z loose))
  have other_lingers : ∀ z, t.holders.get z = some (a.other, .linger) ↔ p.holders.get z = some (a.other, .linger) := by
    intro z
    by_cases mem : z ∈ g.needed
    · rw [active.needs z mem]
      split
      next own => rw [own]; simp [a.other_ne.symm]
      next => rfl
    · rw [active.others z mem]
      split
      next own =>
        have not_other : p.holders.get z ≠ some (a.other, .linger) := by
          rcases own with own | own <;> rw [own] <;> simp [a.other_ne.symm]
        refine iff_of_false ?_ not_other
        unfold State.handed
        (repeat' split) <;> simp
      next => rfl
  refine ⟨t, Runs.piece (x := .request a true) acts run, ExceptZones_trans (ExceptZones_begins kept a h rest _) begun,
    ⟨fun z mem shared => ?_, fun z mem unshared not_linger => ?_, fun z absent => ?_, active.timer, active.standing.trans standing,
      fun ⟨z, held⟩ => ?_, fun none_left => ?_⟩, fun k mem holder zone => ?_, fun x mem => ?_⟩
  · by_cases tight : s.holders.get z = some (a, .standing) ∨ s.holders.get z = some (a, .claim)
    · have here : p.holders.get z = s.holders.get z := by
        rw [holders, if_neg fun ⟨_, _, not_standing, not_claim⟩ => tight.elim not_standing not_claim]
      have not_linger : s.holders.get z ≠ some (a, .linger) := by rcases tight with tight | tight <;> simp [tight]
      rw [active.needs z mem, here, if_neg not_linger, if_pos tight]
    · have here : p.holders.get z = some (a, .segment) := by rw [holders, if_pos ⟨mem, shared, not_or.1 tight⟩]
      rw [active.needs z mem, here, if_neg tight, if_neg (by simp)]
  · have here : p.holders.get z = s.holders.get z := by rw [holders, if_neg fun all => unshared all.2.1]
    rw [active.needs z mem, here, if_neg not_linger]
  · rw [active.others z absent, absent_same z absent, handed]
    rfl
  · rw [active.other_timer, lingers ⟨z, ?_⟩]
    · rfl
    · have there := (other_lingers z).1 held
      rwa [tidy] at there
  · rw [active.other_timer, stops fun z there => none_left z ((other_lingers z).2 (by rw [tidy]; exact there)), PerArm.get_set]
  · rw [← zones]
    exact active.counted k ((handover k).2 ⟨mem, fun ⟨other, _⟩ => a.other_ne (other.symm.trans holder)⟩) holder zone
  · obtain ⟨k, there, holder, zone, raised, left⟩ := active.counts x mem
    obtain ⟨old, stays⟩ := (handover k).1 there
    refine ⟨k, old, holder, zone, fun needs => ?_, left⟩
    have own : k.holder = a := (a.eq_or_other k.holder).resolve_right fun other => stays ⟨other, needs⟩
    exact ⟨holder.trans own, by rw [← zones]; exact raised own needs⟩

end Sys2Proof.Machine
end
section
/-! PROOFS. A head that waits for its zones, and the deadlock of two that wait for each other (R112 to R114, R118, R121). -/
namespace Sys2Proof.Machine
open Sys2Proof.Safety

/-- A waiter scan that can grant nothing. -/
theorem runs_scan_blocked {s : State} (blocked : ∀ w ∈ s.waiters, s.grantable w = false) : Runs 1 [.scan] s s := by
  have none : s.waiters.find? (fun w => s.grantable w) = none :=
    List.find?_eq_none.2 fun w mem => Bool.eq_false_iff.1 (blocked w mem)
  exact Runs.piece (x := .scan) (e := (s, [])) (by simp only [perform, scan, none]) (Runs.nil s)

/-- A release whose waiter scan can grant nothing. -/
theorem runs_release_blocked {s : State} {a : Arm} {zs : List ZoneId}
    (blocked : ∀ t, Released a zs s t → ∀ w ∈ t.waiters, t.grantable w = false) :
    ∃ t, Runs 2 [.release a zs] s t ∧ Released a zs s t := by
  obtain ⟨released, ⟨-, idle⟩ | ⟨-, scan⟩⟩ := release_spec a zs s
  · rw [idle] at released
    exact ⟨s, (Runs.piece (x := .release a zs) idle (Runs.nil s)).mono (by decide), released⟩
  · refine ⟨_, Runs.piece (x := .release a zs) (e := release a zs s) rfl ?_, released⟩
    rw [scan]
    exact runs_scan_blocked (blocked _ released)

/-- A release of zones the arm does not hold. -/
theorem runs_release_nothing {s : State} {a : Arm} {zs : List ZoneId} (free : ∀ z ∈ zs, ∀ w, s.holders.get z ≠ some (a, w)) :
    Runs 1 [.release a zs] s s := by
  obtain ⟨-, ⟨-, idle⟩ | ⟨⟨z, mem, w, held⟩, -⟩⟩ := release_spec a zs s
  · exact Runs.piece (x := .release a zs) idle (Runs.nil s)
  · exact absurd held (free z mem w)

/-- The hand-over counts that the wait of an arm starts: one of 0 for each needed zone with K above 0 that the other arm holds
(R118). -/
def State.freshCounts (s : State) (a : Arm) (needed : List ZoneId) : List Handover :=
  (needed.filter fun z => s.holds a.other z && decide (0 < (s.zones.get z).k)).map fun z => ⟨a.other, z, 0⟩

theorem State.mem_freshCounts {s : State} {a : Arm} {needed : List ZoneId} {h : Handover} : h ∈ s.freshCounts a needed
    ↔ (h.zone ∈ needed ∧ 0 < (s.zones.get h.zone).k ∧ ∃ why, s.holders.get h.zone = some (a.other, why))
      ∧ h.holder = a.other ∧ h.count = 0 := by
  obtain ⟨holder, zone, count⟩ := h
  simp only [State.freshCounts, List.mem_map, List.mem_filter, Bool.and_eq_true, decide_eq_true_eq, holds_iff, Handover.mk.injEq]
  constructor
  · rintro ⟨z, ⟨mem, held, pos⟩, rfl, rfl, rfl⟩
    exact ⟨⟨mem, pos, held⟩, rfl, rfl⟩
  · rintro ⟨⟨mem, pos, held⟩, rfl, rfl⟩
    exact ⟨zone, ⟨mem, held, pos⟩, rfl, rfl, rfl⟩

/-- The last step of a wait that is no deadlock (R118, R121). -/
theorem runs_judge_waits {s : State} {a : Arm} {needed : List ZoneId} (entry : s.entry a = some ⟨a, .segment, needed⟩)
    (apart : s.deadlocked ⟨a, .segment, needed⟩ = false) :
    Runs 1 [.judge a] s { s with handover := s.handover ++ s.freshCounts a needed } := by
  have same : State.deadlocked { s with handover := s.handover ++ s.freshCounts a needed } ⟨a, .segment, needed⟩ = false := apart
  refine Runs.piece (x := .judge a) (e := (_, [])) ?_ (Runs.nil _)
  simp only [perform, judge, entry]
  rw [if_neg (by rw [Bool.not_eq_true]; exact same)]
  rfl

section
variable {s : State} {a : Arm} {h : Segment} {rest : List Segment} {g : Geometry}

/-- The arm WAITING(ZONE) (R82, R112). -/
def State.waits (s : State) (a : Arm) : State := (s.setPhase a (.waiting .zone)).raise a.link .zoneWait

theorem State.waits_shape (s : State) (a : Arm) : s.waits a = { s with
    motion := s.motion.set a { s.motion.get a with phase := .waiting .zone }
    axes := s.axes.set a { s.axes.get a with den := true }
    links := (s.raise a.link .zoneWait).links } := by
  rw [State.waits, State.setPhase_enabled s a (p := .waiting .zone) rfl]
  rfl

theorem request_waits (queue : (s.motion.get a).queue = h :: rest) (geometry : (s.motion.get a).geometry = some g)
    (busy : ¬ ∀ z ∈ g.needed, ∀ b why, s.holders.get z = some (b, why) → b = a ∨ why = .linger) (absent : s.entry a = none) :
    perform (.request a true) s = (s.waits a, [.releaseLoose a, .append a]) := by
  have entry : ((s.setPhase a (.waiting .zone)).raise a.link .zoneWait).entry a = none := absent
  simp only [perform, request, queue, geometry, Bool.eq_false_iff.2 (mt (free_iff s a g.needed).1 busy), entry, Bool.not_true,
    Bool.false_and, Bool.false_eq_true, if_false, if_true, Option.isSome_none]
  rfl

/-- A needed zone held by the other arm for more than LINGER bars the grant. -/
theorem not_grantable {t : State} {needed : List ZoneId} {z : ZoneId} {why : HoldWhy} (mem : z ∈ needed)
    (held : t.holders.get z = some (a.other, why)) (p : Purpose) : t.grantable ⟨a, p, needed⟩ = false := by
  rw [← Bool.not_eq_true, State.grantable, List.all_eq_true]
  intro all
  have := all z mem
  rw [held] at this
  simp [a.other_ne] at this

/-- A head that must wait, while no arm waits: it has the one entry, keeps no loose zone, and its counts start (R108, R112,
R113, R118). -/
theorem runs_wait (queue : (s.motion.get a).queue = h :: rest) (geometry : (s.motion.get a).geometry = some g)
    (busy : ¬ ∀ z ∈ g.needed, ∀ b why, s.holders.get z = some (b, why) → b = a ∨ why = .linger) (unawaited : s.waiters = []) :
    ∃ t, Runs 7 [.request a true] s t ∧ ExceptZones { s.waits a with waiters := [⟨a, .segment, g.needed⟩] } t ∧ NoLoose t a
      ∧ StartsCounts s t a g.needed := by
  obtain ⟨z0, mem0, why0, held0, not_linger0⟩ : ∃ z ∈ g.needed, ∃ why, s.holders.get z = some (a.other, why) ∧ why ≠ .linger := by
    refine Classical.byContradiction fun none_held => ?_
    refine busy fun z mem b why held => ?_
    rcases a.eq_or_other b with own | rfl
    · exact .inl own
    · exact .inr (Classical.byContradiction fun other => none_held ⟨z, mem, why, held, other⟩)
  have acts := request_waits queue geometry busy (by simp only [State.entry, unawaited, List.find?_nil])
  have shape := s.waits_shape a
  generalize s.waits a = v at acts shape
  have v_holders : v.holders = s.holders := by rw [shape]
  have v_waiters : v.waiters = [] := by rw [shape]; exact unawaited
  have v_geometry : (v.motion.get a).geometry = some g := by rw [shape, PerArm.get_set]; exact geometry
  have v_counts : v.handover = s.handover ∧ v.zones = s.zones := by rw [shape]; exact ⟨rfl, rfl⟩
  obtain ⟨x, first, left⟩ := runs_releaseLoose v_waiters a
  have x_motion : x.motion = v.motion := by rw [left.kept]
  have x_waiters : x.waiters = [] := by rw [ExceptZones_waiters left.kept, v_waiters]
  -- the entry joins the list
  let y : State := { x with waiters := [⟨a, .segment, g.needed⟩] }
  have joined : x.appendEntry ⟨a, .segment, g.needed⟩ = y := by
    simp only [State.appendEntry, State.entry, x_waiters, List.find?_nil, Option.isSome_none, Bool.false_eq_true, if_false,
      List.nil_append, y]
  have y_held0 : y.holders.get z0 = some (a.other, why0) := by
    show x.holders.get z0 = _
    rw [left.stays z0 (.inr fun w own => ?_), v_holders, held0]
    rw [v_holders, held0] at own
    exact a.other_ne (congrArg Prod.fst (Option.some.inj own))
  -- what lingers with the other arm and is needed goes
  obtain ⟨u, second, gone⟩ := runs_release_blocked (s := y) (a := a.other)
    (zs := (y.heldFor a.other .linger).filter fun z => g.needed.contains z) (by
      intro t released w mem
      rw [ExceptZones_waiters released.kept] at mem
      obtain rfl := List.mem_singleton.1 mem
      refine not_grantable mem0 (why := why0) ?_ _
      rw [released.stays z0 (.inl fun there => ?_), y_held0]
      have lingers := State.mem_heldFor.1 (List.mem_filter.1 there).1
      rw [y_held0] at lingers
      exact not_linger0 (congrArg Prod.snd (Option.some.inj lingers)))
  have u_waiters : u.waiters = [⟨a, .segment, g.needed⟩] := ExceptZones_waiters gone.kept
  have u_entry : u.entry a = some ⟨a, .segment, g.needed⟩ := by simp [State.entry, u_waiters]
  have u_other : u.entry a.other = none := by simp [State.entry, u_waiters, a.other_ne.symm]
  have third := runs_judge_waits u_entry (by simp only [State.deadlocked, u_other, Option.any_none])
  have appends : Runs 4 [.append a] x { u with handover := u.handover ++ u.freshCounts a g.needed } := by
    refine Runs.piece (x := .append a) (e := (y, [.release a.other ((y.heldFor a.other .linger).filter fun z => g.needed.contains z),
      .judge a])) ?_ (Runs.cons second third)
    simp only [perform, append, x_motion, v_geometry, joined]
  have zones_kept : ExceptZones { v with waiters := [⟨a, .segment, g.needed⟩] }
      { u with handover := u.handover ++ u.freshCounts a g.needed } := by
    have here : ExceptZones { v with waiters := [⟨a, .segment, g.needed⟩] } y := by
      obtain ⟨_, _, _, _, _, shape⟩ := ExceptZones_update left.kept
      simp only [y, shape]
      rfl
    exact ExceptZones_trans here (ExceptZones_trans gone.kept rfl)
  refine ⟨_, Runs.piece (x := .request a true) acts (Runs.cons first appends), zones_kept, ?_, ?_⟩
  · have loose_x := left.noLoose
    intro z r held
    by_cases there : z ∈ (y.heldFor a.other .linger).filter fun z => g.needed.contains z
    · have lingers := State.mem_heldFor.1 (List.mem_filter.1 there).1
      have handed : u.holders.get z = y.handed a.other z := gone.out z .linger there lingers
      have now : y.handed a.other z = some (a, r) := handed.symm.trans held
      unfold State.handed at now
      split at now
      · have reason : _ = r := congrArg Prod.snd (Option.some.inj now)
        rw [← reason]
        constructor <;> split <;> exact nofun
      · cases now
    · exact loose_x z r ((gone.stays z (.inl there)).symm.trans held)
  · have x_zones : x.zones = v.zones := by rw [left.kept]
    have u_zones : u.zones = s.zones := by rw [gone.kept, ← v_counts.2, ← x_zones]
    refine ⟨fun z mem lingers => ?_, fun z ⟨mem, pos, held⟩ => ?_, fun k mem => ?_⟩
    · by_cases there : y.holders.get z = some (a.other, .linger)
      · have handed := gone.out z .linger (List.mem_filter.2 ⟨State.mem_heldFor.2 there, List.contains_iff_mem.2 mem⟩) there
        exact State.handed_ne _ (handed.symm.trans lingers)
      · refine there ((gone.stays z (.inl fun listed => there (State.mem_heldFor.1 (List.mem_filter.1 listed).1))).symm.trans lingers)
    · exact List.mem_append_right _ (State.mem_freshCounts.2 ⟨⟨mem, by rw [u_zones]; exact pos, held⟩, rfl, rfl⟩)
    · rcases List.mem_append.1 mem with old | fresh
      · have in_x := ((gone.handover k).1 old).1
        have in_v := ((left.handover k).1 in_x).1
        exact .inl (by rw [← v_counts.1]; exact in_v)
      · obtain ⟨⟨mem, pos, held⟩, holder, count⟩ := State.mem_freshCounts.1 fresh
        exact .inr ⟨⟨mem, by rw [← u_zones]; exact pos, held⟩, holder, count⟩

/-- Where the other arm waits too and neither arm has a loose zone: the entry joins the list behind that arm's (R113, R114). -/
theorem runs_wait_behind {why : Purpose} {zs : List ZoneId} (queue : (s.motion.get a).queue = h :: rest)
    (geometry : (s.motion.get a).geometry = some g)
    (busy : ¬ ∀ z ∈ g.needed, ∀ b why, s.holders.get z = some (b, why) → b = a ∨ why = .linger)
    (behind : s.waiters = [⟨a.other, why, zs⟩]) (tight : NoLoose s a) (other_tight : NoLoose s a.other) {n : Nat} {t : State}
    (judged : Runs n [.judge a] { s.waits a with waiters := [⟨a.other, why, zs⟩, ⟨a, .segment, g.needed⟩] } t) :
    Runs (n + 4) [.request a true] s t := by
  have acts := request_waits queue geometry busy (by simp [State.entry, behind, a.other_ne])
  have shape := s.waits_shape a
  generalize s.waits a = v at acts shape judged
  have v_holders : v.holders = s.holders := by rw [shape]
  have v_waiters : v.waiters = [⟨a.other, why, zs⟩] := by rw [shape]; exact behind
  have v_geometry : (v.motion.get a).geometry = some g := by rw [shape, PerArm.get_set]; exact geometry
  have first : Runs 1 [.releaseLoose a] v v := by
    obtain ⟨-, ⟨-, idle⟩ | ⟨⟨z, mem, -⟩, -⟩⟩ := release_spec a (v.loose a) v
    · exact Runs.piece (x := .releaseLoose a) idle (Runs.nil v)
    · have loose := State.mem_loose.1 mem
      rw [v_holders] at loose
      rcases loose with held | held
      · exact absurd rfl (tight z _ held).1
      · exact absurd rfl (tight z _ held).2
  let y : State := { v with waiters := [⟨a.other, why, zs⟩, ⟨a, .segment, g.needed⟩] }
  have joined : v.appendEntry ⟨a, .segment, g.needed⟩ = y := by
    simp [State.appendEntry, State.entry, v_waiters, a.other_ne, y]
  have second : Runs 1 [.release a.other ((y.heldFor a.other .linger).filter fun z => g.needed.contains z)] y y :=
    runs_release_nothing fun z mem w held => by
      have lingers := State.mem_heldFor.1 (List.mem_filter.1 mem).1
      have lingers : s.holders.get z = some (a.other, .linger) := by rw [← v_holders]; exact lingers
      exact (other_tight z _ lingers).2 rfl
  have appends : Runs (n + 2) [.append a] v t := by
    refine (Runs.piece (x := .append a) (e := (y, [.release a.other ((y.heldFor a.other .linger).filter fun z => g.needed.contains z),
      .judge a])) ?_ (Runs.cons second judged)).mono (by omega)
    simp only [perform, append, v_geometry, joined]
  exact (Runs.piece (x := .request a true) acts (Runs.cons first appends)).mono (by omega)

/-- A head refused for a deadlock: it ends, the arm is held, and every link is told (R121). -/
def State.refuseHead (s : State) (a : Arm) (h : Segment) (rest : List Segment) : State :=
  (((s.modMotion a fun m => { m with queue := rest, geometry := none }).addResult a h.tag .deadlock).hold a .deadlock).raiseAll .deadlock

theorem State.refuseHead_deferred (s : State) (a : Arm) (h : Segment) (rest : List Segment) :
    (s.refuseHead a h rest).deferred = s.deferred := by
  simp [State.refuseHead, State.raiseAll, State.hold, State.setPhase, State.addResult]

theorem judge_deadlocked {needed : List ZoneId} (entry : s.entry a = some ⟨a, .segment, needed⟩)
    (stuck : s.deadlocked ⟨a, .segment, needed⟩ = true) : perform (.judge a) s
      = (((((State.dropEntry { s with handover := s.handover ++ s.freshCounts a needed } a).endHead a .deadlock).hold a
        .deadlock).raiseAll .deadlock), [.recomputeOwed a]) := by
  simp only [perform, judge, entry]
  exact if_pos stuck

/-- Two heads that wait for each other's zones: the newer entry is refused, its counts end, and the arm is held (R121). -/
theorem runs_judge_deadlock {why : Purpose} {zs : List ZoneId} (queue : (s.motion.get a).queue = h :: rest)
    (prompt : s.deferred.get a = false) {z y : ZoneId} {r w : HoldWhy} (mem : z ∈ g.needed)
    (blocks : s.holders.get z = some (a.other, r)) (wanted : y ∈ zs) (keeps : s.holders.get y = some (a, w)) :
    Runs 2 [.judge a] { s with waiters := [⟨a.other, why, zs⟩, ⟨a, .segment, g.needed⟩] }
      (State.refuseHead { s with
        waiters := [⟨a.other, why, zs⟩], handover := s.handover.filter fun h => decide (h.holder = a) } a h rest) := by
  generalize start : ({ s with waiters := [⟨a.other, why, zs⟩, ⟨a, .segment, g.needed⟩] } : State) = v
  have v_waiters : v.waiters = [⟨a.other, why, zs⟩, ⟨a, .segment, g.needed⟩] := by rw [← start]
  have v_holders : v.holders = s.holders := by rw [← start]
  have entry : v.entry a = some ⟨a, .segment, g.needed⟩ := by simp [State.entry, v_waiters, a.other_ne]
  have other : v.entry a.other = some ⟨a.other, why, zs⟩ := by simp [State.entry, v_waiters]
  have stuck : v.deadlocked ⟨a, .segment, g.needed⟩ = true := by
    simp only [State.deadlocked, other, Option.any_some, State.needsFrom, Bool.and_eq_true, List.any_eq_true, holds_iff, v_holders]
    exact ⟨⟨z, mem, r, blocks⟩, y, wanted, w, keeps⟩
  have drops : State.dropEntry { v with handover := v.handover ++ v.freshCounts a g.needed } a
      = { s with waiters := [⟨a.other, why, zs⟩], handover := s.handover.filter fun h => decide (h.holder = a) } := by
    have counts : (s.handover ++ v.freshCounts a g.needed).filter (fun h => decide (h.holder ≠ a.other))
        = s.handover.filter fun h => decide (h.holder = a) := by
      have none_fresh : (v.freshCounts a g.needed).filter (fun h => decide (h.holder ≠ a.other)) = [] := by
        rw [List.filter_eq_nil_iff]
        intro k fresh
        simp [(State.mem_freshCounts.1 fresh).2.1]
      rw [List.filter_append, none_fresh, List.append_nil]
      refine List.filter_congr fun k _ => ?_
      rcases a.eq_or_other k.holder with own | other
      · simp [own, a.other_ne.symm]
      · simp [other, a.other_ne]
    have entries : v.waiters.filter (fun w => decide (w.arm ≠ a)) = [⟨a.other, why, zs⟩] := by
      simp [v_waiters, a.other_ne]
    have of_start : v.handover = s.handover := by rw [← start]
    rw [State.dropEntry, entries, of_start, counts, ← start]
  have q_queue : ({ s with
      waiters := [⟨a.other, why, zs⟩], handover := s.handover.filter fun h => decide (h.holder = a) } : State).motion.get a
      = s.motion.get a := rfl
  have q_prompt : ({ s with
      waiters := [⟨a.other, why, zs⟩], handover := s.handover.filter fun h => decide (h.holder = a) } : State).deferred.get a
      = false := prompt
  generalize ({ s with
      waiters := [⟨a.other, why, zs⟩], handover := s.handover.filter fun h => decide (h.holder = a) } : State) = q at drops q_queue q_prompt ⊢
  have does : perform (.judge a) v = (q.refuseHead a h rest, [.recomputeOwed a]) := by
    rw [judge_deadlocked entry stuck, drops, endHead_cons (q_queue ▸ queue)]
    rfl
  refine Runs.piece does (Runs.piece (x := .recomputeOwed a) (e := (q.refuseHead a h rest, [])) ?_ (Runs.nil _))
  simp only [perform, recomputeOwed, State.refuseHead_deferred, q_prompt, Bool.false_eq_true, if_false]

end
/-- The refusal of a head that has just begun to wait. -/
theorem refuseHead_waits (s : State) (a : Arm) (h : Segment) (rest : List Segment) (g : Option Geometry) (counts : List Handover) :
    State.refuseHead { (s.modMotion a fun m => { m with geometry := g }).waits a with handover := counts } a h rest
      = { (s.raise a.link .zoneWait).refuseHead a h rest with handover := counts } := by
  simp only [State.refuseHead, State.waits, State.hold, State.setPhase, denOf, AxisUnit.drive_true, State.addResult, State.raiseAll,
    State.raise, State.modLink, State.modMotion, State.modAxes, PerArm.get_set, PerArm.set_set]

/-- Counts of 0 for the needed zones the other arm holds, none of which lingers (R118). -/
theorem startsCounts_of_fresh {s t : State} {a : Arm} {needed : List ZoneId} (other_tight : NoLoose s a.other)
    (holders : t.holders = s.holders) (fresh : t.handover = s.handover ++ s.freshCounts a needed) : StartsCounts s t a needed := by
  refine ⟨fun z _ lingers => ?_, fun z ⟨mem, pos, held⟩ => ?_, fun k mem => ?_⟩
  · rw [holders] at lingers
    exact (other_tight z _ lingers).2 rfl
  · rw [holders] at held
    rw [fresh]
    exact List.mem_append_right _ (State.mem_freshCounts.2 ⟨⟨mem, pos, held⟩, rfl, rfl⟩)
  · rw [fresh] at mem
    rcases List.mem_append.1 mem with old | new
    · exact .inl old
    · obtain ⟨⟨mem, pos, held⟩, holder, count⟩ := State.mem_freshCounts.1 new
      exact .inr ⟨⟨mem, pos, by rw [holders]; exact held⟩, holder, count⟩

theorem modMotion_twice (s : State) (a : Arm) (f g : Motion → Motion) :
    (s.modMotion a f).modMotion a g = s.modMotion a fun m => g (f m) := by
  simp only [State.modMotion, PerArm.get_set, PerArm.set_set]

theorem State.resumed_shape (s : State) (a : Arm) : ∃ links, s.resumed a = { s with
    motion := s.motion.set a { s.motion.get a with phase := .idle }
    axes := s.axes.set a { s.axes.get a with den := true }
    links := links } := by
  rw [State.resumed, State.setPhase_enabled s a (p := .idle) rfl]
  exact ⟨_, rfl⟩

/-- What a grant leaves is about the zones and the axes that are REFERENCED alone. -/
theorem granted_congr {s v t : State} {a : Arm} {needed : List ZoneId} (holders : v.holders = s.holders) (zones : v.zones = s.zones)
    (standing : v.standing = s.standing) (linger : v.linger = s.linger)
    (unref : v.unreferenced a.other = s.unreferenced a.other) (granted : Granted v t a needed) : Granted s t a needed := by
  unfold Granted at *
  rwa [holders, zones, standing, linger, unref] at granted

/-- Settles O42: the head is granted its zones by `runs_grant`, waits by `runs_wait` or `runs_wait_behind`, or is refused by
`runs_judge_deadlock`. -/
theorem headAsksZones : Obligations.HeadAsksZones := by
  intro a h rest target r s taken held unreset queue aims open_step ready g moves outside free_rack open_way c u w wait free
  have motion := s.resumed_motion a
  have pending : ((s.resumed a).motion.get a).resetPending = false := by rw [motion]; exact unreset
  have front : ((s.resumed a).motion.get a).queue = h :: rest := by rw [motion]; exact queue
  have not_home : h.move.kind ≠ .home := by
    cases move : h.move with
    | home i d n => simp [move, Move.target?] at aims
    | _ => simp [Move.kind]
  have same : g = (s.resumed a).formGeometry a h.move target := (s.formGeometry_resumed a h.move target).symm
  have on := evaluate_moves pending front aims open_step ready (same ▸ moves)
  rw [← same] at on
  have asks : perform (.evaluate a) (s.resumed a) = ((s.resumed a).modMotion a fun m => { m with geometry := some g }, [.request a true]) :=
    on.trans (stages_pass (s := s.resumed a) outside free_rack open_way)
  have goes := exec_resume taken held unreset
  obtain ⟨links, shape⟩ := s.resumed_shape a
  have v_shape : ∃ m, (s.resumed a).modMotion a (fun m => { m with geometry := some g }) = { s with
      motion := m, axes := s.axes.set a { s.axes.get a with den := true }, links := links } := by
    rw [shape]
    exact ⟨_, rfl⟩
  have begins : ((s.resumed a).modMotion a fun m => { m with geometry := some g }).begins a h rest (some g)
      = ((u.modMotion a fun m => { m with queue := rest, geometry := none, active := some w }).setPhase a .moving) := by
    have work : ((s.resumed a).modMotion a fun m => { m with geometry := some g }).work a h (some g) = w := s.work_resumed a h (some g)
    rw [State.begins, work, modMotion_twice]
    rfl
  have v_motion : ((s.resumed a).modMotion a fun m => { m with geometry := some g }).motion.get a
      = { s.motion.get a with phase := .idle, geometry := some g } := by
    rw [State.modMotion_motion, PerArm.get_set, motion]
  have waits : ((s.resumed a).modMotion a fun m => { m with geometry := some g }).waits a = wait := rfl
  have refused_as := refuseHead_waits (s.resumed a) a h rest (some g)
  generalize (s.resumed a).modMotion a (fun m => { m with geometry := some g }) = v at asks v_shape begins v_motion waits refused_as
  obtain ⟨m, v_is⟩ := v_shape
  have ends : ∀ {n t}, Runs n [.request a true] v t → n + 1 ≤ cascadeBound → Goes c s t := fun run bound => by
    rw [(Runs.piece asks run).settle bound] at goes
    exact goes
  have v_queue : (v.motion.get a).queue = h :: rest := by rw [v_motion]; exact queue
  have v_geometry : (v.motion.get a).geometry = some g := by rw [v_motion]
  have holders : v.holders = s.holders := by rw [v_is]
  have v_waiters : v.waiters = s.waiters := by rw [v_is]
  have counts : v.handover = s.handover ∧ v.zones = s.zones ∧ v.deferred = s.deferred := by rw [v_is]; exact ⟨rfl, rfl, rfl⟩
  refine ⟨s.formGeometry_spec a h.move target, s.work_spec a h g (by rw [aims]; exact nofun), fun is_free calm => ?_, fun busy unawaited => ?_,
    fun why zs busy behind tight other_tight => ⟨fun apart => ?_, fun ⟨y, wanted, w, keeps⟩ prompt => ?_⟩⟩
  · obtain ⟨t, run, begun, granted, raises⟩ := runs_grant v_queue v_geometry not_home (by rw [holders]; exact is_free)
      (calm.elim (fun unawaited => .inl (v_waiters.trans unawaited)) fun ⟨_, _, _, all⟩ => .inr (by rw [holders]; exact all))
    refine ⟨t, ends run (by decide), begins ▸ begun, granted_congr holders counts.2.1 (by rw [v_is]) (by rw [v_is]) ?_ granted, ?_⟩
    · rw [v_is, State.unreferenced_enabled]
    · unfold RaisesCounts at *
      rwa [counts.1, counts.2.1] at raises
  · obtain ⟨t, run, zones, loose, starts⟩ := runs_wait v_queue v_geometry (by rw [holders]; exact busy) (v_waiters.trans unawaited)
    refine ⟨t, ends run (by decide), waits ▸ zones, loose, ?_⟩
    unfold StartsCounts at *
    rwa [counts.1, counts.2.1] at starts
  · have judged := runs_judge_waits (s := { v.waits a with waiters := [⟨a.other, why, zs⟩, ⟨a, .segment, g.needed⟩] }) (a := a)
      (needed := g.needed) (by simp [State.entry, a.other_ne]) (by
        have none_wanted : (zs.any fun z => v.holds a z) = false := by
          rw [← Bool.not_eq_true, List.any_eq_true]
          rintro ⟨z, mem, holds⟩
          obtain ⟨w, held⟩ := (holds_iff v a z).1 holds
          exact apart z mem w (by rw [← holders]; exact held)
        simp only [State.deadlocked, State.entry, List.find?_cons, decide_true, Option.any_some, State.needsFrom]
        exact Bool.and_eq_false_iff.2 (.inr none_wanted))
    have run := runs_wait_behind v_queue v_geometry (by rw [holders]; exact busy) (v_waiters.trans behind) (fun z w held => tight z w (holders ▸ held))
      (fun z w held => other_tight z w (holders ▸ held)) judged
    refine ⟨_, ends run (by decide), ?_, startsCounts_of_fresh other_tight holders ?_⟩
    · rw [waits]
    · show v.handover ++ State.freshCounts _ a g.needed = _
      rw [counts.1]
      congr 1
      show v.freshCounts a g.needed = _
      simp only [State.freshCounts, State.holds, holders, counts.2.1]
  · obtain ⟨z, mem, r, blocks⟩ : ∃ z ∈ g.needed, ∃ r, s.holders.get z = some (a.other, r) := by
      refine Classical.byContradiction fun none_blocks => ?_
      refine busy fun z mem b r held => ?_
      rcases a.eq_or_other b with own | rfl
      · exact .inl own
      · exact absurd ⟨z, mem, r, held⟩ none_blocks
    have refused := runs_judge_deadlock (s := v.waits a) (a := a) (h := h) (rest := rest) (g := g) (why := why) (zs := zs)
      (by show ((v.waits a).motion.get a).queue = _; rw [State.waits_shape, PerArm.get_set]; exact v_queue)
      (by show (v.waits a).deferred.get a = _; rw [State.waits_shape]; exact (congrArg (·.get a) counts.2.2).trans prompt)
      mem (by rw [State.waits_shape, holders]; exact blocks) wanted (by rw [State.waits_shape, holders]; exact keeps)
    have run := runs_wait_behind v_queue v_geometry (by rw [holders]; exact busy) (v_waiters.trans behind) (fun z w held => tight z w (holders ▸ held))
      (fun z w held => other_tight z w (holders ▸ held)) refused
    have entries : (v.waits a).waiters = [⟨a.other, why, zs⟩] := by rw [State.waits_shape]; exact v_waiters.trans behind
    have before : (v.waits a).handover = s.handover := by rw [State.waits_shape]; exact counts.1
    have goes := ends run (by decide)
    rw [← entries, refused_as, before] at goes
    exact goes

end Sys2Proof.Machine
end
section
/-! PROOFS. The completion of an ARM RESET and the entry into FAULT while no other arm waits and no change acts on it (R68, R95,
R100, R101). -/
namespace Sys2Proof.Machine
open Sys2Proof.Safety

/-- A stop of the arm that its change leaves as it is (R162). -/
theorem runs_armStopped_inert {s : State} {a : Arm} (inert : Inert s a) (e : ArmEvent) : Runs 1 [.armStopped a e] s s := by
  refine Runs.piece (x := .armStopped a e) (e := (s, [])) ?_ (Runs.nil s)
  simp only [perform, armStopped, State.stepOf]
  cases change : s.change.get a with
  | none => rfl
  | some k =>
    rcases inert k change with step | step <;> rw [Option.map_some, step]

/-- What an ARM RESET leaves of an arm once its queue is flushed, but for its zones and link flags (R101). -/
def State.clearArm (s : State) (a : Arm) : State :=
  ((s.modCapture a fun c => { c with latch := none, points := [], seq := 0, notQueued := false }).modMotion a fun m =>
    { m with override := 100, resetPending := false, holdPending := false }).setPhase a .off

/-- R101 steps 3 to 6 of an arm without an entry, while no arm waits. -/
theorem runs_finishReset {s : State} {a : Arm} (unawaited : s.waiters = []) :
    ∃ t, Runs 4 [.finishReset a] s t ∧ NoLoose t a ∧ ExceptZones ((s.clearArm a).modLink a.link LinkState.clearFlags) t := by
  have clear : ((s.clearArm a).stopLinger a).waiters = [] := by simp [State.clearArm, State.setPhase, unawaited]
  have acts : perform (.finishReset a) s = ((s.clearArm a).stopLinger a, [.releaseLoose a, .clearFlags a]) := by
    have withdrawn := withdraw_unawaited clear a .segment
    simp only [State.clearArm] at withdrawn ⊢
    simp only [perform, finishReset, withdrawn, List.nil_append]
  obtain ⟨t, run, released⟩ := runs_releaseLoose clear a
  have flags : Runs 1 [.clearFlags a] t (t.modLink a.link LinkState.clearFlags) :=
    Runs.piece (x := .clearFlags a) (e := (_, [])) rfl (Runs.nil _)
  refine ⟨t.modLink a.link LinkState.clearFlags, Runs.piece acts (Runs.cons run flags), released.noLoose, ?_⟩
  have stopped : ExceptZones (s.clearArm a) ((s.clearArm a).stopLinger a) := rfl
  obtain ⟨_, _, _, _, _, shape⟩ := ExceptZones_update (ExceptZones_trans stopped released.kept)
  rw [shape]
  rfl

/-- What is left where the queue was empty. -/
theorem resetDone_of_empty {s : State} {a : Arm} (empty : (s.motion.get a).queue = []) :
    (((s.modMotion a fun m => { m with results := [], resultCount := 0 }).clearArm a).modLink a.link LinkState.clearFlags)
      = resetDone s a := by
  simp only [State.clearArm, resetDone, State.setPhase, denOf, State.modMotion, State.modAxes, State.modCapture, State.modLink, PerArm.get_set,
    PerArm.set_set, empty, if_true]
  rfl

/-- What is left where a queue was flushed. -/
theorem resetDone_of_queue {s : State} {a : Arm} {h : Segment} {rest : List Segment} (queue : (s.motion.get a).queue = h :: rest) :
    ((((s.cutQueue a h rest).modMotion a fun m => { m with results := [], resultCount := 0 }).clearArm a).modLink a.link
      LinkState.clearFlags) = resetDone s a := by
  simp only [State.clearArm, resetDone, State.cutQueue, State.addResult, State.raise, State.setPhase, denOf, State.modMotion, State.modAxes,
    State.modCapture, State.modLink, PerArm.get_set, PerArm.set_set, PerLink.get_set, PerLink.set_set, queue, reduceCtorEq, if_false]
  rfl

theorem resetDone_unwaited (s : State) (a : Arm) : resetDone (unwaited s) a = unwaited (resetDone s a) := rfl

/-- An arm with a flushed queue is left by an ARM RESET as the arm with its queue is. -/
theorem resetDone_of_flush {s : State} {a : Arm} (alone : Alone s a) : ExceptZones (resetDone (unwaited s) a)
    ((((flush a s).1.modMotion a fun m => { m with results := [], resultCount := 0 }).clearArm a).modLink a.link LinkState.clearFlags) := by
  rw [resetDone_unwaited]
  have unawaited := (flush_alone alone).1
  cases queue : (s.motion.get a).queue with
  | nil =>
    rw [flush_nil queue] at unawaited ⊢
    rw [resetDone_of_empty queue]
    have same : unwaited (resetDone s a) = resetDone s a := unwaited_of_unawaited unawaited
    rw [same]
    rfl
  | cons h rest =>
    have shape : ∃ waiters handover, (flush a s).1 = { s.cutQueue a h rest with waiters := waiters, handover := handover } := by
      by_cases waits : (s.motion.get a).phase = .waiting .zone
      · rw [flush_waiting queue waits]
        unfold withdraw
        split
        · exact ⟨_, _, rfl⟩
        · split <;> exact ⟨_, _, rfl⟩
      · rw [flush_cons queue waits]
        exact ⟨_, _, rfl⟩
    obtain ⟨waiters, handover, shape⟩ := shape
    rw [shape] at unawaited ⊢
    obtain rfl : waiters = [] := unawaited
    rw [← resetDone_of_queue queue]
    rfl

/-- The completion of an ARM RESET, while no other arm waits (R101). -/
theorem runs_completeReset {s : State} {a : Arm} (inert : Inert s a) (alone : Alone s a) :
    ∃ t, Runs 10 [.completeReset a] s t ∧ NoLoose t a ∧ ExceptZones (resetDone (unwaited s) a) t := by
  have clear : ((flush a s).1.modMotion a fun m => { m with results := [], resultCount := 0 }).waiters = [] := (flush_alone alone).1
  obtain ⟨u, flushed, kept⟩ := runs_flush alone clear
  have u_waiters : u.waiters = [] := by rw [ExceptZones_waiters kept, clear]
  have u_inert : Inert u a := by
    obtain ⟨m, links, waiters, handover, shape, -⟩ := flush_shape a s
    have change : u.change = s.change := by
      rw [kept]
      show (flush a s).1.change = s.change
      rw [shape]
    unfold Inert
    rw [change]
    exact inert
  obtain ⟨t, run, loose, done⟩ := runs_finishReset (a := a) u_waiters
  refine ⟨t, (Runs.piece (x := .completeReset a) (e := ((flush a s).1.modMotion a fun m => { m with results := [], resultCount := 0 },
    (flush a s).2 ++ [.armStopped a .reset, .finishReset a])) rfl (Runs.append flushed (Runs.cons (runs_armStopped_inert u_inert .reset) run))).mono
    (by decide), loose, ?_⟩
  have links_too : ∀ x y : State, ExceptZones x y → ExceptZones ((x.clearArm a).modLink a.link LinkState.clearFlags)
      ((y.clearArm a).modLink a.link LinkState.clearFlags) := fun x y kept => by
    obtain ⟨_, _, _, _, _, rfl⟩ := ExceptZones_update kept
    rfl
  exact ExceptZones_trans (resetDone_of_flush alone) (ExceptZones_trans (links_too _ _ kept) done)

/-! ### The entry into FAULT -/

theorem ExceptZones_resetDone {s t : State} (kept : ExceptZones s t) (a : Arm) : ExceptZones (resetDone s a) (resetDone t a) := by
  obtain ⟨_, _, _, _, _, rfl⟩ := ExceptZones_update kept
  rfl

theorem inert_congr {s t : State} {a : Arm} (change : t.change = s.change) (inert : Inert s a) : Inert t a := by
  unfold Inert
  rwa [change]

/-- The active segment, if any, has ended FAULTED (R95). -/
def State.endFaulted (s : State) (a : Arm) : State :=
  match (s.motion.get a).active with
  | some w => (s.modMotion a fun m => { m with active := none }).addResult a w.seg.tag .faulted
  | none => s

theorem State.endFaulted_some {s : State} {a : Arm} {w : Working} (active : (s.motion.get a).active = some w) :
    s.endFaulted a = (s.modMotion a fun m => { m with active := none }).addResult a w.seg.tag .faulted := by
  simp only [endFaulted, active]

theorem State.endFaulted_none {s : State} {a : Arm} (rests : (s.motion.get a).active = none) : s.endFaulted a = s := by
  simp only [endFaulted, rests]

/-- The end of the active segment leaves the queue, the arm's state and the waiter list. -/
theorem State.endFaulted_kept (s : State) (a : Arm) : ((s.endFaulted a).motion.get a).queue = (s.motion.get a).queue
    ∧ ((s.endFaulted a).motion.get a).phase = (s.motion.get a).phase
    ∧ ((s.endFaulted a).motion.get a).resetPending = (s.motion.get a).resetPending
    ∧ ((s.endFaulted a).motion.get a).active = none
    ∧ (s.endFaulted a).waiters = s.waiters ∧ (s.endFaulted a).change = s.change ∧ (s.endFaulted a).holders = s.holders
    ∧ (s.endFaulted a).axes = s.axes := by
  cases active : (s.motion.get a).active with
  | none => rw [endFaulted_none active]; exact ⟨rfl, rfl, rfl, active, rfl, rfl, rfl, rfl⟩
  | some w => rw [endFaulted_some active]; simp [State.addResult]

theorem State.endFaulted_alone {s : State} {a : Arm} (alone : Alone s a) : Alone (s.endFaulted a) a := by
  obtain ⟨queue, phase, -, -, waiters, -⟩ := s.endFaulted_kept a
  unfold Alone
  rwa [queue, phase, waiters]

/-- The arm in FAULT, its queue flushed and its links told (R68, R95). -/
def State.faulted (s : State) (a : Arm) (r : FaultReason) : State :=
  ((((unwaited (flush a (s.endFaulted a)).1).modMotion a fun m => { m with holdPending := false }).setPhase a (.fault r)).raise
    a.link .armFault).raise .S .armFault

theorem enterFault_eq {s : State} {a : Arm} (alone : Alone s a) (r : FaultReason) : enterFault a r s = ((s.faulted a r).stopLinger a,
    (flush a (s.endFaulted a)).2 ++ [.armStopped a .fault] ++ (if (s.motion.get a).active.isSome then [.recompute a] else [])
      ++ [.releaseLoose a] ++ (if (s.motion.get a).resetPending then [.completeReset a] else [])) := by
  have unawaited := unwaited_of_unawaited (flush_alone (State.endFaulted_alone alone)).1
  unfold State.faulted
  rw [unawaited]
  cases active : (s.motion.get a).active with
  | none => simp only [State.endFaulted_none active, enterFault, active]
  | some w => simp only [State.endFaulted_some active, enterFault, active]

/-- What the entry into FAULT keeps of the change, and what it leaves pending. -/
theorem State.faulted_kept (s : State) (a : Arm) (r : FaultReason) : (s.faulted a r).waiters = []
    ∧ (s.faulted a r).change = s.change ∧ ((s.faulted a r).motion.get a).queue = []
    ∧ ((s.faulted a r).motion.get a).phase = .fault r
    ∧ ((s.faulted a r).motion.get a).resetPending = (s.motion.get a).resetPending := by
  obtain ⟨-, -, reset, -, -, change, -⟩ := s.endFaulted_kept a
  obtain ⟨m, links, waiters, handover, shape, fields⟩ := flush_shape a (s.endFaulted a)
  have m_fields : m.queue = [] ∧ m.resetPending = (s.motion.get a).resetPending := by
    rw [fields]; exact ⟨rfl, reset⟩
  obtain ⟨queue, pending⟩ := m_fields
  rw [faulted, shape]
  refine ⟨?_, ?_, ?_, ?_, ?_⟩ <;> simp [unwaited, State.setPhase, change, queue, pending]

/-- The entry into FAULT with what it sets off, while no other arm waits: no loose zone stays, and a pending ARM RESET
completes (R68, R95, R100). -/
theorem settle_enterFault {s : State} {a : Arm} {r : FaultReason} {ts : List Task} (inert : Inert s a) (alone : Alone s a)
    (before : ∀ v : State, v.waiters = [] → ∃ v', Runs 4 ts v v' ∧ ExceptZones v v') :
    NoLoose (settle ((enterFault a r s).1, ts ++ (enterFault a r s).2)) a
    ∧ ExceptZones (if (s.motion.get a).resetPending = true then resetDone (s.faulted a r) a else s.faulted a r)
        (settle ((enterFault a r s).1, ts ++ (enterFault a r s).2)) := by
  obtain ⟨waiters, change, -, -, pending⟩ := s.faulted_kept a r
  have clear : ((s.faulted a r).stopLinger a).waiters = [] := waiters
  obtain ⟨u0, run0, kept0⟩ := before _ clear
  have clear0 : u0.waiters = [] := by rw [ExceptZones_waiters kept0, clear]
  obtain ⟨u1, run1, kept1⟩ := runs_flush (State.endFaulted_alone alone) clear0
  have clear1 : u1.waiters = [] := by rw [ExceptZones_waiters kept1, clear0]
  have kept01 : ExceptZones (s.faulted a r) u1 := ExceptZones_trans (t := (s.faulted a r).stopLinger a) rfl (ExceptZones_trans kept0 kept1)
  have inert1 : Inert u1 a := inert_congr (by rw [kept01, change]) inert
  have stopped := runs_armStopped_inert inert1 .fault
  obtain ⟨u2, run2, kept2⟩ : ∃ u2, Runs 4 (if (s.motion.get a).active.isSome then [.recompute a] else []) u1 u2 ∧ ExceptZones u1 u2 := by
    split
    · exact Runs.of_contained (recompute_contained a) clear1
    · exact ⟨u1, (Runs.nil u1).mono (by decide), rfl⟩
  have clear2 : u2.waiters = [] := by rw [ExceptZones_waiters kept2, clear1]
  obtain ⟨u3, run3, released⟩ := runs_releaseLoose clear2 a
  have kept3 : ExceptZones (s.faulted a r) u3 := ExceptZones_trans kept01 (ExceptZones_trans kept2 released.kept)
  have run := (((run0.append run1).append stopped).append run2).append run3
  have steps : (enterFault a r s).1 = (s.faulted a r).stopLinger a ∧ ts ++ (enterFault a r s).2
      = ((((ts ++ (flush a (s.endFaulted a)).2) ++ [.armStopped a .fault]) ++ (if (s.motion.get a).active.isSome then [.recompute a] else []))
        ++ [.releaseLoose a]) ++ (if (s.motion.get a).resetPending then [.completeReset a] else []) := by
    rw [enterFault_eq alone]
    exact ⟨rfl, by simp only [List.append_assoc]⟩
  rw [steps.1, steps.2]
  by_cases resets : (s.motion.get a).resetPending = true
  · obtain ⟨t, run4, loose, done⟩ := runs_completeReset (s := u3) (a := a) (inert_congr (by rw [kept3, change]) inert)
      (.inl (by rw [ExceptZones_waiters kept3, waiters]))
    rw [if_pos resets, if_pos resets, (run.append run4).settle (by decide)]
    rw [unwaited_of_unawaited (by rw [ExceptZones_waiters kept3, waiters])] at done
    exact ⟨loose, ExceptZones_trans (ExceptZones_resetDone kept3 a) done⟩
  · rw [if_neg resets, if_neg resets, List.append_nil, run.settle (by decide)]
    exact ⟨released.noLoose, kept3⟩

end Sys2Proof.Machine
end
section
/-! PROOFS. A setpoint expiry of a READY part (R44, R61, R67, R85 to R88). -/
namespace Sys2Proof.Machine
open Sys2Proof.Safety

/-- The report of a fault found at an expiry is that of the state before it. -/
theorem State.expired_armReport (s : State) (k : FaultKind) (a : Arm) : (s.expired a).armReport k a = s.armReport k a := by
  cases a <;> rfl

theorem setpointExpiry_strays {s : State} {a : Arm} (ready : s.startup = .ready) (den : (s.axes.get a).den = true)
    (strays : (s.axes.get a).strays (s.cal.get a).followingLimit = true) :
    setpointExpiry a s = enterFault a .following ((s.expired a).report (s.armReport .following a)) := by
  rw [← s.expired_armReport]
  simp only [setpointExpiry, (ready_iff s).2 ready, den, strays, Bool.not_true, Bool.false_eq_true, if_false, if_true]
  rfl

/-- The following check fails where an axis that is not skipped is off by more than the limit (R59, R67). -/
theorem AxisUnit.strays_iff (u : AxisUnit) (limit : Nat) : u.strays limit = true ↔ ∃ i, (u.axis.get i).skip = false
    ∧ limit < (wrap32 ((u.axis.get i).count - (u.axis.get i).lastSent)).natAbs := by
  simp only [strays, PerAxis.any_iff, Bool.and_eq_true, Bool.not_eq_true', decide_eq_true_eq]
  rfl

/-- The step of a segment in its stop ramp (R87, R88). -/
theorem motionStep_stopping {s : State} {a : Arm} {w : Working} {o : Outcome} (active : (s.motion.get a).active = some w)
    (status : w.status = .stopping o) : s.motionStep a
      = ((w.step (w.rampVelocity (s.cal.get a).aStop)).setpoints, some (w.step (w.rampVelocity (s.cal.get a).aStop)),
         if w.rampVelocity (s.cal.get a).aStop = 0 then some o else none) := by
  simp only [State.motionStep, active, status]
  rfl

/-- An enabled arm that rests repeats its standing setpoints (R61). -/
theorem expiryStep_rests {s : State} {a : Arm} (rests : (s.motion.get a).active = none) :
    expiryStep a s = (s.modAxes a (·.sendSetpoints (s.axes.get a).standing), []) := by
  have step : s.motionStep a = ((s.axes.get a).standing, none, none) := by simp only [State.motionStep, rests]
  have same : (s.modMotion a fun m => { m with active := none }) = s := by
    show { s with motion := s.motion.set a { s.motion.get a with active := none } } = s
    rw [← rests]
    show { s with motion := s.motion.set a (s.motion.get a) } = s
    rw [PerArm.set_get]
  rw [expiryStep_none (by rw [step]), step, same]

/-- What a FAULT or an ARM RESET completed from it leaves of an arm that rests with an empty queue (R68). -/
theorem State.faulted_of_empty {s : State} {a : Arm} (rests : (s.motion.get a).active = none)
    (empty : (s.motion.get a).queue = []) (unawaited : s.waiters = []) (r : FaultReason) : s.faulted a r
      = ((((s.modMotion a fun m => { m with holdPending := false }).setPhase a (.fault r)).raise a.link .armFault).raise .S
          .armFault) := by
  rw [faulted, endFaulted_none rests, flush_nil empty, unwaited_of_unawaited unawaited]

/-- The same of an arm whose active segment ends FAULTED (R95). -/
theorem State.faulted_of_active {s : State} {a : Arm} {w : Working} (active : (s.motion.get a).active = some w)
    (unawaited : s.waiters = []) (r : FaultReason) : s.faulted a r
      = (((((flush a ((s.modMotion a fun m => { m with active := none }).addResult a w.seg.tag .faulted)).1.modMotion a fun m =>
          { m with holdPending := false }).setPhase a (.fault r)).raise a.link .armFault).raise .S .armFault) := by
  have clear : (flush a (s.endFaulted a)).1.waiters = [] :=
    (flush_alone (State.endFaulted_alone (.inl unawaited))).1
  rw [faulted, unwaited_of_unawaited clear, endFaulted_some active]

end Sys2Proof.Machine

namespace Sys2Proof
open Machine Safety

/-- Settles O35: an expiry is `setpointExpiry_disabled`, a step whose frame is that of `motionStep`, or the entry into FAULT
that `settle_enterFault` brings to its end. -/
theorem setpointExpiry : Obligations.SetpointExpiry := by
  intro a s ready u m on strays sent left
  have goes {e : Eff} {t : State} (does : Machine.setpointExpiry a s = e) (ends : settle e = t) : Goes (.setpointExpiry a) s t :=
    congrArg Host.Outcome.next ((congrArg settle does).trans ends)
  have passes : ¬ strays → u.strays (s.cal.get a).followingLimit = false := fun none =>
    Bool.eq_false_iff.2 fun strays => none ((AxisUnit.strays_iff _ _).1 strays)
  let x := (s.expired a).report (s.armReport .following a)
  have motion : x.motion = s.motion := by simp [x, State.expired]
  have change : x.change = s.change := by simp [x, State.expired]
  have waiters : x.waiters = s.waiters := by simp [x, State.expired]
  have fault (stray : strays) (den : u.den = true) (inert : Inert s a) (unawaited : s.waiters = []) :
      ∃ t, Goes (.setpointExpiry a) s t ∧ NoLoose t a ∧ ExceptZones (left (x.faulted a .following)) t := by
    obtain ⟨loose, kept⟩ := settle_enterFault (s := x) (r := .following) (ts := []) (inert_congr change inert)
      (.inl (waiters.trans unawaited)) fun v _ => ⟨v, (Runs.nil v).mono (by decide), rfl⟩
    rw [motion] at kept
    exact ⟨_, goes (setpointExpiry_strays ready den ((AxisUnit.strays_iff _ _).2 stray)) rfl, loose, kept⟩
  refine ⟨fun den => goes (setpointExpiry_disabled ready den) (settle_nil _), fun den calm rests => ?_,
    fun w den calm active status => ?_, fun w o den calm active status => ?_,
    fun den stray unchanged rests empty unawaited => ?_, fun w den stray inert active unawaited => ?_⟩
  · refine goes ((setpointExpiry_passed ready den (passes calm)).trans (expiryStep_rests (s := s.expired a) rests)) ?_
    rw [settle_nil]
    cases a <;> rfl
  · intro v w' goes_on
    have step := motionStep_active (s := s.expired a) active status
    refine goes ((setpointExpiry_passed ready den (passes calm)).trans (expiryStep_none ?_)) ?_
    · rw [step]; exact if_neg goes_on
    · rw [step, settle_nil]; rfl
  · intro v w' goes_on
    have step := motionStep_stopping (s := s.expired a) active status
    refine goes ((setpointExpiry_passed ready den (passes calm)).trans (expiryStep_none ?_)) ?_
    · rw [step]; exact if_neg goes_on
    · rw [step, settle_nil]; rfl
  · obtain ⟨t, run, loose, kept⟩ := fault stray den (fun k change => absurd (unchanged.symm.trans change) nofun) unawaited
    rw [State.faulted_of_empty (by rw [motion]; exact rests) (by rw [motion]; exact empty) (waiters.trans unawaited)] at kept
    exact ⟨t, run, loose, kept⟩
  · obtain ⟨t, run, loose, kept⟩ := fault stray den inert unawaited
    rw [State.faulted_of_active (w := w) (by rw [motion]; exact active) (waiters.trans unawaited)] at kept
    exact ⟨t, run, loose, kept⟩

end Sys2Proof
end
section
/-! PROOFS. ENABLE of an OFF arm with an active segment left (R64, R109). -/
namespace Sys2Proof.Machine
open Sys2Proof.Safety

/-- A working record that needs zone 0. -/
def strandedSegment : Working :=
  { seg := ⟨0, 0, .home .X .rising 0⟩, geometry := some ⟨.all 0, .all 0, .all 0, 0, ⟨.all 0, .all 0⟩, [0]⟩, d := .all 0, len := 0,
    epoch := 0, strain := .all 0, rawStart := .all 0, rawEnd := .all 0, vFeed := 0, p := 0, v := 0, status := .active }

/-- Both arms OFF and referenced, arm A with an active segment, as no run leaves it: the segment needs the SHARED zone 0, which
the arm holds for STANDING and which its standing box does not meet. -/
def stranded : State :=
  { State.reset with
    startup := .ready
    loading := none
    links := State.reset.links.set .A { State.reset.links.get .A with phase := .idle }
    axes := State.reset.axes.map fun u => { u with axis := u.axis.map fun x => { x with referenced := true } }
    motion := State.reset.motion.set .A { State.reset.motion.get .A with active := some strandedSegment }
    zones := Table.put State.reset.zones 0 { kind := .shared, box := ⟨.all 50000000, .all 50000000⟩, k := 0 }
    holders := Table.put State.reset.holders 0 (some (.A, .standing)) }

/-- The holder of a zone after a command. -/
def holderAfter (c : Instr) (s : State) (z : ZoneId) : Option (Arm × HoldWhy) :=
  match exec c s with
  | .next t => t.holders.get z
  | _ => none

theorem holderAfter_of_goes {c : Instr} {s t : State} (goes : Goes c s t) (z : ZoneId) : holderAfter c s z = t.holders.get z := by
  rw [holderAfter, show exec c s = .next t from goes]

/-- The recompute of ENABLE leaves the zone for SEGMENT, since the active segment needs it (R115; log 15). -/
theorem stranded_keeps_segment : holderAfter (.enable .A) stranded 0 = some (.A, .segment) := by decide

/-- Refutes O34: nothing asks that an OFF arm has no active segment, and in `stranded` the zone that the segment needs stays
held for SEGMENT after ENABLE, where the arm's rest would make it LINGER. -/
theorem not_enableDisable : ¬ Obligations.EnableDisable := by
  intro holds
  obtain ⟨enables, -⟩ := holds .A stranded
  obtain ⟨-, accepted⟩ := enables (.inl (.inl rfl))
  obtain ⟨t, goes, -, -, -, rests⟩ := accepted rfl rfl rfl rfl rfl
  have loose : NoLoose stranded .A := by
    have none_loose : ∀ z, stranded.holders.get z ≠ some (.A, .segment) ∧ stranded.holders.get z ≠ some (.A, .linger) := by decide
    intro z w held
    exact ⟨fun segment => (none_loose z).1 (segment ▸ held), fun linger => (none_loose z).2 (linger ▸ held)⟩
  obtain ⟨-, new, -, zones, -⟩ := rests loose
  have held : t.holders.get 0 = some (.A, .segment) := (holderAfter_of_goes goes 0).symm.trans stranded_keeps_segment
  obtain ⟨-, -, -, outside⟩ := zones 0 rfl
  have lingers := outside .standing rfl (by decide) (by decide)
  rw [held] at lingers
  exact absurd lingers (by decide)

end Sys2Proof.Machine
end
section
/-! PROOFS. READ POINTS: the bytes of a record (R202), and the records that leave the queue (R179). -/
namespace Sys2Proof.Machine
open Sys2Proof.Safety

/-! ### The bytes of a record -/

/-- The number whose bits are a list, the least significant first. -/
def bitsValue : List Bool → Nat
  | [] => 0
  | b :: bs => b.toNat + 2 * bitsValue bs

theorem bitsValue_lt (bs : List Bool) : bitsValue bs < 2 ^ bs.length := by
  induction bs with
  | nil => decide
  | cons b bs ih =>
    have := Bool.toNat_le b
    rw [bitsValue, List.length_cons, Nat.pow_succ]
    omega

theorem testBit_bitsValue (bs : List Bool) : ∀ k, (bitsValue bs).testBit k = bs.getD k false := by
  induction bs with
  | nil => simp [bitsValue]
  | cons b bs ih =>
    intro k
    have half : (b.toNat + 2 * bitsValue bs) / 2 = bitsValue bs := by
      have := Bool.toNat_le b
      cases b <;> simp only [Bool.toNat_true, Bool.toNat_false] <;> omega
    cases k with
    | zero => cases b <;> simp [bitsValue, Nat.testBit_zero, Nat.add_mod]
    | succ k => rw [bitsValue, Nat.testBit_succ, half, ih, List.getD_cons_succ]

theorem PointFlags.value_eq (f : PointFlags) : f.value = bitsValue [f.unqualified, f.qualStale, f.thermStale, f.wpFromAir, f.wpHeld,
    f.gradient, f.noDirection, f.clamped, f.uncalibrated, f.noProbe] := by
  have weigh : ∀ (b : Bool) (k : Nat), (if b then 2 ^ k else 0) = b.toNat * 2 ^ k := fun b k => by cases b <;> simp
  simp only [PointFlags.value, weigh, bitsValue]
  omega

theorem PointFlags.value_lt (f : PointFlags) : f.value < 1024 := by
  rw [f.value_eq]
  exact Nat.lt_of_lt_of_eq (bitsValue_lt _) (by simp)

/-- The presence bits of a record (R202). -/
def Point.presence (p : Point) : Nat :=
  bitsValue [decide (p.kind = .contact), p.tag.isSome, p.probe.isSome, p.generation.isSome]

theorem Point.presence_lt (p : Point) : p.presence < 16 := bitsValue_lt _

/-- The bytes of a row of fields, each a width and a value. -/
def rowBytes (fs : List (Nat × Nat)) : List Byte := fs.flatMap fun f => bytesLE f.1 f.2

/-- Each field of a row, at the place where the fields before it end. -/
theorem field_rowBytes (pre : List (Nat × Nat)) (w v : Nat) (post : List (Nat × Nat)) :
    field (rowBytes (pre ++ (w, v) :: post)) (pre.map (·.1)).sum w = v % 256 ^ w := by
  have length : (rowBytes pre).length = (pre.map (·.1)).sum := by
    induction pre with
    | nil => rfl
    | cons f fs ih => simp [rowBytes, bytesLE_length]
  rw [rowBytes, List.flatMap_append, List.flatMap_cons]
  exact field_bytesLE_at w v length

/-- The fields of a record (R202). -/
def Point.row (p : Point) : List (Nat × Nat) :=
  [(2, p.seq), (1, p.presence), (1, (p.probe.map (·.val)).getD 0), (2, p.flags.value), (2, p.tag.getD 0), (2, p.generation.getD 0),
    (2, p.epoch), (4, (p.q.x % 4294967296).toNat), (4, (p.q.y % 4294967296).toNat), (4, (p.q.z % 4294967296).toNat)]

theorem Point.presence_eq (p : Point) : p.presence = (if p.kind = .contact then 1 else 0) + (if p.tag.isSome then 2 else 0)
    + (if p.probe.isSome then 4 else 0) + (if p.generation.isSome then 8 else 0) := by
  have weigh : ∀ (b : Bool) (k : Nat), (if b then k else 0) = b.toNat * k := fun b k => by cases b <;> simp
  have contact : (if p.kind = .contact then 1 else 0) = (decide (p.kind = .contact)).toNat := by cases p.kind <;> rfl
  simp only [weigh, contact, Point.presence, bitsValue]
  omega

theorem Point.bytes_eq (p : Point) : p.bytes = rowBytes p.row := by
  simp only [rowBytes, Point.row, List.flatMap_cons, List.flatMap_nil, List.append_nil, p.presence_eq]
  cases kind : p.kind <;> simp only [Point.bytes, kind, bytesS32, List.append_assoc, reduceCtorEq, if_true, if_false]

/-- One field of a record, by the fields before it. -/
theorem Point.field_bytes (p : Point) {i w v : Nat} (pre post : List (Nat × Nat)) (row : p.row = pre ++ (w, v) :: post)
    (place : (pre.map (·.1)).sum = i) : field p.bytes i w = v % 256 ^ w := by
  rw [p.bytes_eq, row, ← place]
  exact field_rowBytes pre w v post

theorem field_split (bs : List Byte) (i : Nat) : field bs i 2 = field bs i 1 + 256 * field bs (i + 1) 1 := rfl

/-- The bytes of a record are those R202 lays out. -/
theorem Point.bytes_spec (p : Point) : RecordBytes p p.bytes := by
  have slot_lt : (p.probe.map (·.val)).getD 0 < 256 := by
    cases p.probe with
    | none => decide
    | some n => exact Nat.lt_trans n.isLt (by decide)
  have kinds : field p.bytes 2 1 = p.presence :=
    (p.field_bytes (p.row.take 1) (p.row.drop 2) rfl rfl).trans (Nat.mod_eq_of_lt (Nat.lt_trans p.presence_lt (by decide)))
  have slot : field p.bytes 3 1 = (p.probe.map (·.val)).getD 0 :=
    (p.field_bytes (p.row.take 2) (p.row.drop 3) rfl rfl).trans (Nat.mod_eq_of_lt slot_lt)
  have flags : field p.bytes 4 2 = p.flags.value :=
    (p.field_bytes (p.row.take 3) (p.row.drop 4) rfl rfl).trans (Nat.mod_eq_of_lt (Nat.lt_trans p.flags.value_lt (by decide)))
  have bit : ∀ k < 4, (field p.bytes 2 2).testBit k
      = [decide (p.kind = .contact), p.tag.isSome, p.probe.isSome, p.generation.isSome].getD k false := by
    intro k small
    rw [field_split, kinds, Nat.add_comm, show (256 : Nat) = 2 ^ 8 from rfl, Nat.testBit_two_pow_mul_add _ (Nat.lt_trans p.presence_lt (by decide)),
      if_pos (by omega)]
    exact testBit_bitsValue _ k
  have flag : ∀ k, (field p.bytes 4 2).testBit k = [p.flags.unqualified, p.flags.qualStale, p.flags.thermStale, p.flags.wpFromAir,
      p.flags.wpHeld, p.flags.gradient, p.flags.noDirection, p.flags.clamped, p.flags.uncalibrated, p.flags.noProbe].getD k false := by
    intro k
    rw [flags, p.flags.value_eq, testBit_bitsValue]
  have some_iff : ∀ {α : Type} {x : Option α}, x.isSome = true ↔ x ≠ none := Option.isSome_iff_ne_none
  have coordinate : ∀ {i : Nat} {v : Int}, field p.bytes i 4 = (v % 4294967296).toNat % 256 ^ 4 →
      (field p.bytes i 4 : Int) = v % 4294967296 := fun is => by omega
  have length : p.bytes.length = 24 := by rw [p.bytes_eq]; simp [rowBytes, Point.row, bytesLE_length]
  refine ⟨length, p.field_bytes (p.row.take 0) (p.row.drop 1) rfl rfl, kinds ▸ p.presence_lt,
    (Bool.eq_iff_iff.1 (bit 0 (by decide))).trans decide_eq_true_iff, (Bool.eq_iff_iff.1 (bit 1 (by decide))).trans some_iff,
    (Bool.eq_iff_iff.1 (bit 2 (by decide))).trans some_iff, (Bool.eq_iff_iff.1 (bit 3 (by decide))).trans some_iff, slot,
    flags ▸ p.flags.value_lt, flag 0, flag 1, flag 2, flag 3, flag 4, flag 5, flag 6, flag 7, flag 8, flag 9,
    p.field_bytes (p.row.take 4) (p.row.drop 5) rfl rfl, p.field_bytes (p.row.take 5) (p.row.drop 6) rfl rfl,
    p.field_bytes (p.row.take 6) (p.row.drop 7) rfl rfl, coordinate (p.field_bytes (p.row.take 7) (p.row.drop 8) rfl rfl),
    coordinate (p.field_bytes (p.row.take 8) (p.row.drop 9) rfl rfl), coordinate (p.field_bytes (p.row.take 9) (p.row.drop 10) rfl rfl)⟩

/-! ### The records taken -/

theorem linkCheck_readPoints (a : Arm) : linkCheck a.link (.readPoints a.link) = none := by cases a <;> rfl

/-- The state of an accepted READ POINTS, before a head is evaluated again (R179). -/
def State.pointsTaken (s : State) (a : Arm) : State :=
  answered (s.modCapture a fun k => { k with points := (s.capture.get a).points.drop 6, notQueued := false }) a.link .ok
    (.points (s.capture.get a).notQueued ((s.capture.get a).points.drop 6).length ((s.capture.get a).points.take 6))

theorem exec_readPoints {s : State} {a : Arm} (taken : Takes s a.link (.readPoints a.link)) : Goes (.readPoints a.link) s
    (settle (freeSpace a ((s.capture.get a).points.take 6).length (s.pointsTaken a))) := by
  refine congrArg Host.Outcome.next (serve_goes (fun u => settle (freeSpace a ((s.capture.get a).points.take 6).length u)) taken
    (linkCheck_readPoints a)
    (u := s.modCapture a fun k => { k with points := (s.capture.get a).points.drop 6, notQueued := false }) rfl fun g => ?_)
  rw [ownArm_link]
  rfl

/-- Settles O57: the records are the first six; a head that waits for points goes through its stages and is granted its zones
by `runs_grant`. -/
theorem pointsRead : Obligations.PointsRead := by
  intro a s taken c m k
  have goes := exec_readPoints taken
  refine ⟨k.points.take 6, k.points.drop 6, (List.take_append_drop 6 _).symm, List.length_take, ⟨fun still => ?_, ?_⟩,
    Point.bytes_spec, _, rfl⟩
  · have nothing : freeSpace a (k.points.take 6).length (s.pointsTaken a) = (s.pointsTaken a, []) := by
      have quiet : (decide (1 ≤ (k.points.take 6).length) && decide (((s.pointsTaken a).motion.get a).phase = .waiting .points)) = false := by
        rw [← Bool.not_eq_true, Bool.and_eq_true, decide_eq_true_eq, decide_eq_true_eq]
        rintro ⟨some_record, waits⟩
        rcases still with other | empty
        · exact other waits
        · rw [empty] at some_record
          exact absurd some_record (by decide)
      simp only [freeSpace, quiet, Bool.false_eq_true, if_false]
    rwa [nothing] at goes
  · intro h rest target past waits records unreset queue aims trig room g moves outside free_rack open_way free unawaited
    have again : freeSpace a (k.points.take 6).length (s.pointsTaken a) = (s.pointsTaken a, [.evaluate a]) := by
      have some_record : 1 ≤ (k.points.take 6).length := List.length_pos_iff.2 records
      have waits : ((s.pointsTaken a).motion.get a).phase = .waiting .points := waits
      simp only [freeSpace, some_record, waits, decide_true, Bool.and_self, if_true]
    rw [again] at goes
    have probe : h.move.kind = .probe := by rw [aims]; rfl
    have ready : ((s.pointsTaken a).capture.get a).trig = false ∧ ((s.pointsTaken a).capture.get a).points.length < 32 := by
      have capture : (s.pointsTaken a).capture.get a = { k with points := k.points.drop 6, notQueued := false } := PerArm.get_set _ _ _
      rw [capture]
      exact ⟨trig, room⟩
    have on := evaluate_moves (s := s.pointsTaken a) (target := target) unreset queue (by rw [aims]; rfl)
      (fun rack => absurd (rack.symm.trans probe) nofun) (fun _ => ready) moves
    have asks : perform (.evaluate a) (s.pointsTaken a)
        = ((s.pointsTaken a).modMotion a fun m => { m with geometry := some g }, [.request a true]) :=
      on.trans (stages_pass (s := s.pointsTaken a) outside (.inr free_rack) open_way)
    have front : (((s.pointsTaken a).modMotion a fun m => { m with geometry := some g }).motion.get a)
        = { m with geometry := some g } := PerArm.get_set _ _ _
    have begins : ((s.pointsTaken a).modMotion a fun m => { m with geometry := some g }).begins a h rest (some g)
        = ((s.pointsTaken a).modMotion a fun m => { m with queue := rest, geometry := none, active := some (s.work a h (some g)) }).setPhase a
            .moving := by
      have work : ((s.pointsTaken a).modMotion a fun m => { m with geometry := some g }).work a h (some g) = s.work a h (some g) := rfl
      rw [State.begins, work, modMotion_twice]
    have fields : ∃ v, v = (s.pointsTaken a).modMotion a (fun m => { m with geometry := some g }) ∧ v.holders = s.holders
        ∧ v.zones = s.zones ∧ v.standing = s.standing ∧ v.linger = s.linger ∧ v.unreferenced a.other = s.unreferenced a.other
        ∧ v.waiters = s.waiters := ⟨_, rfl, rfl, rfl, rfl, rfl, rfl, rfl⟩
    obtain ⟨v, v_is, holders, zones, standing, linger, unref, waiters⟩ := fields
    rw [← v_is] at asks front begins
    obtain ⟨t, run, begun, granted, -⟩ := runs_grant (s := v) (h := h) (rest := rest) (g := g) (by rw [front]; exact queue) (by rw [front])
      (by rw [probe]; exact nofun) (by rw [holders]; exact free) (.inl (waiters.trans unawaited))
    rw [(Runs.piece asks run).settle (by decide)] at goes
    rw [begins] at begun
    exact ⟨t, goes, begun, granted_congr holders zones standing linger unref granted⟩

end Sys2Proof.Machine
end
section
/-! PROOFS. WRITE CALIBRATION, WRITE ZONE and WRITE SETTINGS (R13, R104, R209), with the recomputes the first two make. -/
namespace Sys2Proof.Machine
open Sys2Proof.Safety

/-! ### A standing recompute brought to its end -/

theorem State.deemed_ne_segment (s : State) (a : Arm) : s.deemed a ≠ .segment := by
  unfold State.deemed
  split <;> decide

theorem State.deemed_ne_linger (s : State) (a : Arm) : s.deemed a ≠ .linger := by
  unfold State.deemed
  split <;> decide

/-- A recompute holds a zone for SEGMENT only where the arm did, or where its segment needs it (R109, R115). -/
theorem Reformed.no_segment {a : Arm} {s r : State} (reformed : Reformed a [] s r) (free : ∀ z, s.holders.get z ≠ some (a, .segment))
    (z : ZoneId) : r.holders.get z ≠ some (a, .segment) := by
  have own : ∀ w, w ≠ HoldWhy.segment → some (a, w) ≠ some (a, .segment) := fun w other same =>
    other (congrArg Prod.snd (Option.some.inj same))
  by_cases kind : (s.zones.get z).kind = .shared
  case neg =>
    rw [reformed.unshared z kind]
    exact free z
  cases before : s.holders.get z with
  | none =>
    rw [reformed.free z kind before]
    split
    · exact own _ (s.deemed_ne_segment a)
    · simp
  | some h =>
    obtain ⟨b, w⟩ := h
    rcases a.eq_or_other b with rfl | rfl
    · have not_segment : w ≠ .segment := fun same => free z (by rw [before, same])
      by_cases mem : z ∈ s.standingSet b
      · rw [reformed.inside z w kind before mem]
        split
        · exact own _ (s.deemed_ne_segment b)
        · exact own _ (by decide)
      · by_cases tight : w = .standing ∨ w = .claim
        · rw [reformed.outside z w kind before mem tight]
          split
          · exact own _ (by simp)
          · exact own _ not_segment
        · rw [reformed.loose z w before mem (not_or.1 tight).1 (not_or.1 tight).2]
          exact own _ not_segment
    · rw [reformed.others z w before]
      simp [a.other_ne]

/-- A recompute of an enabled arm without an active segment (R109, R116). -/
theorem settle_recompute_enabled {s : State} {a : Arm} (loaded : s.startup ≠ .loading) (unawaited : s.waiters = [])
    (enabled : denOf (s.motion.get a).phase = true) (inactive : (s.motion.get a).active = none)
    (no_segment : ∀ z, s.holders.get z ≠ some (a, .segment)) : Rests s (settle (s, [.recompute a])) a := by
  have none_needed : s.activeNeeds a = [] := by simp only [State.activeNeeds, inactive]
  obtain ⟨t, run, -, lingered⟩ := runs_recompute_enabled (x := .recompute a) (needed := []) (by rw [perform, none_needed]) loaded unawaited
    enabled
  have reformed := recomputeCore_reformed a [] s
  rw [run.settle (by decide)]
  exact rests_of_loosened reformed enabled (lingered.loosened (reformed.no_segment no_segment))

theorem PerArm.ext_get {α : Type} {u v : PerArm α} (same : ∀ a, u.get a = v.get a) : u = v := by
  cases u
  cases v
  exact PerArm.mk.injEq .. ▸ ⟨same .A, same .B⟩

/-- A recompute leaves the standing set that the arm's position gives (R109). -/
theorem settle_recompute_standing {s : State} {a : Arm} (loaded : s.startup ≠ .loading) (unawaited : s.waiters = []) :
    (settle (s, [.recompute a])).standing = s.standing.set a (s.standingSet a) := by
  have reformed := recomputeCore_reformed a (s.activeNeeds a) s
  cases enabled : denOf (s.motion.get a).phase with
  | true =>
    obtain ⟨t, run, -, lingered⟩ := runs_recompute_enabled (x := .recompute a) (needed := s.activeNeeds a) rfl loaded unawaited enabled
    rw [run.settle (by decide)]
    exact lingered.standing.trans reformed.standing
  | false =>
    obtain ⟨t, run, -, released⟩ := runs_recompute_disabled (x := .recompute a) (needed := s.activeNeeds a) rfl loaded unawaited enabled
    rw [run.settle (by decide)]
    exact released.standing.trans reformed.standing

/-- State t is s after a recompute of an arm that is OFF or in FAULT: what it holds of the new set is STANDING, or stays CLAIM,
and what leaves the set is handed on (R109, R117). -/
structure Retired (a : Arm) (s t : State) : Prop where
  kept : ExceptZones s t
  standing : t.standing = s.standing.set a (s.standingSet a)
  linger : s.linger = .both none → t.linger = s.linger
  free : ∀ z, (s.zones.get z).kind = .shared → s.holders.get z = none →
    t.holders.get z = if z ∈ s.standingSet a then some (a, s.deemed a) else none
  unshared : ∀ z, (s.zones.get z).kind ≠ .shared → s.holders.get z = none → t.holders.get z = none
  others : ∀ z w, s.holders.get z = some (a.other, w) → t.holders.get z = some (a.other, w)
  inside : ∀ z w, (s.zones.get z).kind = .shared → s.holders.get z = some (a, w) → z ∈ s.standingSet a →
    t.holders.get z = some (a, if w = .claim then s.deemed a else .standing)
  outside : ∀ z w, (s.zones.get z).kind = .shared → s.holders.get z = some (a, w) → w = .standing ∨ w = .claim →
    z ∉ s.standingSet a → t.holders.get z = s.handed a z

theorem runs_recompute_retired {s : State} {a : Arm} (loaded : s.startup ≠ .loading) (unawaited : s.waiters = [])
    (disabled : denOf (s.motion.get a).phase = false) : ∃ t, Runs 3 [.recompute a] s t ∧ Retired a s t := by
  obtain ⟨t, run, kept, released⟩ := runs_recompute_disabled (x := .recompute a) (needed := s.activeNeeds a) rfl loaded unawaited disabled
  have reformed := recomputeCore_reformed a (s.activeNeeds a) s
  refine ⟨t, run, ?_⟩
  generalize (recomputeCore a (s.activeNeeds a) s).1 = r at released reformed
  have stays : ∀ z, (∀ w, w = .standing ∨ w = .claim → s.holders.get z = some (a, w) → z ∈ s.standingSet a) →
      t.holders.get z = r.holders.get z := by
    intro z inside
    refine released.stays z (.inl fun gone => ?_)
    obtain ⟨own, out⟩ := List.mem_filter.1 gone
    have absent : z ∉ s.standingSet a := by simpa using out
    rcases List.mem_append.1 own with own | own
    · exact absent (inside .standing (.inl rfl) (State.mem_heldFor.1 own))
    · exact absent (inside .claim (.inr rfl) (State.mem_heldFor.1 own))
  have unheld : ∀ z, s.holders.get z = none → t.holders.get z = r.holders.get z := fun z held =>
    stays z fun w _ own => absurd (held.symm.trans own) nofun
  refine { kept := kept, standing := released.standing.trans reformed.standing, linger := fun none_runs => ?_,
           free := fun z kind held => (unheld z held).trans (reformed.free z kind held),
           unshared := fun z kind held => ((unheld z held).trans (reformed.unshared z kind)).trans held,
           others := fun z w held => ?_, inside := fun z w kind held mem => ?_, outside := fun z w kind held tight absent => ?_ }
  · have before : r.linger = .both none := reformed.linger.trans none_runs
    have nothing : ∀ b : Arm, (PerArm.both (none : Option Timer)).get b = none := fun b => by cases b <;> rfl
    have own : t.linger.get a = none := by
      rcases released.own_timer with same | stopped
      · rw [same, before, nothing]
      · exact stopped
    have other : t.linger.get a.other = none := by rw [released.other_timer, before, nothing]
    rw [none_runs]
    exact PerArm.ext_get fun b => (nothing b).symm ▸ (a.eq_or_other b).elim (fun same => same ▸ own) (fun same => same ▸ other)
  · exact (stays z fun v _ own => absurd (congrArg Prod.fst (Option.some.inj (held.symm.trans own))) a.other_ne).trans
      (reformed.others z w held)
  · exact (stays z fun _ _ _ => mem).trans (reformed.inside z w kind held mem)
  · have gone : z ∈ (s.heldFor a .standing ++ s.heldFor a .claim).filter fun z => !(s.standingSet a).contains z := by
      refine List.mem_filter.2 ⟨List.mem_append.2 ?_, by simpa using absent⟩
      rcases tight with rfl | rfl
      · exact .inl (State.mem_heldFor.2 held)
      · exact .inr (State.mem_heldFor.2 held)
    have own : r.holders.get z = some (a, w) := by
      rw [reformed.outside z w kind held absent tight, if_neg (by rw [disabled]; decide)]
    have sets : r.standing.get a.other = s.standing.get a.other := by rw [reformed.standing, PerArm.get_set_ne _ _ a.other_ne]
    have unref : r.unreferenced a.other = s.unreferenced a.other := by rw [reformed.kept]; rfl
    rw [released.out z w gone own, State.handed, State.handed, sets, unref]

/-! ### WRITE CALIBRATION -/

theorem badAxisCal_iff (k : AxisCal) : badAxisCal k = true ↔ (k.sign ≠ 1 ∧ k.sign ≠ -1)
    ∨ (k.base < -1000000000 ∨ 1000000000 < k.base) ∨ (k.reference < -1000000000 ∨ 1000000000 < k.reference)
    ∨ (k.softMin < -100000000 ∨ 100000000 < k.softMin) ∨ (k.softMax < -100000000 ∨ 100000000 < k.softMax) ∨ k.softMax < k.softMin := by
  simp only [badAxisCal, Bool.or_eq_true, Bool.and_eq_true, decide_eq_true_eq, outside_iff, cellRange, or_assoc]

theorem badCalibration_iff (e : Calibration) : badCalibration e = true ↔ (∃ i, badAxisCal (e.axis.get i) = true)
    ∨ e.vMax < 1 ∨ 1000000 < e.vMax ∨ e.a < 1 ∨ 65535 < e.a ∨ e.aStop < 1 ∨ 65535 < e.aStop ∨ e.aStop < e.a
    ∨ e.followingLimit < 1 ∨ 1000000 < e.followingLimit ∨ 5000000 < e.envelope := by
  simp only [badCalibration, Bool.or_eq_true, decide_eq_true_eq, outsideNat_iff, PerAxis.any_iff, or_assoc]

theorem State.atRest_iff (s : State) (a : Arm) : s.atRest a = true ↔ (s.motion.get a).phase = .off
    ∨ ((s.motion.get a).phase = .idle ∧ (s.motion.get a).queue = []) := by
  simp only [State.atRest, Bool.or_eq_true, Bool.and_eq_true, decide_eq_true_eq, List.isEmpty_iff]

theorem State.anyContext_iff (s : State) : s.anyContext = true ↔ ∃ a, s.change.get a ≠ none := by
  simp only [State.anyContext, Bool.or_eq_true, Option.isSome_iff_ne_none]
  exact ⟨fun some_one => some_one.elim (⟨.A, ·⟩) (⟨.B, ·⟩), fun ⟨a, change⟩ => match a with | .A => .inl change | .B => .inr change⟩

section
variable {s : State} {arm : Option Arm} {e : Calibration} {k : Code}

theorem exec_writeCalibration_refused (takes : Takes s .S (.writeCalibration .S arm e))
    (acts : ∀ g, writeCalibration .S arm e (s.modLink .S g) = (s.modLink .S g).respond .S k) :
    Refuses (.writeCalibration .S arm e) .S s k :=
  congrArg Host.Outcome.next (serve_reads takes rfl acts)

theorem exec_writeCalibration {a : Arm} (takes : Takes s .S (.writeCalibration .S (some a) e)) (idle : s.save = .idle)
    (rest : (!s.atRest .A || !s.atRest .B || s.anyContext) = false) (good : badCalibration e = false) :
    Goes (.writeCalibration .S (some a) e) s (settle (answered { s with cal := s.cal.set a e } .S .ok .none, [.recompute a])) := by
  refine congrArg Host.Outcome.next (serve_goes (u := { s with cal := s.cal.set a e }) (fun u => settle (u, [.recompute a])) takes rfl rfl
    fun g => ?_)
  exact (checked_next (saving_of_idle idle)).trans ((checked_next rest).trans ((checked_next good).trans (checked_nil _ _ _)))

end

/-- What an accepted calibration leaves of the zones of an OFF arm (R109, R117). -/
theorem settle_recompute_off {s : State} {a : Arm} (loaded : s.startup ≠ .loading) (unawaited : s.waiters = [])
    (off : (s.motion.get a).phase = .off) : Retired a s (settle (s, [.recompute a])) := by
  obtain ⟨t, run, retired⟩ := runs_recompute_retired loaded unawaited (by rw [off]; rfl)
  rwa [run.settle (by decide)]

/-! ### WRITE ZONE -/

theorem badBox_iff (b : Box) : badBox b = true ↔ ∃ i, b.lo.get i < -100000000 ∨ 100000000 < b.lo.get i
    ∨ b.hi.get i < -100000000 ∨ 100000000 < b.hi.get i ∨ b.hi.get i < b.lo.get i := by
  simp only [badBox, Bool.or_eq_true, PerAxis.any_iff, outside_iff, cellRange, PerAxis.get_of, id_eq, decide_eq_true_eq]
  constructor
  · rintro ((⟨i, low⟩ | ⟨i, high⟩) | ⟨i, crossed⟩)
    · exact ⟨i, low.imp_right .inl⟩
    · exact ⟨i, .inr (.inr (high.imp_right .inl))⟩
    · exact ⟨i, .inr (.inr (.inr (.inr crossed)))⟩
  · rintro ⟨i, low | low | high | high | crossed⟩
    · exact .inl (.inl ⟨i, .inl low⟩)
    · exact .inl (.inl ⟨i, .inr low⟩)
    · exact .inl (.inr ⟨i, .inl high⟩)
    · exact .inl (.inr ⟨i, .inr high⟩)
    · exact .inr ⟨i, crossed⟩

theorem State.bothOff_iff (s : State) : s.bothOff = true ↔ ∀ a, (s.motion.get a).phase = .off := by
  simp only [State.bothOff, Bool.and_eq_true, decide_eq_true_eq]
  exact ⟨fun ⟨offA, offB⟩ a => match a with | .A => offA | .B => offB, fun off => ⟨off .A, off .B⟩⟩

theorem State.otherRack_iff (s : State) (z : ZoneId) : s.otherRack z = true ↔ ∃ y, y ≠ z ∧ (s.zones.get y).kind = .rack := by
  simp only [State.otherRack, List.any_eq_true, mem_allZones, true_and, Bool.and_eq_true, decide_eq_true_eq]

section
variable {s : State} {n : Nat} {e : ZoneEntry} {k : Code}

theorem exec_writeZone_refused (takes : Takes s .S (.writeZone .S n e))
    (acts : ∀ g, writeZone .S n e (s.modLink .S g) = (s.modLink .S g).respond .S k) : Refuses (.writeZone .S n e) .S s k :=
  congrArg Host.Outcome.next (serve_reads takes rfl acts)

/-- A WRITE ZONE that passes its first three checks (R104). -/
theorem writeZone_named (h : n < 16) (idle : s.save = .idle) (rest : (!s.bothOff || s.anyContext) = false) (good : badZone e = false) :
    writeZone .S n e s = s.checked .S [(decide (e.kind = some .rack) && s.otherRack ⟨n, h⟩, .inUse)] fun s =>
      settle ((({ s with zones := Table.put s.zones ⟨n, h⟩ (zoneOf e) }.clearHolders).respond .S .ok), [.recompute .A, .recompute .B]) := by
  refine (checked_next (saving_of_idle idle)).trans ((checked_next rest).trans ((checked_next ?_).trans ?_))
  · simp only [index?_of_lt h, Option.isNone_some, good, Bool.or_self]
  · simp only [checked_nil, index?_of_lt h]

theorem exec_writeZone (h : n < 16) (takes : Takes s .S (.writeZone .S n e)) (idle : s.save = .idle)
    (rest : (!s.bothOff || s.anyContext) = false) (good : badZone e = false)
    (single : (decide (e.kind = some .rack) && s.otherRack ⟨n, h⟩) = false) : Goes (.writeZone .S n e) s
      (settle (answered { s with zones := Table.put s.zones ⟨n, h⟩ (zoneOf e) }.clearHolders .S .ok .none,
        [.recompute .A, .recompute .B])) := by
  refine congrArg Host.Outcome.next (serve_goes (u := { s with zones := Table.put s.zones ⟨n, h⟩ (zoneOf e) }.clearHolders)
    (fun u => settle (u, [.recompute .A, .recompute .B])) takes rfl rfl fun g => ?_)
  exact (writeZone_named (s := s.modLink .S g) h idle rest good).trans ((checked_next single).trans (checked_nil _ _ _))

end

/-- Both standing sets formed anew with no zone held: a zone of both is arm A's (R104, R109). -/
theorem settle_recompute_both {s : State} (loaded : s.startup ≠ .loading) (unawaited : s.waiters = [])
    (off : ∀ a, (s.motion.get a).phase = .off) (unheld : ∀ z, s.holders.get z = none) (stopped : s.linger = .both none) :
    ExceptZones s (settle (s, [.recompute .A, .recompute .B])) ∧ (∀ a, (settle (s, [.recompute .A, .recompute .B])).standing.get a = s.standingSet a)
    ∧ (settle (s, [.recompute .A, .recompute .B])).linger = .both none
    ∧ ∀ z, (settle (s, [.recompute .A, .recompute .B])).holders.get z = if z ∈ s.standingSet .A then some (.A, s.deemed .A)
        else if z ∈ s.standingSet .B then some (.B, s.deemed .B) else none := by
  obtain ⟨r, first, mine⟩ := runs_recompute_retired (a := .A) loaded unawaited (by rw [off]; rfl)
  have kept := mine.kept
  have base : r.startup = s.startup ∧ r.waiters = s.waiters ∧ r.motion = s.motion ∧ r.zones = s.zones
      ∧ r.standingSet .B = s.standingSet .B ∧ r.deemed .B = s.deemed .B := by
    obtain ⟨_, _, _, _, _, rfl⟩ := ExceptZones_update kept
    exact ⟨rfl, rfl, rfl, rfl, rfl, rfl⟩
  obtain ⟨startup, waiters, motion, zones, set, deemed⟩ := base
  obtain ⟨t, second, other⟩ := runs_recompute_retired (s := r) (a := .B) (by rwa [startup]) (by rwa [waiters]) (by rw [motion, off]; rfl)
  rw [(first.cons second).settle (by decide)]
  refine ⟨ExceptZones_trans kept other.kept, fun a => ?_, ?_, fun z => ?_⟩
  · rw [other.standing, mine.standing, set]
    cases a <;> rfl
  · rw [other.linger (by rw [mine.linger stopped, stopped]), mine.linger stopped, stopped]
  · by_cases kind : (s.zones.get z).kind = .shared
    · have taken := mine.free z kind (unheld z)
      by_cases mem : z ∈ s.standingSet .A
      · rw [if_pos mem] at taken ⊢
        exact other.others z _ taken
      · rw [if_neg mem] at taken ⊢
        rw [other.free z (by rwa [zones]) taken, set, deemed]
    · rw [if_neg fun mem => kind ((s.mem_standingSet _ z).1 mem).1, if_neg fun mem => kind ((s.mem_standingSet _ z).1 mem).1]
      exact other.unshared z (by rwa [zones]) (mine.unshared z kind (unheld z))

/-! ### WRITE SETTINGS -/

theorem State.duplicates_iff (s : State) : s.duplicates .serialOnly = true ↔ ∃ (m n : Slot) (p q : Probe), m ≠ n
    ∧ s.probes.get m = some p ∧ s.probes.get n = some q ∧ p.identity / 256 = q.identity / 256 := by
  simp only [State.duplicates, List.any_eq_true, Bool.and_eq_true, decide_eq_true_eq, Option.any_eq_true, idMatch]
  constructor
  · rintro ⟨m, -, n, -, below, p, at_m, q, at_n, same⟩
    exact ⟨m, n, p, q, Fin.ne_of_lt below, at_m, at_n, same⟩
  · rintro ⟨m, n, p, q, apart, at_m, at_n, same⟩
    rcases Nat.lt_or_gt_of_ne (Fin.val_ne_of_ne apart) with below | above
    · exact ⟨m, List.mem_finRange m, n, List.mem_finRange n, below, p, at_m, q, at_n, same⟩
    · exact ⟨n, List.mem_finRange n, m, List.mem_finRange m, above, q, at_n, p, at_m, same.symm⟩

section
variable {s : State} {e : SettingsEntry} {k : Code}

theorem exec_writeSettings_refused (takes : Takes s .S (.writeSettings .S e))
    (acts : ∀ g, writeSettings .S e (s.modLink .S g) = (s.modLink .S g).respond .S k) : Refuses (.writeSettings .S e) .S s k :=
  congrArg Host.Outcome.next (serve_reads takes rfl acts)

/-- New settings do not depend on what link S holds besides its flags (R196, R209). -/
theorem putSettings_answered (s : State) (v : Settings) (maskA maskB maskS : List Notice) (k : Code) (p : Payload) :
    (answered s .S k p).putSettings v maskA maskB maskS = answered (s.putSettings v maskA maskB maskS) .S k p := rfl

theorem exec_writeSettings (takes : Takes s .S (.writeSettings .S e)) (idle : s.save = .idle)
    (good : (e.matchMode.isNone || e.startLocked.isNone || decide (10000 < e.qualLimit)) = false)
    (single : (decide (e.matchMode = some .serialOnly) && s.duplicates .serialOnly) = false) :
    Answers (.writeSettings .S e) .S s (s.putSettings (settingsOf e) e.maskA e.maskB e.maskS) := by
  have served := serve_goes (s := s) (u := s) (k := .ok) (p := .none) (f := writeSettings .S e) (c := .writeSettings .S e)
    (fun u => u.putSettings (settingsOf e) e.maskA e.maskB e.maskS) takes rfl rfl fun g =>
      (checked_next (saving_of_idle idle)).trans ((checked_next good).trans ((checked_next single).trans (checked_nil _ _ _)))
  rw [putSettings_answered] at served
  exact congrArg Host.Outcome.next served

end

/-- Settles O45: the checks in order, then the recompute of one arm, of both, or none. -/
theorem configurationWritten : Obligations.ConfigurationWritten := by
  refine ⟨fun arm e s takes => ?_, fun n e s takes => ?_, fun e s takes => ?_⟩
  · intro c rest wrong out bad
    have isWrong : (!s.atRest .A || !s.atRest .B || s.anyContext) = true ↔ wrong := by
      simp only [Bool.or_eq_true, Bool.not_eq_true', ← Bool.not_eq_true, s.atRest_iff, s.anyContext_iff, or_assoc]
      rfl
    have isBad : (arm.isNone || badCalibration e) = true ↔ bad := by
      simp only [Bool.or_eq_true, Option.isNone_iff_eq_none, badCalibration_iff, badAxisCal_iff]
      rfl
    refine ⟨fun saving => ?_, fun idle is_wrong => ?_, fun idle right is_bad => ?_, fun a idle right good named unawaited => ?_⟩
    · exact exec_writeCalibration_refused takes fun g => checked_first (saving_of_ne saving)
    · exact exec_writeCalibration_refused takes fun g => (checked_next (saving_of_idle idle)).trans (checked_first (isWrong.2 is_wrong))
    · exact exec_writeCalibration_refused takes fun g => (checked_next (saving_of_idle idle)).trans
        ((checked_next (Bool.eq_false_iff.2 (mt isWrong.1 right))).trans (checked_first (isBad.2 is_bad)))
    · subst named
      have good : badCalibration e = false := by simpa using mt isBad.1 good
      have goes := exec_writeCalibration takes idle (Bool.eq_false_iff.2 (mt isWrong.1 right)) good
      intro u
      refine ⟨_, goes, settle_contained (recompute_contained a) (by decide) unawaited, fun loaded => ⟨?_, fun idles inactive no_segment => ?_,
        fun off => ?_⟩⟩
      · rw [settle_recompute_standing (s := answered u .S .ok .none) loaded unawaited, PerArm.get_set]
        rfl
      · exact settle_recompute_enabled (s := answered u .S .ok .none) loaded unawaited
          (by rw [show ((answered u .S .ok .none).motion.get a).phase = .idle from idles]; rfl) inactive no_segment
      · intro deemed
        have retired := settle_recompute_off (s := answered u .S .ok .none) loaded unawaited off
        refine ⟨by rw [retired.standing, PerArm.get_set_ne _ _ a.other_ne]; rfl, fun z kind => ⟨retired.free z kind, retired.others z,
          fun r held mem => retired.inside z r kind held mem, fun r held tight absent => retired.outside z r kind held tight absent⟩⟩
  · intro c wrong bad
    have isWrong : (!s.bothOff || s.anyContext) = true ↔ wrong := by
      simp only [Bool.or_eq_true, Bool.not_eq_true', ← Bool.not_eq_true, s.bothOff_iff, s.anyContext_iff, Classical.not_forall]
      rfl
    have isBad : ((index? 16 n).isNone || badZone e) = true ↔ bad := by
      have above : (index? 16 n).isNone = true ↔ 15 < n := by
        rw [index?_isNone, decide_eq_true_eq]
        omega
      simp only [Bool.or_eq_true, above, badZone, Option.isNone_iff_eq_none, badBox_iff]
      rfl
    refine ⟨fun saving => ?_, fun idle is_wrong => ?_, fun idle right is_bad => ?_, fun h k idle right good kind => ?_⟩
    · exact exec_writeZone_refused takes fun g => checked_first (saving_of_ne saving)
    · exact exec_writeZone_refused takes fun g => (checked_next (saving_of_idle idle)).trans (checked_first (isWrong.2 is_wrong))
    · exact exec_writeZone_refused takes fun g => (checked_next (saving_of_idle idle)).trans
        ((checked_next (Bool.eq_false_iff.2 (mt isWrong.1 right))).trans (checked_first (isBad.2 is_bad)))
    have rests := Bool.eq_false_iff.2 (mt isWrong.1 right)
    have good : badZone e = false := Bool.eq_false_iff.2 fun is_bad => good (isBad.1 (by rw [is_bad, Bool.or_true]))
    intro second
    have isSecond : (decide (e.kind = some .rack) && s.otherRack ⟨n, h⟩) = true ↔ second := by
      rw [Bool.and_eq_true, decide_eq_true_eq, kind, Option.some.injEq, s.otherRack_iff]
      simp only [ne_eq, Fin.ext_iff]
      rfl
    refine ⟨fun is_second => ?_, fun single unawaited loaded => ?_⟩
    · exact exec_writeZone_refused takes fun g => (writeZone_named (s := s.modLink .S g) h idle rests good).trans (checked_first (isSecond.2 is_second))
    · intro u
      have off : ∀ a, (s.motion.get a).phase = .off := fun a => Classical.byContradiction fun on => right (.inl ⟨a, on⟩)
      have goes := exec_writeZone h takes idle rests good (Bool.eq_false_iff.2 (mt isSecond.1 single))
      have record : zoneOf e = { kind := k, box := e.box, k := if k = .shared then e.k else 0 } := by rw [zoneOf, kind]; rfl
      rw [record] at goes
      obtain ⟨kept, standing, linger, holders⟩ := settle_recompute_both (s := answered u.clearHolders .S .ok .none) loaded unawaited off
        (fun z => by simp [u, State.clearHolders, answered, Vector.get]) rfl
      refine ⟨_, goes, ExceptZones_trans (t := answered u.clearHolders .S .ok .none) rfl kept, standing, linger,
        fun z => ⟨fun a => u.mem_standingSet a z, holders z⟩⟩
  · intro c bad double
    have isBad : (e.matchMode.isNone || e.startLocked.isNone || decide (10000 < e.qualLimit)) = true ↔ bad := by
      simp only [Bool.or_eq_true, Option.isNone_iff_eq_none, decide_eq_true_eq, or_assoc]
      rfl
    have isDouble : (decide (e.matchMode = some .serialOnly) && s.duplicates .serialOnly) = true ↔ double := by
      rw [Bool.and_eq_true, decide_eq_true_eq, s.duplicates_iff]
    refine ⟨fun saving => ?_, fun idle is_bad => ?_, fun idle good twice => ?_, fun mode locked idle good single mode_is locked_is => ?_⟩
    · exact exec_writeSettings_refused takes fun g => checked_first (saving_of_ne saving)
    · exact exec_writeSettings_refused takes fun g => (checked_next (saving_of_idle idle)).trans (checked_first (isBad.2 is_bad))
    · exact exec_writeSettings_refused takes fun g => (checked_next (saving_of_idle idle)).trans
        ((checked_next (Bool.eq_false_iff.2 (mt isBad.1 good))).trans (checked_first (isDouble.2 twice)))
    · intro mask link
      have answers := exec_writeSettings takes idle (Bool.eq_false_iff.2 (mt isBad.1 good)) (Bool.eq_false_iff.2 (mt isDouble.1 single))
      have lingers : clampNat e.linger 0 5000 = min e.linger 5000 := by
        unfold clampNat
        (repeat' split) <;> omega
      have settings : settingsOf e = ⟨mode, locked, min e.linger 5000, clampNat e.stepTimeout 1 300, clampNat e.rackTimeout 5 300,
          e.qualLimit⟩ := by
        simp only [settingsOf, mode_is, locked_is, lingers, Option.getD_some]
      rw [settings] at answers
      exact answers

end Sys2Proof.Machine
end
section
/-! PROOFS. A fault entry and an ARM RESET while the part is LOADING, where no standing recompute is made (R109, R124; log 12). -/
namespace Sys2Proof.Machine
open Sys2Proof.Safety

/-- The head of arm B. -/
def blockedHead : Segment := ⟨0, 1, .position (.all 0)⟩

/-- Its geometry: it needs zone 0. -/
def blockedGeometry : Geometry := ⟨.all 0, .all 0, .all 0, 0, ⟨.all 0, .all 0⟩, [0]⟩

/-- Both arms referenced while the part is LOADING, as no run leaves them: arm A moves, and its standing set no longer has the
SHARED zone 0, which it holds for STANDING and the head of arm B waits for. -/
def midLoad : State :=
  { State.reset with
    links := State.reset.links.set .A { State.reset.links.get .A with phase := .idle }
    axes := State.reset.axes.map fun u => { u with den := true, axis := u.axis.map fun x => { x with referenced := true } }
    motion := (State.reset.motion.set .A { State.reset.motion.get .A with
        phase := .moving, active := some { strandedSegment with geometry := none } }).set .B
      { State.reset.motion.get .B with phase := .waiting .zone, queue := [blockedHead], geometry := some blockedGeometry }
    zones := Table.put State.reset.zones 0 { kind := .shared, box := ⟨.all 50000000, .all 50000000⟩, k := 0 }
    holders := Table.put State.reset.holders 0 (some (.A, .standing))
    waiters := [⟨.B, .segment, [0]⟩] }

/-- The head of arm B waits for a zone that arm A's standing set no longer has. -/
theorem midLoad_yields : Yields midLoad .A blockedHead [] blockedGeometry := by
  refine ⟨rfl, rfl, rfl, by decide, ⟨0, by decide, .standing, rfl⟩, fun z needed => .inr ?_⟩
  obtain rfl : z = 0 := by simpa [blockedGeometry] using needed
  exact ⟨rfl, by decide, by decide, .inr ⟨.standing, by decide, rfl⟩⟩

/-- Whether an entry waits after a command. -/
def waitsAfter (c : Instr) (s : State) : Bool :=
  match exec c s with
  | .next t => !t.waiters.isEmpty
  | _ => false

/-- Where the head of the other arm has started, no entry waits. -/
theorem waitsAfter_of_started {c : Instr} {s t u : State} {b : Arm} {h : Segment} {rest : List Segment} {g : Geometry}
    (goes : Goes c s t) (started : HeadStarted u t b h rest g) : waitsAfter c s = false := by
  obtain ⟨kept, -, -⟩ := started
  have empty : t.waiters = [] := by rw [ExceptZones_waiters kept]; rfl
  simp only [waitsAfter, show exec c s = .next t from goes, empty, List.isEmpty_nil, Bool.not_true]

theorem midLoad_unchanged (k : Context) : midLoad.change.get .A ≠ some k := nofun

theorem midLoad_waits_after_fault : waitsAfter (.dfltChange .A true) midLoad = true := by decide

theorem midLoad_waits_after_reset : waitsAfter (.armReset .A none) midLoad = true := by decide

/-- Refutes O33: nothing asks that LOADING has ended, and in `midLoad` the drive fault of arm A makes no recompute, so it keeps the
zone it holds for STANDING and the head of arm B does not start. -/
theorem not_faultEntries : ¬ Obligations.FaultEntries := by
  intro holds
  obtain ⟨-, -, -, -, -, yields, -⟩ := holds .A .X true midLoad
  obtain ⟨t, goes, -, started⟩ := yields blockedHead [] blockedGeometry rfl rfl rfl (fun k change => absurd change (midLoad_unchanged k))
    (.inl rfl) nofun midLoad_yields
  exact absurd (waitsAfter_of_started goes started) (by rw [midLoad_waits_after_fault]; decide)

/-- Refutes O43: nothing asks that LOADING has ended, and in `midLoad` the ARM RESET of arm A at v = 0 makes no recompute, so it
keeps the zone it holds for STANDING and the head of arm B does not start. -/
theorem not_armResetCompletes : ¬ Obligations.ArmResetCompletes := by
  intro holds
  obtain ⟨-, -, -, -, stands, -⟩ := holds .A none .A midLoad (.inl ⟨rfl, rfl⟩) (.inl (.inl rfl))
  obtain ⟨-, yields⟩ := stands { strandedSegment with geometry := none } rfl rfl rfl rfl rfl rfl
    (fun k change => absurd change (midLoad_unchanged k))
  obtain ⟨t, goes, -, started⟩ := yields blockedHead [] blockedGeometry midLoad_yields
  exact absurd (waitsAfter_of_started goes started) (by rw [midLoad_waits_after_reset]; decide)

end Sys2Proof.Machine
end
section
/-! PROOFS. The grant of a waiting head by a waiter scan, and a linger expiry (R116 to R118). -/
namespace Sys2Proof.Machine
open Sys2Proof.Safety

/-- State t is s but for zones that arm c may have let go or taken: what the needed zones are to arm c, but for LINGER, they stay,
and no hand-over count is new. -/
structure Retains (c : Arm) (needed : List ZoneId) (s t : State) : Prop where
  kept : ExceptZones s t
  holds : ∀ z ∈ needed, (∃ w, w ≠ .linger ∧ s.holders.get z = some (c, w)) → ∃ w, w ≠ .linger ∧ t.holders.get z = some (c, w)
  counts : ∀ h ∈ t.handover, h ∈ s.handover

theorem Retains.refl (c : Arm) (needed : List ZoneId) (s : State) : Retains c needed s s := ⟨rfl, fun _ _ held => held, fun _ mem => mem⟩

/-- The standing recompute of an enabled arm keeps the zones its active segment needs (R109, R115). -/
theorem runs_recompute_retains {s : State} {b : Arm} {needed : List ZoneId} (unawaited : s.waiters = [])
    (enabled : denOf (s.motion.get b).phase = true) :
    ∃ t, Runs 3 (recompute b needed s).2 (recompute b needed s).1 t ∧ Retains b needed s t := by
  by_cases loading : s.startup = .loading
  · rw [show recompute b needed s = (s, []) by simp only [recompute, loading, if_true]]
    exact ⟨s, (Runs.nil s).mono (by decide), Retains.refl _ _ _⟩
  have reformed := recomputeCore_reformed b needed s
  have sets_off : recompute b needed s = ((recomputeCore b needed s).1, [.linger b]) := by
    rw [recompute_unawaited loading unawaited]
    simp only [recomputeCore, enabled, if_true]
  rw [sets_off]
  generalize (recomputeCore b needed s).1 = r at reformed
  obtain ⟨t, run, lingered⟩ := runs_linger (s := r) (by rw [ExceptZones_waiters reformed.kept, unawaited]) b
  refine ⟨t, run, ExceptZones_trans reformed.kept lingered.kept, fun z mem ⟨w, not_linger, held⟩ => ?_, fun h mem => ?_⟩
  · have tight : ∃ w, w ≠ HoldWhy.linger ∧ r.holders.get z = some (b, w) := by
      by_cases kind : (s.zones.get z).kind = .shared
      · by_cases inside : z ∈ s.standingSet b
        · refine ⟨_, ?_, reformed.inside z w kind held inside⟩
          split
          · exact s.deemed_ne_linger b
          · nofun
        · by_cases own : w = .standing ∨ w = .claim
          · refine ⟨.segment, nofun, ?_⟩
            rw [reformed.outside z w kind held inside own, if_pos enabled, if_pos mem]
          · exact ⟨w, not_linger, reformed.loose z w held inside (not_or.1 own).1 (not_or.1 own).2⟩
      · exact ⟨w, not_linger, (reformed.unshared z kind).trans held⟩
    obtain ⟨v, other, now⟩ := tight
    exact ⟨v, other, (lingered.stays z (.inl (by rw [now]; simpa using other))).trans now⟩
  · rw [← reformed.handover]
    exact lingered.counts h mem

/-- The deferred recompute of an arm that has just started (R109, R114). -/
theorem runs_recomputeOwed_retains {s : State} {b : Arm} (unawaited : s.waiters = []) (enabled : denOf (s.motion.get b).phase = true) :
    ∃ t, Runs 4 [.recomputeOwed b] s t ∧ Retains b (s.activeNeeds b) s t := by
  by_cases due : s.deferred.get b = true
  · obtain ⟨t, run, retains⟩ := runs_recompute_retains (s := { s with deferred := s.deferred.set b false }) (needed := s.activeNeeds b)
      unawaited enabled
    refine ⟨t, Runs.piece (x := .recomputeOwed b) (e := recompute b (s.activeNeeds b) { s with deferred := s.deferred.set b false }) ?_ run,
      ExceptZones_trans (t := { s with deferred := s.deferred.set b false }) rfl retains.kept, retains.holds, retains.counts⟩
    simp only [perform, recomputeOwed, due, if_true]
  · refine ⟨s, (Runs.piece (x := .recomputeOwed b) (e := (s, [])) ?_ (Runs.nil s)).mono (by decide), Retains.refl _ _ _⟩
    simp only [perform, recomputeOwed, due, Bool.false_eq_true, if_false]

/-! ### The grant -/

theorem ExceptZones_started {s t : State} (kept : ExceptZones s t) (b : Arm) (h : Segment) (rest : List Segment) (g : Geometry) :
    ExceptZones (started s b h rest g) (started t b h rest g) := by
  obtain ⟨holders, standing, deferred, linger, handover, rfl⟩ := ExceptZones_update kept
  exact ExceptZones_begins (s := unwaited s) (t := unwaited { s with
    holders := holders, standing := standing, deferred := deferred, linger := linger, handover := handover }) rfl b h rest (some g)

/-- A head that starts from a state that differs in the zones alone. -/
theorem headStarted_of_kept {s t u : State} {b : Arm} {h : Segment} {rest : List Segment} {g : Geometry} (kept : ExceptZones s t)
    (head : HeadStarted t u b h rest g) : HeadStarted s u b h rest g := by
  obtain ⟨begun, holds, counts⟩ := head
  have zones : t.zones = s.zones := by rw [kept]
  exact ⟨ExceptZones_trans (ExceptZones_started kept b h rest g) begun, zones ▸ holds, counts⟩

/-- A waiter scan that grants the only entry, a head's (R117). -/
theorem runs_scan_grants {s : State} {b : Arm} {h : Segment} {rest : List Segment} {g : Geometry}
    (entry : s.waiters = [⟨b, .segment, g.needed⟩]) (queue : (s.motion.get b).queue = h :: rest)
    (geometry : (s.motion.get b).geometry = some g) (aims : h.move.kind ≠ .home)
    (free : ∀ z ∈ g.needed, ∀ c why, s.holders.get z = some (c, why) → c = b) :
    ∃ t, Runs 9 [.scan] s t ∧ HeadStarted s t b h rest g := by
  have grantable : s.grantable ⟨b, .segment, g.needed⟩ = true := by
    simp only [State.grantable, List.all_eq_true, Option.all_eq_true, decide_eq_true_eq, Prod.forall]
    exact free
  have acts : perform .scan s = ((s.dropEntry b).takeZones b g.needed, [.activate b, .recomputeOwed b, .scan]) := by
    simp only [perform, scan, entry, List.find?_cons, grantable]
  have empties : (s.dropEntry b).waiters = [] := by simp [State.dropEntry, entry]
  have dropped : ∀ x ∈ (s.dropEntry b).handover, x.holder ≠ b.other := fun x mem => by simpa using (List.mem_filter.1 mem).2
  obtain ⟨taken, takes, keeps⟩ := (s.dropEntry b).takeZones_fields b g.needed
  have fields : ((s.dropEntry b).takeZones b g.needed).motion = s.motion ∧ ((s.dropEntry b).takeZones b g.needed).waiters = []
      ∧ ((s.dropEntry b).takeZones b g.needed).begins b h rest (some g) = { started s b h rest g with
        holders := ((s.dropEntry b).takeZones b g.needed).holders, handover := ((s.dropEntry b).takeZones b g.needed).handover } := by
    refine ⟨rfl, empties, ?_⟩
    rw [State.begins, started]
    simp only [State.takeZones, State.dropEntry, entry, List.filter_cons, ne_eq, not_true_eq_false, decide_false, List.filter_nil]
    rfl
  generalize (s.dropEntry b).takeZones b g.needed = p at acts fields takes keeps
  obtain ⟨motion, unawaited, begins⟩ := fields
  obtain ⟨u, activated, begun, active⟩ := runs_activated (s := p) (by rw [motion]; exact queue) (by rw [motion]; exact geometry)
    (p.work_needed b h g aims) (.inl unawaited)
  rw [begins] at begun
  have now : ExceptZones (started s b h rest g) u := ExceptZones_trans (t := { started s b h rest g with
    holders := p.holders, handover := p.handover }) rfl begun
  have u_motion : (u.motion.get b).phase = .moving ∧ (u.motion.get b).active = some ((unwaited s).work b h (some g)) := by
    rw [now]
    show ((started s b h rest g).motion.get b).phase = _ ∧ ((started s b h rest g).motion.get b).active = _
    rw [started, State.setPhase_enabled _ b (p := .moving) rfl, PerArm.get_set, State.modMotion_motion, PerArm.get_set]
    exact ⟨rfl, rfl⟩
  have needs : u.activeNeeds b = g.needed := by
    simp only [State.activeNeeds, u_motion.2]
    exact (unwaited s).work_needed b h g aims
  have u_waiters : u.waiters = [] := ExceptZones_waiters now
  obtain ⟨t, owed, retains⟩ := runs_recomputeOwed_retains (b := b) u_waiters (by rw [u_motion.1]; rfl)
  have t_waiters : t.waiters = [] := (ExceptZones_waiters retains.kept).trans u_waiters
  refine ⟨t, Runs.piece acts (activated.cons (owed.cons (runs_scan t_waiters))), ExceptZones_trans now retains.kept,
    fun z mem shared => ?_, fun x mem => ?_⟩
  · have segment : ∃ w, w ≠ HoldWhy.linger ∧ u.holders.get z = some (b, w) := by
      rw [active.needs z mem, takes]
      have same : (s.dropEntry b).holders = s.holders := rfl
      have zones : (s.dropEntry b).zones = s.zones := rfl
      rw [same, zones]
      by_cases tight : s.holders.get z = some (b, .standing) ∨ s.holders.get z = some (b, .claim)
      · have stays : ¬ (z ∈ g.needed ∧ (s.zones.get z).kind = .shared ∧ s.holders.get z ≠ some (b, .standing)
            ∧ s.holders.get z ≠ some (b, .claim)) := fun ⟨_, _, not_standing, not_claim⟩ => tight.elim not_standing not_claim
        rw [if_neg stays]
        rcases tight with tight | tight <;> rw [tight] <;> simp
      · have taken : z ∈ g.needed ∧ (s.zones.get z).kind = .shared ∧ s.holders.get z ≠ some (b, .standing)
            ∧ s.holders.get z ≠ some (b, .claim) := ⟨mem, shared, not_or.1 tight⟩
        rw [if_pos taken]
        simp
    obtain ⟨w, -, held⟩ := retains.holds z (by rw [needs]; exact mem) segment
    exact ⟨w, held⟩
  · obtain ⟨y, old, holder, -⟩ := active.counts x (retains.counts x mem)
    rw [holder]
    exact dropped y ((keeps y).1 old).1

/-! ### A linger expiry -/

/-- What a release hands on, in the words of the statements (R117, R118). -/
theorem Released.handsOn {a : Arm} {zs : List ZoneId} {s t : State} {P : ZoneId → Prop} (released : Released a zs s t)
    (held : ∀ z, P z ↔ z ∈ zs ∧ ∃ w, s.holders.get z = some (a, w)) : HandsOn s t a P := by
  refine ⟨fun z here => ?_, fun z absent => ?_, fun h => ?_, released.standing⟩
  · obtain ⟨mem, w, own⟩ := (held z).1 here
    exact released.out z w mem own
  · refine released.stays z ?_
    by_cases mem : z ∈ zs
    · exact .inr fun w own => absent ((held z).2 ⟨mem, w, own⟩)
    · exact .inl mem
  · rw [released.handover, held]

theorem mem_lingering {s : State} {a : Arm} (z : ZoneId) : s.holders.get z = some (a, .linger)
    ↔ z ∈ s.heldFor a .linger ∧ ∃ w, s.holders.get z = some (a, w) := by
  rw [State.mem_heldFor]
  exact ⟨fun held => ⟨held, _, held⟩, And.left⟩

/-- Settles O46: the release of the lingering zones, whose scan grants the head where one waits. -/
theorem lingerReleases : Obligations.LingerReleases := by
  intro a s
  have goes {t : State} (ends : settle (lingerEnds a s) = t) : Goes (.lingerExpiry a) s t := congrArg Host.Outcome.next ends
  refine ⟨fun stopped => goes ?_, fun k runs unawaited => ?_, fun k g h rest runs entry queue geometry aims ⟨y, lingers⟩ tight => ?_⟩
  · rw [lingerEnds, stopped]
    exact settle_nil s
  · have acts : lingerEnds a s = ({ s with linger := s.linger.set a none }, [.release a (s.heldFor a .linger)]) := by rw [lingerEnds, runs]
    obtain ⟨t, run, released⟩ := runs_release (s := { s with linger := s.linger.set a none }) unawaited a (s.heldFor a .linger)
    refine ⟨t, goes (by rw [acts, run.settle (by decide)]), ExceptZones_trans (t := { s with linger := s.linger.set a none }) rfl released.kept, ?_, ?_⟩
    · rcases released.own_timer with same | stopped
      · rw [same, PerArm.get_set]
      · exact stopped
    · exact released.handsOn (mem_lingering (s := s))
  · have acts : lingerEnds a s = ({ s with linger := s.linger.set a none }, [.release a (s.heldFor a .linger)]) := by rw [lingerEnds, runs]
    obtain ⟨released, ⟨none_held, -⟩ | ⟨-, scans⟩⟩ := release_spec a (s.heldFor a .linger) { s with linger := s.linger.set a none }
    · exact absurd lingers (none_held y (State.mem_heldFor.2 lingers) _)
    · generalize after : release a (s.heldFor a .linger) { s with linger := s.linger.set a none } = e at released scans
      have motion : e.1.motion = s.motion := by rw [released.kept]
      have free : ∀ z ∈ g.needed, ∀ c why, e.1.holders.get z = some (c, why) → c = a.other := by
        intro z mem c why held
        by_cases own : s.holders.get z = some (a, .linger)
        · rw [released.out z .linger (State.mem_heldFor.2 own) own] at held
          unfold State.handed at held
          split at held
          · exact (congrArg Prod.fst (Option.some.inj held)).symm
          · exact nomatch held
        · rw [released.stays z (.inl fun mem => own (State.mem_heldFor.1 mem))] at held
          exact (tight z mem c why held).resolve_right fun ⟨mine, lingers⟩ => own (by rw [← mine, ← lingers]; exact held)
      obtain ⟨t, run, head⟩ := runs_scan_grants (s := e.1) (b := a.other) (h := h) (rest := rest) (g := g)
        (by rw [ExceptZones_waiters released.kept]; exact entry) (by rw [motion]; exact queue) (by rw [motion]; exact geometry) aims free
      refine ⟨t, goes ?_, headStarted_of_kept (ExceptZones_trans (t := { s with linger := s.linger.set a none }) rfl released.kept) head⟩
      rw [acts]
      exact (Runs.piece (x := .release a (s.heldFor a .linger)) (e := e) after (scans ▸ run)).settle (by decide)

end Sys2Proof.Machine
end
section
/-! PROOFS. A record put in a place, and the start of an inventory (R125, R126, R140, R141). -/
namespace Sys2Proof.Machine
open Sys2Proof.Safety

/-! ### A record put in a place -/

section
variable {s : State} {n : Slot} {p : Probe} (slot : s.probes.get n = some p)
include slot

/-- The records after one comes to a place: any other that stood there is LOST (R125, R126). -/
theorem State.place_probes (pl : Place) (m : Slot) : (s.place n pl).probes.get m
    = if m = n then some { p with place := pl }
      else (s.probes.get m).map fun q => if pl.single = true ∧ q.place = pl then { q with place := .lost } else q := by
  obtain ⟨ks, leave⟩ := s.leave_fields n p.place
  have displaced : ((s.leave n p.place).displace n pl).probes.get m = if m = n then s.probes.get m
      else (s.probes.get m).map fun q => if pl.single = true ∧ q.place = pl then { q with place := .lost } else q := by
    rw [leave, State.displace]
    by_cases single : pl.single = true
    · simp only [single, if_true, true_and, Table.get_mapIdx]
    · simp [single]
  have put : (s.place n pl).probes = Table.put ((s.leave n p.place).displace n pl).probes n (some { p with place := pl }) := by
    unfold State.place
    rw [slot]
    cases pl <;> rfl
  rw [put, Table.get_put, displaced]
  by_cases same : m = n
  · simp [same]
  · simp [same]

theorem State.place_pockets (pl : Place) (k : PocketId) : (s.place n pl).pockets.get k
    = if pl = .stored k then { s.pockets.get k with state := .occupied n, unexpected := false }
      else if p.place = .stored k ∧ (s.pockets.get k).state = .occupied n then
        { s.pockets.get k with state := .empty, unexpected := (s.pockets.get k).level }
      else s.pockets.get k := by
  have left : (s.leave n p.place).pockets.get k = if p.place = .stored k ∧ (s.pockets.get k).state = .occupied n then
        { s.pockets.get k with state := .empty, unexpected := (s.pockets.get k).level }
      else s.pockets.get k := by
    unfold State.leave
    cases place : p.place with
    | stored j =>
      by_cases here : (s.pockets.get j).state = .occupied n
      · simp only [here, if_true, State.vacate, State.modPocket_pockets, Table.get_put, Place.stored.injEq]
        by_cases same : j = k
        · subst same
          simp [here]
        · simp [same, Ne.symm same]
      · simp only [here, if_false, Place.stored.injEq]
        by_cases same : j = k
        · subst same
          simp [here]
        · simp [same]
    | _ => simp
  have base : ((s.leave n p.place).displace n pl).pockets = (s.leave n p.place).pockets := by
    obtain ⟨ps, displace⟩ := (s.leave n p.place).displace_fields n pl
    rw [displace]
  unfold State.place
  rw [slot]
  cases pl with
  | stored j =>
    simp only [State.modPocket_pockets, State.setProbe_pockets, base, Table.get_put, Place.stored.injEq]
    by_cases same : j = k
    · subst same
      have level : ((s.leave n p.place).pockets.get j).level = (s.pockets.get j).level := by
        rw [left]
        split <;> rfl
      simp only [if_true, level]
    · simp only [same, Ne.symm same, if_false, left]
  | _ => simp only [State.setUnknown_pockets, State.setProbe_pockets, base, left, reduceCtorEq, if_false]

theorem State.place_unknown (pl : Place) (apart : ∀ a, pl ≠ .mounted a) : (s.place n pl).unknown = s.unknown := by
  obtain ⟨ks, leave⟩ := s.leave_fields n p.place
  obtain ⟨ps, displace⟩ := (s.leave n p.place).displace_fields n pl
  have stays : ((s.leave n p.place).displace n pl).unknown = s.unknown := by rw [displace, leave]
  unfold State.place
  rw [slot]
  cases pl with
  | mounted a => exact absurd rfl (apart a)
  | stored k => simpa only [State.modPocket_unknown, State.setProbe_unknown] using stays
  | inTransit a => simpa only [State.setProbe_unknown] using stays
  | lost => simpa only [State.setProbe_unknown] using stays

theorem State.mounted_unknown (a : Arm) : (s.place n (.mounted a)).unknown = s.unknown.set a false := by
  obtain ⟨ks, leave⟩ := s.leave_fields n p.place
  obtain ⟨ps, displace⟩ := (s.leave n p.place).displace_fields n (.mounted a)
  have stays : ((s.leave n p.place).displace n (.mounted a)).unknown = s.unknown := by rw [displace, leave]
  unfold State.place
  rw [slot]
  simp only [State.setUnknown_unknown, State.setProbe_unknown, stays]

end

theorem State.place_free {s : State} {n : Slot} (free : s.probes.get n = none) (pl : Place) : s.place n pl = s := by
  unfold State.place
  rw [free]

/-- A record that becomes LOST (R126). -/
theorem State.lose_probes (s : State) (n m : Slot) : (s.place n .lost).probes.get m
    = if m = n then (s.probes.get n).map fun p => { p with place := .lost } else s.probes.get m := by
  cases slot : s.probes.get n with
  | none =>
    rw [State.place_free slot]
    split
    · next same => rw [same, slot]; rfl
    · rfl
  | some p =>
    rw [State.place_probes slot]
    split
    · rfl
    · simp [Place.single]

theorem State.lose_pockets (s : State) (n : Slot) (k : PocketId) : (s.place n .lost).pockets.get k
    = if (∃ p, s.probes.get n = some p ∧ p.place = .stored k) ∧ (s.pockets.get k).state = .occupied n then
        { s.pockets.get k with state := .empty, unexpected := (s.pockets.get k).level }
      else s.pockets.get k := by
  cases slot : s.probes.get n with
  | none =>
    rw [State.place_free slot]
    simp
  | some p =>
    rw [State.place_pockets slot]
    simp

theorem State.lose_fields (s : State) (n : Slot) : ∃ ps ks, s.place n .lost = { s with probes := ps, pockets := ks } := by
  cases slot : s.probes.get n with
  | none => exact ⟨s.probes, s.pockets, State.place_free slot _⟩
  | some p =>
    obtain ⟨ps, ks, us, shape⟩ := s.place_fields n .lost
    have unknown := State.place_unknown slot .lost nofun
    rw [shape] at unknown
    exact ⟨ps, ks, by rw [shape, show us = s.unknown from unknown]⟩

/-! ### The record and pocket phase of an inventory -/

/-- A record whose pocket shows no presence, of the pockets below i (R141). -/
def State.absentBelow (s : State) (i : Nat) (n : Slot) : Prop :=
  ∃ k : PocketId, k.val < i ∧ (s.pockets.get k).state = .occupied n ∧ (s.pockets.get k).level = false

theorem State.judgePocket_occupied {s : State} {k : PocketId} {n : Slot} (state : (s.pockets.get k).state = .occupied n) :
    s.judgePocket k = if (s.pockets.get k).level then s else s.place n .lost := by
  simp only [State.judgePocket, state]

theorem State.judgePocket_empty {s : State} {k : PocketId} (state : (s.pockets.get k).state = .empty) :
    s.judgePocket k = s.modPocket k fun q => { q with unexpected := q.level } := by
  simp only [State.judgePocket, state]

theorem State.judgePocket_apart {s : State} {k : PocketId} (state : (s.pockets.get k).state = .reserved ∨ (s.pockets.get k).state = .disabled) :
    s.judgePocket k = s := by
  unfold State.judgePocket
  rcases state with state | state <;> simp only [state]

/-- State t is s after the pockets below i have been judged (R141). -/
structure JudgedBelow (s : State) (i : Nat) (t : State) : Prop where
  shape : t = { s with probes := t.probes, pockets := t.pockets }
  lost : ∀ n, s.absentBelow i n → t.probes.get n = (s.probes.get n).map fun p => { p with place := .lost }
  stays : ∀ n, ¬ s.absentBelow i n → t.probes.get n = s.probes.get n
  level : ∀ k, (t.pockets.get k).level = (s.pockets.get k).level
  apart : ∀ k, (s.pockets.get k).state = .reserved ∨ (s.pockets.get k).state = .disabled → t.pockets.get k = s.pockets.get k
  empty : ∀ k, (s.pockets.get k).state = .empty → t.pockets.get k
    = if k.val < i then { s.pockets.get k with unexpected := (s.pockets.get k).level } else s.pockets.get k
  seated : ∀ k n, (s.pockets.get k).state = .occupied n →
    t.pockets.get k = s.pockets.get k ∨ (s.absentBelow i n ∧ (t.pockets.get k).state = .empty)
  left : ∀ k n r, s.absentBelow i n → (s.pockets.get k).state = .occupied n → s.probes.get n = some r →
    r.place = .stored k → (t.pockets.get k).state = .empty

theorem State.absentBelow_succ {s : State} {i : PocketId} {n : Slot} : s.absentBelow (i.val + 1) n
    ↔ s.absentBelow i.val n ∨ ((s.pockets.get i).state = .occupied n ∧ (s.pockets.get i).level = false) := by
  constructor
  · rintro ⟨k, below, occupied, level⟩
    rcases Nat.lt_succ_iff_lt_or_eq.1 below with earlier | same
    · exact .inl ⟨k, earlier, occupied, level⟩
    · obtain rfl : k = i := Fin.ext same
      exact .inr ⟨occupied, level⟩
  · rintro (⟨k, below, occupied, level⟩ | ⟨occupied, level⟩)
    · exact ⟨k, Nat.lt_succ_of_lt below, occupied, level⟩
    · exact ⟨i, Nat.lt_succ_self _, occupied, level⟩

section
variable {s t : State} {i : PocketId} (ih : JudgedBelow s i.val t)
include ih

/-- A pocket whose judgement changes no record. -/
theorem JudgedBelow.step_quiet (quiet : ∀ n, (s.pockets.get i).state = .occupied n → (s.pockets.get i).level = true ∨ s.absentBelow i.val n)
    {u : State} (shape : u = { t with pockets := u.pockets }) (others : ∀ k, k ≠ i → u.pockets.get k = t.pockets.get k)
    (here : u.pockets.get i = if (t.pockets.get i).state = .empty then { t.pockets.get i with unexpected := (t.pockets.get i).level }
      else t.pockets.get i) : JudgedBelow s (i.val + 1) u := by
  have absent : ∀ n, s.absentBelow (i.val + 1) n ↔ s.absentBelow i.val n := fun n => by
    rw [State.absentBelow_succ, or_iff_left_iff_imp]
    rintro ⟨occupied, level⟩
    exact (quiet n occupied).resolve_left (by rw [level]; decide)
  have probes : u.probes = t.probes := by rw [shape]
  have below : ∀ k : PocketId, k ≠ i → (k.val < i.val + 1 ↔ k.val < i.val) := fun k apart =>
    ⟨fun below => Nat.lt_of_le_of_ne (Nat.lt_succ_iff.1 below) fun same => apart (Fin.ext same), Nat.lt_succ_of_lt⟩
  refine { shape := ?_, lost := fun n is => ?_, stays := fun n is => ?_, level := fun k => ?_, apart := fun k is => ?_, empty := fun k is => ?_,
           seated := fun k n is => ?_, left := fun k n r gone occupied slot place => ?_ }
  · rw [shape, ih.shape]
  · rw [probes]; exact ih.lost n ((absent n).1 is)
  · rw [probes]; exact ih.stays n (mt (absent n).2 is)
  · by_cases same : k = i
    · subst same
      rw [here, ← ih.level k]
      split <;> rfl
    · rw [others k same]; exact ih.level k
  · by_cases same : k = i
    · subst same
      have state : (t.pockets.get k).state ≠ .empty := by
        rw [ih.apart k is]
        rcases is with is | is <;> rw [is] <;> nofun
      rw [here, if_neg state, ih.apart k is]
    · rw [others k same]; exact ih.apart k is
  · by_cases same : k = i
    · subst same
      have still := ih.empty k is
      rw [if_neg (Nat.lt_irrefl _)] at still
      rw [here, still, if_pos is, if_pos (Nat.lt_succ_self _)]
    · rw [others k same, ih.empty k is]
      simp only [below k same]
  · by_cases same : k = i
    · subst same
      rcases ih.seated k n is with still | ⟨gone, state⟩
      · exact .inl (by rw [here, still, if_neg (by rw [is]; nofun)])
      · exact .inr ⟨(absent n).2 gone, by rw [here, if_pos state]; exact state⟩
    · rw [others k same]
      exact (ih.seated k n is).imp_right fun ⟨gone, state⟩ => ⟨(absent n).2 gone, state⟩
  · have state := ih.left k n r ((absent n).1 gone) occupied slot place
    by_cases same : k = i
    · subst same
      rw [here, if_pos state]; exact state
    · rw [others k same]; exact state

/-- A pocket without presence makes its record LOST. -/
theorem JudgedBelow.step_absent {n : Slot} (occupied : (s.pockets.get i).state = .occupied n) (level : (s.pockets.get i).level = false) :
    JudgedBelow s (i.val + 1) (t.place n .lost) := by
  obtain ⟨ps, ks, fields⟩ := t.lose_fields n
  have absent : ∀ m, s.absentBelow (i.val + 1) m ↔ s.absentBelow i.val m ∨ m = n := fun m => by
    rw [State.absentBelow_succ, occupied, level]
    simp [eq_comm]
  have kept : ∀ k, (t.pockets.get k).state ≠ .occupied n → (t.place n .lost).pockets.get k = t.pockets.get k := fun k other => by
    rw [State.lose_pockets, if_neg (fun is => other is.2)]
  refine { shape := ?_, lost := fun m is => ?_, stays := fun m is => ?_, level := fun k => ?_, apart := fun k is => ?_, empty := fun k is => ?_,
           seated := fun k m is => ?_, left := fun k m r gone there slot place => ?_ }
  · rw [fields, ih.shape]
  · rw [State.lose_probes]
    split
    · next same =>
      subst same
      by_cases before : s.absentBelow i.val m
      · rw [ih.lost m before, Option.map_map]; rfl
      · rw [ih.stays m before]
    · next other => exact ih.lost m (((absent m).1 is).resolve_right other)
  · rw [State.lose_probes, if_neg (fun same => is ((absent m).2 (.inr same)))]
    exact ih.stays m fun before => is ((absent m).2 (.inl before))
  · rw [State.lose_pockets, ← ih.level k]
    split <;> rfl
  · have still := ih.apart k is
    rw [kept k (by rw [still]; rcases is with is | is <;> rw [is] <;> nofun), still]
  · have still := ih.empty k is
    have other : k ≠ i := fun same => by rw [same, occupied] at is; cases is
    have below : k.val < i.val + 1 ↔ k.val < i.val :=
      ⟨fun below => Nat.lt_of_le_of_ne (Nat.lt_succ_iff.1 below) fun same => other (Fin.ext same), Nat.lt_succ_of_lt⟩
    rw [kept k (by rw [still]; split <;> simp [is]), still]
    simp only [below]
  · rcases ih.seated k m is with still | ⟨gone, state⟩
    · rw [State.lose_pockets, still, is]
      split
      · next left =>
        cases left.2
        exact .inr ⟨(absent n).2 (.inr rfl), rfl⟩
      · exact .inl rfl
    · exact .inr ⟨(absent m).2 (.inl gone), by rw [kept k (by rw [state]; nofun)]; exact state⟩
  · by_cases before : s.absentBelow i.val m
    · have state := ih.left k m r before there slot place
      rw [kept k (by rw [state]; nofun)]
      exact state
    · have same := ((absent m).1 gone).resolve_left before
      subst same
      have still := (ih.seated k m there).resolve_right fun is => before is.1
      rw [State.lose_pockets, if_pos ⟨⟨r, by rw [ih.stays m before, slot], place⟩, by rw [still, there]⟩]

/-- The judgement of one pocket (R141). -/
theorem JudgedBelow.step : JudgedBelow s (i.val + 1) (t.judgePocket i) := by
  have quiet : (∀ n, (s.pockets.get i).state = .occupied n → (s.pockets.get i).level = true ∨ s.absentBelow i.val n) →
      (t.pockets.get i).state ≠ .empty → JudgedBelow s (i.val + 1) t := fun quiet state =>
    ih.step_quiet quiet rfl (fun _ _ => rfl) (by rw [if_neg state])
  cases state : (t.pockets.get i).state with
  | occupied n =>
    rw [State.judgePocket_occupied state]
    have same : t.pockets.get i = s.pockets.get i := by
      cases before : (s.pockets.get i).state with
      | occupied m => exact (ih.seated i m before).resolve_right fun is => by rw [state] at is; cases is.2
      | empty => rw [ih.empty i before, if_neg (Nat.lt_irrefl _)]
      | reserved => exact ih.apart i (.inl before)
      | disabled => exact ih.apart i (.inr before)
    rw [same] at state
    rw [same]
    cases level : (s.pockets.get i).level with
    | true => exact quiet (fun _ _ => .inl level) (by rw [same, state]; nofun)
    | false => exact ih.step_absent state level
  | empty =>
    rw [State.judgePocket_empty state]
    refine ih.step_quiet (fun n is => ?_) rfl (fun k other => ?_) ?_
    · rcases ih.seated i n is with still | ⟨gone, -⟩
      · rw [still, is] at state; cases state
      · exact .inr gone
    · rw [State.modPocket_pockets, Table.get_put, if_neg other]
    · rw [if_pos state, State.modPocket_pockets, Table.get_put, if_pos rfl]
  | reserved =>
    rw [State.judgePocket_apart (.inl state)]
    refine quiet (fun n is => ?_) (by rw [state]; nofun)
    rcases ih.seated i n is with still | ⟨gone, -⟩
    · rw [still, is] at state; cases state
    · exact .inr gone
  | disabled =>
    rw [State.judgePocket_apart (.inr state)]
    refine quiet (fun n is => ?_) (by rw [state]; nofun)
    rcases ih.seated i n is with still | ⟨gone, -⟩
    · rw [still, is] at state; cases state
    · exact .inr gone

end

/-- Every pocket judged (R141): state t is s after the record and pocket phase. -/
abbrev Judged (s t : State) : Prop := JudgedBelow s 12 t

/-- A record whose pocket shows no presence (R141). -/
abbrev State.absent (s : State) (n : Slot) : Prop := s.absentBelow 12 n

theorem State.absent_iff {s : State} {n : Slot} :
    s.absent n ↔ ∃ k, (s.pockets.get k).state = .occupied n ∧ (s.pockets.get k).level = false :=
  ⟨fun ⟨k, _, is⟩ => ⟨k, is⟩, fun ⟨k, is⟩ => ⟨k, k.isLt, is⟩⟩

theorem allPockets_judged (s : State) : Judged s (allPockets.foldl State.judgePocket s) := by
  refine foldl_finRange_induction (fun i t => JudgedBelow s i t) ?_ fun t i ih => ih.step
  exact { shape := rfl, lost := fun _ is => absurd is.choose_spec.1 (Nat.not_lt_zero _), stays := fun _ _ => rfl, level := fun _ => rfl,
          apart := fun _ _ => rfl, empty := fun k _ => by rw [if_neg (Nat.not_lt_zero _)], seated := fun _ _ _ => .inl rfl,
          left := fun _ _ _ is => absurd is.choose_spec.1 (Nat.not_lt_zero _) }

/-- An inventory starts with both arms to read (R140, R141). -/
theorem startInventory_both {s : State} (free : ∀ b, s.change.get b = none) : ∃ t changed, Judged s t ∧ startInventory s
    = ({ t with inventory := .running false ⟨.asked, .asked⟩ changed,
                readers := ⟨s.readers.a.ask .inventory, s.readers.b.ask .inventory⟩ }, []) := by
  have judged := allPockets_judged s
  have arms : s.readArms = ⟨true, true⟩ := by
    have a : s.change.a = none := free .A
    have b : s.change.b = none := free .B
    simp [State.readArms, PerArm.map, a, b]
  refine ⟨_, decide ((allPockets.foldl State.judgePocket s).judged ≠ s.judged), judged, ?_⟩
  have readers : (allPockets.foldl State.judgePocket s).readers = s.readers := by rw [judged.shape]
  unfold startInventory
  simp [arms, PerArm.map, State.askRead, State.modReader, readers, PerArm.set, PerArm.get]

end Sys2Proof.Machine
end
section
/-! PROOFS. Drops and picks (O54). -/
namespace Sys2Proof.Machine
open Sys2Proof.Safety

/-! ### The end of a read -/

theorem readEnds_idle {s : State} {a : Arm} (idle : (s.readers.get a).inFlight = none) (ans : PridAnswer) : readEnds a ans s = s := by
  simp only [readEnds, idle]

theorem readEnds_one {s : State} {a : Arm} {k : Asker} {p : Option (List Asker)} (reader : s.readers.get a = ⟨some [k], p⟩)
    (ans : PridAnswer) : readEnds a ans s = (settle (deliver a (readResult ans) k s)).modReader a Reader.next := by
  simp only [readEnds, reader, List.foldl_cons, List.foldl_nil]

/-- An answer that carries an identity (R128). -/
def Coded (ans : PridAnswer) : Prop := ∃ code, ans = .code code ∧ 1 ≤ code ∧ code ≤ 4294967294

theorem readResult_present {ans : PridAnswer} {code : Nat} : readResult ans = .present code
    ↔ ans = .code code ∧ 1 ≤ code ∧ code ≤ 4294967294 := by
  cases ans with
  | silent => simp [readResult]
  | garbled => simp [readResult]
  | code c =>
    simp only [readResult, Bool.and_eq_true, decide_eq_true_eq, PridAnswer.code.injEq]
    split
    · next within =>
      rw [ReadResult.present.injEq]
      exact ⟨fun same => ⟨same, same ▸ within⟩, fun h => h.1⟩
    · next beyond => exact ⟨nofun, fun ⟨same, within⟩ => absurd (same ▸ within) beyond⟩

theorem readResult_missing {ans : PridAnswer} (uncoded : ¬ Coded ans) : readResult ans = .absent ∨ readResult ans = .error := by
  cases found : readResult ans with
  | absent => exact .inl rfl
  | error => exact .inr rfl
  | present code => exact absurd ⟨code, readResult_present.1 found⟩ uncoded

/-! ### The recompute of changed mounts, before another piece -/

theorem runs_remount {u : State} (unawaited : u.waiters = []) (s t : State) : ∃ v, Runs 8 (remount s t) u v ∧ ExceptZones u v := by
  have one : ∀ (a : Arm) (p : Prop) [Decidable p] (u : State), u.waiters = [] →
      ∃ v, Runs 4 (if p then [.recompute a] else []) u v ∧ ExceptZones u v := fun a p _ u unawaited => by
    split
    · exact Runs.of_contained (recompute_contained a) unawaited
    · exact ⟨u, (Runs.nil u).mono (by decide), rfl⟩
  obtain ⟨v, first, kept⟩ := one .A (s.mount .A ≠ t.mount .A ∨ s.reach .A ≠ t.reach .A) u unawaited
  have still : v.waiters = [] := by rw [kept, unawaited]
  obtain ⟨w, second, kept2⟩ := one .B (s.mount .B ≠ t.mount .B ∨ s.reach .B ≠ t.reach .B) v still
  refine ⟨w, ?_, ExceptZones_trans kept kept2⟩
  simpa only [remount, Bool.or_eq_true, decide_eq_true_eq] using first.append second

/-! ### A drop read -/

theorem dropRead_present (a : Arm) (code : Nat) (s : State) : dropRead a (.present code) s = (s, []) := by
  unfold dropRead
  cases s.change.get a <;> rfl

theorem dropRead_missing {s : State} {a : Arm} {k : Context} {r : ReadResult} (change : s.change.get a = some k)
    (missing : r = .absent ∨ r = .error) (step : k.step = .awaitDrop) (unsure : k.dropConfirmed = false) :
    dropRead a r s = (confirmDrop a s, []) := by
  unfold dropRead
  rcases missing with rfl | rfl <;> simp only [change, step, unsure] <;> rfl

/-- The sequencer after a confirmed drop of context k (R151). -/
def State.dropped (s : State) (a : Arm) (k : Context) : State :=
  State.raise { s with
    readers := s.readers.set a ((s.readers.get a).discard fun q => decide (q = .drop) || decide (q = .pick))
    change := s.change.set a (some { k with
      dropConfirmed := true, step := if k.take = none then .awaitDrop else .awaitPick })
    rack := { s.rack with
      dropTimer := none
      stepTimer := if k.take = none then none else some ⟨s.settings.stepTimeout * 10000000, 0⟩ } } a.link .changeStep

theorem State.dropped_eq {t : State} {a : Arm} {k : Context} (change : t.change.get a = some k) :
    (if k.take.isSome then (((t.modContext a fun c =>
        { c with dropConfirmed := true, step := if c.take.isSome then .awaitPick else .awaitDrop }).dropReads a).modRack fun r =>
          { r with stepTimer := none }).startStepTimer
      else ((t.modContext a fun c =>
        { c with dropConfirmed := true, step := if c.take.isSome then .awaitPick else .awaitDrop }).dropReads a).modRack fun r =>
          { r with stepTimer := none }).raise a.link .changeStep = t.dropped a k := by
  unfold State.dropped
  cases take : k.take <;> simp [State.modContext, change, take, State.dropReads, State.modReader, State.modRack, State.setContext,
    State.startStepTimer]

theorem confirmDrop_unknown {s : State} {a : Arm} {k : Context} {p : PocketId} (change : s.change.get a = some k)
    (drop : k.drop = some (p, .unknown)) (reserved : (s.pockets.get p).state = .reserved) : confirmDrop a s
    = State.dropped { s with
        unknown := s.unknown.set a false
        pockets := Table.put s.pockets p { s.pockets.get p with state := .empty, unexpected := true } } a k := by
  rw [← State.dropped_eq (by exact change)]
  simp only [confirmDrop, change, drop, State.modPocket, reserved, if_true, State.setUnknown]

theorem confirmDrop_slot {s : State} {a : Arm} {k : Context} {p : PocketId} {n : Slot} (change : s.change.get a = some k)
    (drop : k.drop = some (p, .slot n)) : confirmDrop a s = (s.place n (.stored p)).dropped a k := by
  obtain ⟨ps, ks, us, shape⟩ := s.place_fields n (.stored p)
  have still : (s.place n (.stored p)).change.get a = some k := by rw [shape]; exact change
  rw [← State.dropped_eq still]
  simp only [confirmDrop, change, drop]

/-! ### A pick read -/

theorem pickRead_eq {s : State} {a : Arm} {k : Context} {p : PocketId} {n : Slot} {r : Probe} (change : s.change.get a = some k)
    (take : k.take = some (p, n)) (step : k.step = .awaitPick) (unsure : k.pickConfirmed = false) (slot : s.probes.get n = some r)
    (x : ReadResult) : ((∃ code, x = .present code ∧ idMatch s.settings.matchMode r.identity code = true) →
      pickRead a x s = (confirmPick a n p s, remount s (confirmPick a n p s)))
    ∧ ((∀ code, x = .present code → idMatch s.settings.matchMode r.identity code = false) → pickRead a x s = failPick a n x s) := by
  constructor
  · rintro ⟨code, rfl, fits⟩
    simp [pickRead, change, take, step, unsure, slot, fits]
  · intro none
    cases x with
    | absent => simp [pickRead, change, take, step, unsure]
    | error => simp [pickRead, change, take, step, unsure]
    | present code => simp [pickRead, change, take, step, unsure, slot, none code rfl]

/-! ### Notices stay raised -/

theorem State.raise_kept {s : State} {l m : Link} {j : Notice} (k : Notice) (raised : j ∈ (s.links.get m).flags) :
    j ∈ ((s.raise l k).links.get m).flags := by
  by_cases same : m = l
  · subst same
    rw [State.raise_flags, mem_addNotice]
    exact .inr raised
  · rw [State.raise, State.modLink_links, PerLink.get_set_ne _ _ same]
    exact raised

theorem State.raise_raised (s : State) (l : Link) (k : Notice) : k ∈ ((s.raise l k).links.get l).flags := by
  rw [State.raise_flags, mem_addNotice]
  exact .inl rfl

theorem State.report_kept {s : State} {m : Link} {j : Notice} (r : FaultReport) (raised : j ∈ (s.links.get m).flags) :
    j ∈ ((s.report r).links.get m).flags := by
  unfold State.report
  split
  · exact raised
  · exact State.raise_kept _ raised

theorem State.report_faultCount (s : State) (r : FaultReport) : (s.report r).faultCount = min (s.faultCount + 1) 65535 := by
  unfold State.report
  split <;> rfl

theorem State.report_shape (s : State) (r : FaultReport) : s.report r = { s with
    faultCount := (s.report r).faultCount, trap := (s.report r).trap, links := (s.report r).links } := by
  unfold State.report
  split <;> rfl

/-! ### The mount of an arm -/

theorem State.mount_mounted {s : State} {a : Arm} {n : Slot} {r : Probe} (slot : s.probes.get n = some r) (here : r.place = .mounted a)
    (alone : ∀ m q, s.probes.get m = some q → q.place = .mounted a → m = n) : s.mount a = .record n := by
  cases found : s.mountedOn a with
  | none => exact absurd ⟨r, slot, here⟩ (mountedOn_none found n)
  | some m =>
    obtain ⟨q, there, place⟩ := mountedOn_some found
    simp only [State.mount, found, alone m q there place]

theorem State.mount_unmounted {s : State} {a : Arm} (free : s.change.get a = none)
    (bare : ∀ n q, s.probes.get n = some q → q.place ≠ .mounted a) : s.mount a = if s.unknown.get a then .unknown else .none := by
  have none : s.mountedOn a = none := Option.isNone_iff_eq_none.1 ((s.mountedOn_isNone_iff a).2 bare)
  simp only [State.mount, none, State.transitOf, free]

/-! ### A confirmed pick -/

theorem confirmPick_spec {s : State} {a : Arm} {k : Context} {p : PocketId} {n : Slot} {r : Probe} (change : s.change.get a = some k)
    (slot : s.probes.get n = some r) (moving : r.place = .inTransit a) (reserved : (s.pockets.get p).state = .reserved) :
    ∃ (ps : Table 32 (Option Probe)) (ks : Table 12 Pocket), confirmPick a n p s = State.raise { s with
        probes := ps, pockets := ks, unknown := s.unknown.set a false
        change := s.change.set a (some { k with pickConfirmed := true })
        rack := { s.rack with stepTimer := none } } a.link .changeStep
      ∧ ps.get n = some { r with place := .mounted a, mountCount := min (r.mountCount + 1) 65535, corrupt := false }
      ∧ (∀ m, m ≠ n → ps.get m = (s.probes.get m).map fun q => if q.place = .mounted a then { q with place := .lost } else q)
      ∧ ks.get p = { s.pockets.get p with state := .empty, unexpected := (s.pockets.get p).level } := by
  have unknown := State.mounted_unknown slot a
  have probes := State.place_probes slot (.mounted a)
  have pockets := State.place_pockets slot (.mounted a) p
  obtain ⟨ps, ks, us, shape⟩ := s.place_fields n (.mounted a)
  rw [shape] at unknown probes pockets
  simp only [moving, reduceCtorEq, if_false, false_and] at unknown probes pockets
  subst unknown
  have still : (ks.get p).state = .reserved := by rw [pockets, reserved]
  refine ⟨Table.put ps n ((ps.get n).map fun r => { r with mountCount := min (r.mountCount + 1) 65535, corrupt := false }),
    Table.put ks p { ks.get p with state := .empty, unexpected := (ks.get p).level }, ?_, ?_, fun m other => ?_, ?_⟩
  · unfold confirmPick
    rw [shape]
    simp only [still, if_true, State.vacate, State.modPocket, State.modProbe, State.setProbe, State.modContext, State.setContext,
      change, Option.map_some, State.modRack]
  · rw [Table.get_put, if_pos rfl, probes, if_pos rfl]
    rfl
  · rw [Table.get_put, if_neg other, probes, if_neg other]
    simp [Place.single]
  · rw [Table.get_put, if_pos rfl, pockets]

/-! ### A failed pick -/

/-- Context k left FAILED_OPEN with a reason (R153, R154, R159, R162). -/
def State.leftOpen (s : State) (a : Arm) (k : Context) (why : FailReason) : State :=
  State.raise { s with
    readers := s.readers.set a ((s.readers.get a).discard fun q => decide (q = .drop) || decide (q = .pick))
    change := s.change.set a (some { k with step := .failedOpen, failure := some why })
    rack := { s.rack with dropTimer := none, stepTimer := none } } a.link .changeStep

theorem State.failOpen_eq {s : State} {a : Arm} {k : Context} (change : s.change.get a = some k) (why : FailReason) :
    s.failOpen a why = s.leftOpen a k why := by
  simp only [State.failOpen, State.leftOpen, State.modContext, change, Option.map_some, State.setContext, State.dropReads,
    State.modReader, State.modRack]

theorem failPick_spec {s : State} {a : Arm} {k : Context} {n : Slot} {r : Probe} (change : s.change.get a = some k)
    (slot : s.probes.get n = some r) (x : ReadResult) :
    ∃ (ps : Table 32 (Option Probe)) (ks : Table 12 Pocket) (v : Bool) (report : FaultReport) (t : State), failPick a n x s
      = ((State.leftOpen { s with probes := ps, pockets := ks, unknown := s.unknown.set a v } a k .idMismatch).report report,
          remount s t ++ [.holdRequest a])
      ∧ ps.get n = some { r with place := .lost } ∧ (v = true ↔ ∃ code, x = .present code) := by
  have probes := s.lose_probes n n
  obtain ⟨ps, ks, shape⟩ := s.lose_fields n
  rw [if_pos rfl, slot, shape] at probes
  have failed : ∀ v, ((s.place n .lost).setUnknown a v).failOpen a .idMismatch
      = State.leftOpen { s with probes := ps, pockets := ks, unknown := s.unknown.set a v } a k .idMismatch := fun v => by
    rw [shape]
    exact State.failOpen_eq (s := { s with probes := ps, pockets := ks, unknown := s.unknown.set a v }) change .idMismatch
  cases x with
  | present code => exact ⟨ps, ks, true, _, _, by simp only [failPick, failed]; rfl, probes, iff_of_true rfl ⟨code, rfl⟩⟩
  | absent => exact ⟨ps, ks, false, _, _, by simp only [failPick, failed]; rfl, probes, iff_of_false nofun nofun⟩
  | error => exact ⟨ps, ks, false, _, _, by simp only [failPick, failed]; rfl, probes, iff_of_false nofun nofun⟩

theorem settle_failPick {s : State} {a : Arm} {k : Context} {n : Slot} {r : Probe} (change : s.change.get a = some k)
    (slot : s.probes.get n = some r) (unawaited : s.waiters = []) (idle : (s.motion.get a).phase = .idle) (x : ReadResult) :
    ∃ (ps : Table 32 (Option Probe)) (ks : Table 12 Pocket) (v : Bool) (report : FaultReport),
      ExceptZones (((State.leftOpen { s with probes := ps, pockets := ks, unknown := s.unknown.set a v } a k .idMismatch).report
        report).hold a .idMismatch) (settle (failPick a n x s))
      ∧ ps.get n = some { r with place := .lost } ∧ (v = true ↔ ∃ code, x = .present code) := by
  obtain ⟨ps, ks, v, report, t, fails, lost, known⟩ := failPick_spec change slot x
  refine ⟨ps, ks, v, report, ?_, lost, known⟩
  have phase : (((State.leftOpen { s with probes := ps, pockets := ks, unknown := s.unknown.set a v } a k .idMismatch).report
      report).motion.get a).phase = .idle := by
    rw [State.report_motion]
    exact idle
  have still : ((State.leftOpen { s with probes := ps, pockets := ks, unknown := s.unknown.set a v } a k .idMismatch).report
      report).waiters = [] := by
    rw [State.report_waiters]
    exact unawaited
  rw [fails]
  generalize (State.leftOpen { s with probes := ps, pockets := ks, unknown := s.unknown.set a v } a k .idMismatch).report report = u
    at phase still
  obtain ⟨w, run, kept⟩ := runs_remount still s t
  have rests : (w.motion.get a).phase = .idle := by rw [kept]; exact phase
  have holds : Runs 1 [.holdRequest a] w (w.hold a .idMismatch) :=
    Runs.piece (e := (w.hold a .idMismatch, [])) (by simp only [perform, holdRequest, rests]) (Runs.nil _)
  rw [(run.append holds).settle (by decide)]
  obtain ⟨_, _, _, _, _, rfl⟩ := ExceptZones_update kept
  simp only [State.hold_shape]
  rfl

/-! ### The obligation -/

/-- Settles O54: each read's end by its result, the cascade of changed mounts touching zone fields alone. -/
theorem dropAndPick : Obligations.DropAndPick := by
  unfold Obligations.DropAndPick
  intro coded
  refine ⟨fun a ans k p s change reader step unsure => ⟨fun is => ?_, fun uncoded drop reserved => ?_⟩,
    fun a ans k p n r s change slot moving reserved unawaited => ⟨fun reader step unsure drop uncoded => ?_,
      fun reader step unsure take alone => ⟨fun code answer low high fits => ?_, fun misfits idle => ?_⟩⟩⟩
  · obtain ⟨code, found⟩ := is
    refine congrArg Host.Outcome.next ((readEnds_one reader ans).trans ?_)
    rw [readResult_present.2 found, deliver, dropRead_present, settle_nil, State.modReader, reader]
    rfl
  · refine congrArg Host.Outcome.next ((readEnds_one reader ans).trans ?_)
    rw [deliver, dropRead_missing change (readResult_missing uncoded) step unsure, settle_nil, confirmDrop_unknown change drop reserved]
    cases a <;> simp only [State.modReader, State.dropped, State.raise, State.modLink, PerArm.get_set, reader] <;> rfl
  · refine ⟨((s.place n (.stored p)).dropped a k).modReader a Reader.next,
      congrArg Host.Outcome.next ((readEnds_one reader ans).trans ?_), ?_⟩
    · rw [deliver, dropRead_missing change (readResult_missing uncoded) step unsure, settle_nil, confirmDrop_slot change drop]
    · have probes := State.place_probes slot (.stored p) n
      have pockets := State.place_pockets slot (.stored p) p
      obtain ⟨ps, ks, us, shape⟩ := s.place_fields n (.stored p)
      rw [if_pos rfl] at probes pockets
      rw [shape] at probes pockets ⊢
      refine ⟨probes, by exact congrArg Pocket.state pockets, PerArm.get_set _ _ _, rfl, rfl, ?_, State.raise_raised _ _ _, rfl, rfl, rfl, rfl⟩
      cases a <;> simp only [State.modReader, State.dropped, State.raise, State.modLink, PerArm.get_set, reader] <;> rfl
  · have reads : pickRead a (readResult ans) s = (confirmPick a n p s, remount s (confirmPick a n p s)) :=
      (pickRead_eq change take step unsure slot _).1 ⟨code, readResult_present.2 ⟨answer, low, high⟩, fits⟩
    obtain ⟨ps, ks, picked, here, others, emptied⟩ := confirmPick_spec change slot moving reserved
    refine ⟨_, congrArg Host.Outcome.next ((readEnds_one reader ans).trans (by rw [deliver, reads])), ?_⟩
    have still : (confirmPick a n p s).waiters = [] := by rw [picked]; exact unawaited
    have kept := settle_remount (s := s) (t := confirmPick a n p s) still
    rw [picked] at kept ⊢
    obtain ⟨_, _, _, _, _, rest⟩ := ExceptZones_update kept
    rw [rest]
    refine ⟨here, congrArg Pocket.state emptied, congrArg Pocket.unexpected emptied, ?_,
      PerArm.get_set _ _ _, PerArm.get_set _ _ _, rfl, State.raise_raised _ _ _, rfl, rfl, rfl, rfl⟩
    refine State.mount_mounted here rfl fun m q there place => Decidable.byContradiction fun other => ?_
    obtain ⟨x, before, same⟩ := Option.map_eq_some_iff.1 ((others m other).symm.trans there)
    rw [if_neg (alone m x other before)] at same
    exact alone m x other before (same ▸ place)
  · have reads : pickRead a (readResult ans) s = failPick a n (readResult ans) s :=
      (pickRead_eq change take step unsure slot _).2 fun code found =>
        misfits code (readResult_present.1 found).1 (readResult_present.1 found).2.1 (readResult_present.1 found).2.2
    refine ⟨_, congrArg Host.Outcome.next ((readEnds_one reader ans).trans (by rw [deliver, reads])), ?_⟩
    obtain ⟨ps, ks, v, report, kept, lost, known⟩ := settle_failPick change slot unawaited idle (readResult ans)
    have raised : Notice.changeStep ∈ (((State.leftOpen { s with probes := ps, pockets := ks, unknown := s.unknown.set a v } a k
      .idMismatch).report report).links.get a.link).flags := State.report_kept _ (State.raise_raised _ _ _)
    have count := State.report_faultCount (State.leftOpen { s with probes := ps, pockets := ks, unknown := s.unknown.set a v } a k
      .idMismatch) report
    have named : (v = true ↔ ∃ code, ans = .code code ∧ 1 ≤ code ∧ code ≤ 4294967294) :=
      known.trans (exists_congr fun code => readResult_present)
    have reported := State.report_shape (State.leftOpen { s with probes := ps, pockets := ks, unknown := s.unknown.set a v } a k
      .idMismatch) report
    generalize (State.leftOpen { s with probes := ps, pockets := ks, unknown := s.unknown.set a v } a k .idMismatch).report report = u
      at kept raised count reported
    have held : Notice.armHeld ∈ ((u.raise a.link .armHeld).links.get a.link).flags := State.raise_raised _ _ _
    have stepped := State.raise_kept (l := a.link) .armHeld raised
    obtain ⟨_, _, _, _, _, rest⟩ := ExceptZones_update kept
    rw [rest, State.hold_shape]
    rw [reported] at count held stepped ⊢
    refine ⟨lost, PerArm.get_set _ _ _, ?_, rfl, count, PerArm.get_set _ _ _, PerArm.get_set_ne _ _ (by cases a <;> decide), held,
      stepped, rfl⟩
    rw [← named]
    exact iff_of_eq (congrArg (· = true) (PerArm.get_set s.unknown a v))

end Sys2Proof.Machine
end
section
/-! PROOFS. The resolution of an inventory (R142) and the step to READY (O10). -/
namespace Sys2Proof.Machine
open Sys2Proof.Safety

theorem Table.ext_get {α : Type} {n : Nat} {u v : Table n α} (same : ∀ i, u.get i = v.get i) : u = v :=
  Vector.ext fun i below => same ⟨i, below⟩

/-! ### Records of an arm lost -/

/-- A record after every record MOUNTED on an arm has become LOST. -/
def Probe.unless (p : Probe) (a : Arm) : Probe := if p.place = .mounted a then { p with place := .lost } else p

theorem Probe.unless_place {p : Probe} {a : Arm} : (p.unless a).place = if p.place = .mounted a then .lost else p.place := by
  unfold Probe.unless
  split <;> rfl

theorem Probe.unless_both (p : Probe) (a : Arm) : ((p.unless .A).unless .B).place ≠ .mounted a := by
  rw [Probe.unless_place, Probe.unless_place]
  cases a
  · (repeat' split) <;> simp_all
  · (repeat' split) <;> simp_all

theorem State.lose_mounted {s : State} {n : Slot} {p : Probe} {a : Arm} (slot : s.probes.get n = some p) (here : p.place = .mounted a) :
    s.place n .lost = { s with probes := (s.place n .lost).probes } := by
  obtain ⟨ps, ks, shape⟩ := s.lose_fields n
  have pockets : (s.place n .lost).pockets = s.pockets := Table.ext_get fun k => by
    rw [State.lose_pockets, if_neg]
    rintro ⟨⟨q, there, place⟩, -⟩
    rw [slot] at there
    cases there
    rw [here] at place
    cases place
  rw [shape] at pockets ⊢
  rw [show ks = s.pockets from pockets]

/-- The records MOUNTED on an arm are LOST, but one that is kept (R142). -/
theorem State.loseMounted_spec (s : State) (a : Arm) (keep : Option Slot) :
    s.loseMounted a keep = { s with probes := (s.loseMounted a keep).probes }
    ∧ ∀ n, (s.loseMounted a keep).probes.get n = if keep = some n then s.probes.get n else (s.probes.get n).map (Probe.unless · a) := by
  have folded := foldl_finRange_induction (n := 32) (b := s)
    (f := fun t n => if (t.probes.get n).any (fun p => decide (p.place = .mounted a)) && decide (some n ≠ keep) then t.place n .lost else t)
    (fun i t => t = { s with probes := t.probes }
      ∧ ∀ n : Slot, t.probes.get n = if n.val < i ∧ keep ≠ some n then (s.probes.get n).map (Probe.unless · a) else s.probes.get n)
    ⟨rfl, fun n => (if_neg fun h => Nat.not_lt_zero _ h.1).symm⟩ fun i t ⟨shape, below⟩ => by
      have here : t.probes.get i = s.probes.get i := by rw [below, if_neg fun h => Nat.lt_irrefl _ h.1]
      have others : ∀ n : Slot, n ≠ i → (n.val < i.val + 1 ↔ n.val < i.val) := fun n apart =>
        ⟨fun le => Nat.lt_of_le_of_ne (Nat.lt_succ_iff.1 le) fun same => apart (Fin.ext same), Nat.lt_succ_of_lt⟩
      by_cases loses : ((t.probes.get i).any (fun p => decide (p.place = .mounted a)) && decide (some i ≠ keep)) = true
      · rw [if_pos loses]
        rw [Bool.and_eq_true, Option.any_eq_true, decide_eq_true_eq] at loses
        obtain ⟨⟨p, slot, place⟩, other⟩ := loses
        have place := of_decide_eq_true place
        refine ⟨by rw [State.lose_mounted slot place, shape], fun n => ?_⟩
        rw [State.lose_probes]
        by_cases same : n = i
        · subst same
          rw [if_pos rfl, if_pos ⟨Nat.lt_succ_self _, Ne.symm other⟩, ← here, slot, Option.map_some, Option.map_some, Probe.unless,
            if_pos place]
        · rw [if_neg same, below]
          simp only [others n same]
      · rw [if_neg loses]
        refine ⟨shape, fun n => ?_⟩
        by_cases same : n = i
        · subst same
          rw [here]
          by_cases kept : keep = some n
          · rw [if_neg fun h => h.2 kept]
          · rw [if_pos ⟨Nat.lt_succ_self _, kept⟩]
            cases slot : s.probes.get n with
            | none => rfl
            | some p =>
              rw [Option.map_some, Probe.unless, if_neg]
              intro place
              exact loses (by simp [here, slot, place, Ne.symm kept])
        · rw [below]
          simp only [others n same]
  refine ⟨folded.1, fun n => (folded.2 n).trans ?_⟩
  by_cases kept : keep = some n
  · rw [if_pos kept, if_neg fun h => h.2 kept]
  · rw [if_neg kept, if_pos ⟨n.isLt, kept⟩]

/-! ### One arm resolved -/

/-- The record the resolution leaves on the arm (R142). -/
def Found.seats (a : Arm) : Found → Option Slot
  | .record n (.mounted b) => if b = a then some n else none
  | .record n (.stored _) => some n
  | .record n .lost => some n
  | _ => none

/-- Whether the resolution leaves an UNKNOWN module on the arm (R142). -/
def Found.strange (a : Arm) (f : Found) : Bool := decide (f ≠ .absent) && (f.seats a).isNone

/-- State t is s with an arm resolved (R142). -/
structure Resolved (s : State) (a : Arm) (f : Found) (t : State) : Prop where
  shape : t = { s with probes := t.probes, pockets := t.pockets, unknown := s.unknown.set a (f.strange a) }
  seated : ∀ n, f.seats a = some n → t.probes.get n = (s.probes.get n).map fun p => { p with place := .mounted a }
  others : ∀ n, f.seats a ≠ some n → t.probes.get n = (s.probes.get n).map (Probe.unless · a)
  left : ∀ n k, f = .record n (.stored k) → (s.pockets.get k).state = .occupied n →
    t.pockets.get k = { s.pockets.get k with state := .empty, unexpected := (s.pockets.get k).level }
  pockets : ∀ k, (∀ n, f = .record n (.stored k) → (s.pockets.get k).state ≠ .occupied n) → t.pockets.get k = s.pockets.get k

/-- No record is left on the arm. -/
theorem resolved_bare {s : State} {a : Arm} {f : Found} (bare : f.seats a = none) :
    Resolved s a f ((s.loseMounted a none).setUnknown a (f.strange a)) := by
  obtain ⟨shape, probes⟩ := s.loseMounted_spec a none
  generalize s.loseMounted a none = t at shape probes
  have stays : t.pockets = s.pockets := by rw [shape]
  refine ⟨by rw [shape]; rfl, fun n seat => ?_, fun n _ => ?_, fun n k found => ?_, fun k _ => congrArg (Vector.get · k) stays⟩
  · rw [bare] at seat; cases seat
  · exact (probes n).trans (if_neg nofun)
  · rw [found] at bare; cases bare

/-- A record from the table is put on the arm. -/
theorem resolved_seat {s : State} {a : Arm} {n : Slot} {r : Probe} {pl : Place} (slot : s.probes.get n = some r) (place : r.place = pl)
    (seat : (Found.record n pl).seats a = some n) (elsewhere : ∀ b, pl ≠ .mounted b) :
    Resolved s a (.record n pl) (((s.loseMounted a (some n)).place n (.mounted a)).setUnknown a false) := by
  obtain ⟨shape, probes⟩ := s.loseMounted_spec a (some n)
  generalize s.loseMounted a (some n) = t at shape probes
  have there : t.probes.get n = some r := by rw [probes, if_pos rfl, slot]
  have put := State.place_probes there (.mounted a)
  have pockets := State.place_pockets there (.mounted a)
  have unknown := State.mounted_unknown there a
  have stays : t.pockets = s.pockets := by rw [shape]
  have flags : t.unknown = s.unknown := by rw [shape]
  obtain ⟨ps, ks, us, fields⟩ := t.place_fields n (.mounted a)
  rw [fields] at put pockets unknown ⊢
  simp only [reduceCtorEq, if_false, place, stays] at pockets
  have strange : (Found.record n pl).strange a = false := by rw [Found.strange, seat]; rfl
  refine ⟨?_, fun m is => ?_, fun m is => ?_, fun m k found occupied => ?_, fun k apart => ?_⟩
  · rw [strange, State.setUnknown, show us = t.unknown.set a false from unknown, shape]
    cases a <;> rfl
  · obtain rfl : n = m := Option.some.inj (seat.symm.trans is)
    exact (put n).trans (by rw [if_pos rfl, slot]; rfl)
  · have other : m ≠ n := fun same => is (same ▸ seat)
    refine (put m).trans ?_
    rw [if_neg other, probes, if_neg (fun same => other (Option.some.inj same).symm), Option.map_map]
    refine Option.map_congr fun q _ => ?_
    simp only [Function.comp, Probe.unless_place]
    rw [if_neg]
    rintro ⟨-, same⟩
    split at same
    · cases same
    · next apart => exact apart same
  · obtain ⟨rfl, rfl⟩ := Found.record.inj found
    exact (pockets k).trans (if_pos ⟨rfl, occupied⟩)
  · refine (pockets k).trans (if_neg ?_)
    rintro ⟨rfl, occupied⟩
    exact apart n rfl occupied

/-- The resolution of one arm (R142), from a table whose record still stands where the match found it. -/
theorem resolveArm_spec {s : State} {a : Arm} {f : Found}
    (still : ∀ n pl, f = .record n pl → f.seats a = some n → ∃ r, s.probes.get n = some r ∧ r.place = pl)
    (only : ∀ m n q r, s.probes.get m = some q → s.probes.get n = some r → q.place = .mounted a → r.place = .mounted a → m = n) :
    Resolved s a f (s.resolveArm a f) := by
  cases f with
  | absent => exact resolved_bare rfl
  | stranger => exact resolved_bare rfl
  | record n pl =>
    cases pl with
    | inTransit b => exact resolved_bare rfl
    | stored k =>
      obtain ⟨r, slot, place⟩ := still n _ rfl rfl
      exact resolved_seat slot place rfl nofun
    | lost =>
      obtain ⟨r, slot, place⟩ := still n _ rfl rfl
      exact resolved_seat slot place rfl nofun
    | mounted b =>
      by_cases own : b = a
      · subst own
        have seat : (Found.record n (.mounted b)).seats b = some n := if_pos rfl
        obtain ⟨r, slot, place⟩ := still n _ rfl seat
        have does : s.resolveArm b (.record n (.mounted b)) = s.setUnknown b false := if_pos rfl
        have strange : (Found.record n (.mounted b)).strange b = false := by rw [Found.strange, seat]; rfl
        rw [does]
        refine ⟨by rw [strange]; rfl, fun m is => ?_, fun m is => ?_, nofun, fun _ _ => rfl⟩
        · obtain rfl : n = m := Option.some.inj (seat.symm.trans is)
          rw [slot, Option.map_some, ← place]
          exact slot
        · cases there : s.probes.get m with
          | none => exact there
          | some q =>
            rw [Option.map_some, Probe.unless, if_neg fun mounted => is (only m n q r there slot mounted place ▸ seat)]
            exact there
      · have does : s.resolveArm a (.record n (.mounted b)) = (s.loseMounted a none).setUnknown a true := if_neg own
        have bare : (Found.record n (.mounted b)).seats a = none := if_neg own
        have strange : (Found.record n (.mounted b)).strange a = true := by rw [Found.strange, bare]; rfl
        rw [does, ← strange]
        exact resolved_bare bare

/-! ### Both arms resolved -/

/-- What a match found, and where. -/
theorem State.found_record {s : State} {x : ReadResult} {n : Slot} {pl : Place} (found : s.found x = .record n pl) :
    ∃ r, s.probes.get n = some r ∧ r.place = pl ∧ ∃ code, x = .present code ∧ s.matching code = some n := by
  cases x with
  | present code =>
    cases same : s.matching code with
    | none => simp [State.found, same] at found
    | some m =>
      cases slot : s.probes.get m with
      | none => simp [State.found, same, slot] at found
      | some r =>
        simp only [State.found, same, slot, Found.record.injEq] at found
        obtain ⟨rfl, rfl⟩ := found
        exact ⟨r, slot, rfl, code, rfl, same⟩
  | absent => cases found
  | error => cases found

/-- What an inventory's reads leave of an arm that was read (R142): state t is s after both arms are resolved. -/
structure Leaves (s : State) (a : Arm) (f : Found) (t : State) : Prop where
  seated : ∀ n, f.seats a = some n → t.probes.get n = (s.probes.get n).map fun p => { p with place := .mounted a }
  only : ∀ n q, t.probes.get n = some q → q.place = .mounted a → f.seats a = some n
  unknown : t.unknown.get a = f.strange a
  left : ∀ n k, f = .record n (.stored k) → (s.pockets.get k).state = .occupied n →
    t.pockets.get k = { s.pockets.get k with state := .empty, unexpected := (s.pockets.get k).level }
  lost : ∀ n r, s.probes.get n = some r → r.place = .mounted a → f.seats a ≠ some n → t.probes.get n = some { r with place := .lost }

theorem Resolved.leaves {s t : State} {a : Arm} {f : Found} (done : Resolved s a f t) : Leaves s a f t where
  seated := done.seated
  only n q slot place := by
    refine Classical.byContradiction fun unseated => ?_
    rw [done.others n unseated] at slot
    obtain ⟨p, -, rfl⟩ := Option.map_eq_some_iff.1 slot
    rw [Probe.unless_place] at place
    split at place
    · cases place
    · contradiction
  unknown := by rw [done.shape]; exact PerArm.get_set _ _ _
  left := done.left
  lost n r slot place unseated := by rw [done.others n unseated, slot, Option.map_some, Probe.unless, if_pos place]

/-- A seat is taken by a record on the arm itself, in a pocket or LOST. -/
theorem Found.seats_place {f : Found} {a : Arm} {n : Slot} (seat : f.seats a = some n) :
    ∃ pl, f = .record n pl ∧ ∀ b, b ≠ a → pl ≠ .mounted b := by
  cases f with
  | absent => cases seat
  | stranger => cases seat
  | record m pl =>
    cases pl with
    | inTransit b => cases seat
    | stored k => exact ⟨.stored k, by rw [Option.some.inj seat], nofun⟩
    | lost => exact ⟨.lost, by rw [Option.some.inj seat], nofun⟩
    | mounted b =>
      by_cases own : b = a
      · subst own
        exact ⟨_, by rw [Option.some.inj ((if_pos rfl).symm.trans seat)], fun c other same => other (Place.mounted.inj same).symm⟩
      · cases (if_neg own).symm.trans seat

section
variable {s u t : State} {a b : Arm} {f g : Found} (apart : a ≠ b) (first : Resolved s a f u) (second : Resolved u b g t)
  (differ : ∀ n pl ql, f = .record n pl → g ≠ .record n ql)
include apart first second differ

/-- The arm resolved first keeps what it was left with. -/
theorem Resolved.first_leaves
    (found : ∀ n pl r, g = .record n pl → s.probes.get n = some r → r.place = pl) : Leaves s a f t where
  seated n seat := by
    have free : g.seats b ≠ some n := fun is => by
      obtain ⟨pl, same, -⟩ := Found.seats_place seat
      obtain ⟨ql, other, -⟩ := Found.seats_place is
      exact differ n pl ql same other
    rw [second.others n free, first.seated n seat, Option.map_map]
    refine Option.map_congr fun p _ => ?_
    exact if_neg fun same => apart (Place.mounted.inj same)
  only n q slot place := by
    have free : g.seats b ≠ some n := fun is => by
      rw [second.seated n is] at slot
      obtain ⟨p, -, rfl⟩ := Option.map_eq_some_iff.1 slot
      exact apart (Place.mounted.inj place).symm
    rw [second.others n free] at slot
    obtain ⟨p, before, rfl⟩ := Option.map_eq_some_iff.1 slot
    rw [Probe.unless_place] at place
    split at place
    · cases place
    · exact first.leaves.only n p before place
  unknown := by
    rw [second.shape]
    exact (PerArm.get_set_ne _ _ apart).trans first.leaves.unknown
  left n k same occupied := by
    have emptied := first.left n k same occupied
    rw [second.pockets k fun m _ => by rw [emptied]; nofun, emptied]
  lost n r slot place unseated := by
    have free : g.seats b ≠ some n := fun is => by
      obtain ⟨pl, same, only⟩ := Found.seats_place is
      exact only a apart ((found n pl r same slot).symm.trans place)
    rw [second.others n free, first.leaves.lost n r slot place unseated]
    exact congrArg some (if_neg nofun)

/-- The arm resolved second is left as if it were alone. -/
theorem Resolved.second_leaves
    (foundf : ∀ n pl r, f = .record n pl → s.probes.get n = some r → r.place = pl)
    (foundg : ∀ n pl r, g = .record n pl → s.probes.get n = some r → r.place = pl) : Leaves s b g t where
  seated n seat := by
    have free : f.seats a ≠ some n := fun is => by
      obtain ⟨pl, same, -⟩ := Found.seats_place is
      obtain ⟨ql, other, -⟩ := Found.seats_place seat
      exact differ n pl ql same other
    rw [second.seated n seat, first.others n free, Option.map_map]
    refine Option.map_congr fun p slot => ?_
    obtain ⟨pl, same, only⟩ := Found.seats_place seat
    have place : p.place ≠ .mounted a := foundg n pl p same slot ▸ only a apart
    simp only [Function.comp, Probe.unless, if_neg place]
  only := second.leaves.only
  unknown := second.leaves.unknown
  left n k same occupied := by
    have stays := first.pockets k fun m is there => by
      obtain rfl : m = n := by rw [there] at occupied; exact PocketState.occupied.inj occupied
      exact differ m _ _ is same
    rw [second.left n k same (by rw [stays, occupied]), stays]
  lost n r slot place unseated := by
    have free : f.seats a ≠ some n := fun is => by
      obtain ⟨pl, same, only⟩ := Found.seats_place is
      exact only b (Ne.symm apart) ((foundf n pl r same slot).symm.trans place)
    have still : u.probes.get n = some r := by
      rw [first.others n free, slot, Option.map_some, Probe.unless, if_neg fun same => apart (Place.mounted.inj (same.symm.trans place))]
    exact second.leaves.lost n r still place unseated

end

/-- What the reads of an inventory found on an arm (R142). -/
def State.finding (s : State) (reads : PerArm InvRead) (a : Arm) : Option Found := (reads.get a).result?.map s.found

theorem State.finding_record {s : State} {reads : PerArm InvRead} {a : Arm} {f : Found} (finds : s.finding reads a = some f)
    (n : Slot) (pl : Place) (r : Probe) (record : f = .record n pl) (slot : s.probes.get n = some r) : r.place = pl := by
  obtain ⟨x, -, found⟩ := Option.map_eq_some_iff.1 finds
  obtain ⟨q, there, place, -⟩ := State.found_record (found.trans record)
  rw [slot] at there
  cases there
  exact place

/-- The two arms read no record in common (R142). -/
def State.differs (s : State) (reads : PerArm InvRead) : Prop :=
  ∀ n pl ql, s.finding reads .A = some (.record n pl) → s.finding reads .B ≠ some (.record n ql)

theorem State.resolved_differs {s : State} {reads : PerArm InvRead} (differ : s.differs reads) : s.resolved reads
    = (s.finding reads .B).elim ((s.finding reads .A).elim s (s.resolveArm .A ·))
        (((s.finding reads .A).elim s (s.resolveArm .A ·)).resolveArm .B ·) := by
  have a : reads.a.result?.map s.found = s.finding reads .A := rfl
  have b : reads.b.result?.map s.found = s.finding reads .B := rfl
  unfold State.resolved
  rw [a, b]
  unfold State.differs at differ
  generalize s.finding reads .A = fa at differ
  generalize s.finding reads .B = fb at differ
  cases fa with
  | none => cases fb <;> rfl
  | some f =>
    cases fb with
    | none => cases f <;> rfl
    | some g =>
      cases f with
      | absent => rfl
      | stranger => rfl
      | record n pl =>
        cases g with
        | absent => rfl
        | stranger => rfl
        | record m ql =>
          have other : n ≠ m := fun same => differ n pl ql rfl (by rw [same])
          simp [other]

/-- The tables apart from the zones and all else that a resolution leaves (R142). -/
theorem Resolved.fields {s t : State} {a : Arm} {f : Found} (done : Resolved s a f t) :
    ∃ ps ks us, t = { s with probes := ps, pockets := ks, unknown := us } := ⟨_, _, _, done.shape⟩

/-- What becomes of an arm that was read, where the arms read no record in common. -/
theorem State.resolved_leaves {s : State} {reads : PerArm InvRead} (differ : s.differs reads)
    (only : ∀ a m n q r, s.probes.get m = some q → s.probes.get n = some r → q.place = .mounted a → r.place = .mounted a → m = n) :
    (∃ ps ks us, s.resolved reads = { s with probes := ps, pockets := ks, unknown := us })
    ∧ ∀ a f, s.finding reads a = some f → Leaves s a f (s.resolved reads) := by
  have still : ∀ a f, s.finding reads a = some f → ∀ n pl, f = .record n pl → f.seats a = some n →
      ∃ r, s.probes.get n = some r ∧ r.place = pl := fun a f finds n pl record _ => by
    obtain ⟨x, -, found⟩ := Option.map_eq_some_iff.1 finds
    obtain ⟨r, slot, place, -⟩ := State.found_record (found.trans record)
    exact ⟨r, slot, place⟩
  rw [State.resolved_differs differ]
  cases fa : s.finding reads .A with
  | none =>
    cases fb : s.finding reads .B with
    | none => exact ⟨⟨_, _, _, rfl⟩, fun a f finds => by cases a <;> simp_all⟩
    | some g =>
      have done := resolveArm_spec (still .B g fb) (only .B)
      refine ⟨done.fields, fun a f finds => ?_⟩
      cases a with
      | A => rw [fa] at finds; cases finds
      | B => rw [fb] at finds; cases finds; exact done.leaves
  | some f =>
    have first := resolveArm_spec (still .A f fa) (only .A)
    cases fb : s.finding reads .B with
    | none =>
      refine ⟨first.fields, fun a g finds => ?_⟩
      cases a with
      | A => rw [fa] at finds; cases finds; exact first.leaves
      | B => rw [fb] at finds; cases finds
    | some g =>
      have apart : ∀ n pl ql, f = .record n pl → g ≠ .record n ql := fun n pl ql isf isg => differ n pl ql (by rw [fa, isf]) (by rw [fb, isg])
      have foundf := State.finding_record fa
      have foundg := State.finding_record fb
      have second : Resolved (s.resolveArm .A f) .B g ((s.resolveArm .A f).resolveArm .B g) := by
        refine resolveArm_spec (fun n pl record seat => ?_) fun m n q r atm atn placem placen => ?_
        · obtain ⟨r, slot, place⟩ := still .B g fb n pl record seat
          have free : f.seats .A ≠ some n := fun is => by
            obtain ⟨ql, same, -⟩ := Found.seats_place is
            exact apart n ql pl same record
          obtain ⟨ql, same, elsewhere⟩ := Found.seats_place seat
          refine ⟨r, ?_, place⟩
          rw [first.others n free, slot, Option.map_some, Probe.unless, if_neg (foundg n ql r same slot ▸ elsewhere .A (by decide))]
        · have before : ∀ m q, (s.resolveArm .A f).probes.get m = some q → q.place = .mounted .B →
              ∃ p, s.probes.get m = some p ∧ p.place = .mounted .B := fun m q atm placem => by
            by_cases seat : f.seats .A = some m
            · rw [first.seated m seat] at atm
              obtain ⟨p, -, rfl⟩ := Option.map_eq_some_iff.1 atm
              cases placem
            · rw [first.others m seat] at atm
              obtain ⟨p, there, rfl⟩ := Option.map_eq_some_iff.1 atm
              rw [Probe.unless_place] at placem
              split at placem
              · cases placem
              · exact ⟨p, there, placem⟩
          obtain ⟨p, therem, mountedm⟩ := before m q atm placem
          obtain ⟨p', theren, mountedn⟩ := before n r atn placen
          exact only .B m n p p' therem theren mountedm mountedn
      refine ⟨?_, fun a h finds => ?_⟩
      · obtain ⟨_, _, _, shape⟩ := second.fields
        obtain ⟨_, _, _, shape'⟩ := first.fields
        exact ⟨_, _, _, by rw [Option.elim_some, Option.elim_some, shape, shape']⟩
      · cases a with
        | A => rw [fa] at finds; cases finds; exact first.first_leaves (by decide) second apart foundg
        | B => rw [fb] at finds; cases finds; exact first.second_leaves (by decide) second apart foundf foundg

/-- Both arms read one record (R142): it is LOST, and so is every record on an arm. -/
theorem State.resolved_common {s : State} {reads : PerArm InvRead} {n : Slot} {pl ql : Place}
    (finda : s.finding reads .A = some (.record n pl)) (findb : s.finding reads .B = some (.record n ql)) :
    (∃ ps ks, s.resolved reads = { s with probes := ps, pockets := ks, unknown := ⟨true, true⟩ })
    ∧ (s.resolved reads).probes.get n = (s.probes.get n).map (fun p => { p with place := .lost })
    ∧ (∀ m p a, s.probes.get m = some p → p.place = .mounted a → (s.resolved reads).probes.get m = some { p with place := .lost })
    ∧ ∀ m q a, (s.resolved reads).probes.get m = some q → q.place ≠ .mounted a := by
  have a : reads.a.result?.map s.found = s.finding reads .A := rfl
  have b : reads.b.result?.map s.found = s.finding reads .B := rfl
  have does : s.resolved reads
      = ((((s.place n .lost).loseMounted .A none).loseMounted .B none).setUnknown .A true).setUnknown .B true := by
    unfold State.resolved
    rw [a, b, finda, findb]
    simp
  obtain ⟨ps, ks, fields⟩ := s.lose_fields n
  obtain ⟨shapea, lostA⟩ := (s.place n .lost).loseMounted_spec .A none
  obtain ⟨shapeb, lostB⟩ := ((s.place n .lost).loseMounted .A none).loseMounted_spec .B none
  simp only [reduceCtorEq, if_false] at lostA lostB
  have probes : ∀ m, (s.resolved reads).probes.get m = ((s.place n .lost).probes.get m).map fun p => (p.unless .A).unless .B := fun m => by
    simp only [does, State.setUnknown_probes, lostB, lostA, Option.map_map]
    rfl
  refine ⟨?_, ?_, fun m p c slot place => ?_, fun m q c slot place => ?_⟩
  · obtain ⟨as, onA⟩ : ∃ ps, (s.place n .lost).loseMounted .A none = { s.place n .lost with probes := ps } := ⟨_, shapea⟩
    obtain ⟨bs, onB⟩ : ∃ ps, ((s.place n .lost).loseMounted .A none).loseMounted .B none
        = { (s.place n .lost).loseMounted .A none with probes := ps } := ⟨_, shapeb⟩
    exact ⟨bs, ks, by rw [does, onB, onA, fields]; rfl⟩
  · rw [probes, State.lose_probes, if_pos rfl, Option.map_map]
    rfl
  · rw [probes, State.lose_probes]
    by_cases same : m = n
    · subst same
      rw [if_pos rfl, slot]
      rfl
    · rw [if_neg same, slot, Option.map_some]
      cases c with
      | A => simp [Probe.unless, place]
      | B => simp [Probe.unless, place]
  · rw [probes] at slot
    obtain ⟨p, -, rfl⟩ := Option.map_eq_some_iff.1 slot
    exact Probe.unless_both p c place

end Sys2Proof.Machine
end
section
/-! PROOFS. The end of an inventory and the step to READY (O10). -/
namespace Sys2Proof.Machine
open Sys2Proof.Safety

/-! ### The pieces of an inventory's end -/

/-- State t is s but for the tables of records and pockets and the UNKNOWN flags. -/
def Tabled (s t : State) : Prop := ∃ ps ks us, t = { s with probes := ps, pockets := ks, unknown := us }

theorem Tabled_refl (s : State) : Tabled s s := ⟨s.probes, s.pockets, s.unknown, rfl⟩

theorem Tabled_trans {s t u : State} (first : Tabled s t) (second : Tabled t u) : Tabled s u := by
  obtain ⟨_, _, _, rfl⟩ := first
  obtain ⟨_, _, _, rfl⟩ := second
  exact ⟨_, _, _, rfl⟩

theorem Tabled_setUnknown {s t : State} (h : Tabled s t) (a : Arm) (v : Bool) : Tabled s (t.setUnknown a v) :=
  Tabled_trans h ⟨_, _, _, rfl⟩

theorem Tabled_place {s t : State} (h : Tabled s t) (n : Slot) (pl : Place) : Tabled s (t.place n pl) :=
  Tabled_trans h (t.place_fields n pl)

theorem Tabled_loseMounted {s t : State} (h : Tabled s t) (a : Arm) (keep : Option Slot) : Tabled s (t.loseMounted a keep) :=
  Tabled_trans h ⟨_, _, _, (t.loseMounted_spec a keep).1⟩

theorem Tabled_resolveArm {s t : State} (h : Tabled s t) (a : Arm) (f : Found) : Tabled s (t.resolveArm a f) := by
  cases f with
  | absent => exact Tabled_setUnknown (Tabled_loseMounted h a _) a _
  | stranger => exact Tabled_setUnknown (Tabled_loseMounted h a _) a _
  | record n pl =>
    cases pl with
    | inTransit b => exact Tabled_setUnknown (Tabled_loseMounted h a _) a _
    | stored k => exact Tabled_setUnknown (Tabled_place (Tabled_loseMounted h a _) n _) a _
    | lost => exact Tabled_setUnknown (Tabled_place (Tabled_loseMounted h a _) n _) a _
    | mounted b =>
      by_cases own : b = a
      · have does : t.resolveArm a (.record n (.mounted b)) = t.setUnknown a false := if_pos own
        exact does ▸ Tabled_setUnknown h a _
      · have does : t.resolveArm a (.record n (.mounted b)) = (t.loseMounted a none).setUnknown a true := if_neg own
        exact does ▸ Tabled_setUnknown (Tabled_loseMounted h a _) a _

theorem Tabled_resolved (s : State) (reads : PerArm InvRead) : Tabled s (s.resolved reads) := by
  by_cases differ : s.differs reads
  · rw [State.resolved_differs differ]
    cases s.finding reads .A with
    | none => cases s.finding reads .B with
      | none => exact Tabled_refl s
      | some g => exact Tabled_resolveArm (Tabled_refl s) .B g
    | some f => cases s.finding reads .B with
      | none => exact Tabled_resolveArm (Tabled_refl s) .A f
      | some g => exact Tabled_resolveArm (Tabled_resolveArm (Tabled_refl s) .A f) .B g
  · simp only [State.differs, Classical.not_forall, Classical.not_not] at differ
    obtain ⟨n, pl, ql, finda, findb⟩ := differ
    obtain ⟨ps, ks, fields⟩ := (State.resolved_common finda findb).1
    exact ⟨ps, ks, _, fields⟩

/-- What stands when the reads are resolved and the mounts recomputed, before the inventory ends (R142). -/
theorem runs_resolveInventory {s : State} {again changed : Bool} {reads : PerArm InvRead}
    (inventory : s.inventory = .running again reads changed) (unawaited : s.waiters = []) :
    ∃ u, ExceptZones { s.resolved reads with
        inventory := .running again reads (changed || decide ((s.resolved reads).judged ≠ s.judged)) } u
      ∧ ∀ w t, Runs w [.endInventory] u t → Runs (w + 9) [.resolveInventory] s t := by
  obtain ⟨ps, ks, us, fields⟩ := Tabled_resolved s reads
  have marked : (s.resolved reads).markChanged s = { s.resolved reads with
      inventory := .running again reads (changed || decide ((s.resolved reads).judged ≠ s.judged)) } := by
    have same : (s.resolved reads).inventory = .running again reads changed := by rw [fields, inventory]
    simp only [State.markChanged, same]
  have still : ((s.resolved reads).markChanged s).waiters = [] := by rw [marked, fields]; exact unawaited
  obtain ⟨u, run, kept⟩ := runs_remount still s ((s.resolved reads).markChanged s)
  refine ⟨u, marked ▸ kept, fun w t ends => ?_⟩
  have pieces := Runs.piece (x := .resolveInventory) (s := s) (t := t) (w := 8 + w)
    (e := ((s.resolved reads).markChanged s, remount s ((s.resolved reads).markChanged s) ++ [.endInventory]))
    (by simp only [perform, resolveInventory, inventory]) (run.append ends)
  exact pieces.mono (by omega)

/-- The last read of an inventory (R142). -/
theorem inventoryRead_last {s : State} {a : Arm} {r : ReadResult} {again changed : Bool} {reads : PerArm InvRead}
    (inventory : s.inventory = .running again reads changed) (other : reads.get a.other ≠ .asked) : inventoryRead a r s
    = ({ s with inventory := .running again (reads.set a (.got r)) changed }, [.resolveInventory]) := by
  have done : ((decide ((reads.set a (.got r)).a = .asked)) || decide ((reads.set a (.got r)).b = .asked)) = false := by
    cases a with
    | A => simp only [PerArm.set, reduceCtorEq, decide_false, Bool.false_or]; exact decide_eq_false other
    | B => simp only [PerArm.set, reduceCtorEq, decide_false, Bool.or_false]; exact decide_eq_false other
  simp only [inventoryRead, inventory, done]
  rfl

/-- The inventory with a read's result noted (R142). -/
def State.heard (s : State) (again changed : Bool) (reads : PerArm InvRead) : State :=
  { s with inventory := .running again reads changed }

/-- The state after the resolution of an inventory, before its end. -/
def State.resolution (s : State) (again changed : Bool) (reads : PerArm InvRead) : State :=
  let t := (s.heard again changed reads).resolved reads
  { t with inventory := .running again reads (changed || decide (t.judged ≠ s.judged)) }

theorem State.resolution_fields (s : State) (again changed : Bool) (reads : PerArm InvRead) : ∃ ps ks us x, s.resolution again changed reads
    = { s with probes := ps, pockets := ks, unknown := us, inventory := .running again reads x } := by
  obtain ⟨ps, ks, us, fields⟩ := Tabled_resolved (s.heard again changed reads) reads
  rw [State.resolution, fields]
  exact ⟨_, _, _, _, rfl⟩

/-- The end of the last read of an inventory, by what its end sets off. -/
theorem settle_inventoryRead {s : State} {a : Arm} {again changed : Bool} {reads : PerArm InvRead} (r : ReadResult)
    (inventory : s.inventory = .running again reads changed) (other : reads.get a.other ≠ .asked) (unawaited : s.waiters = []) :
    ∃ u, ExceptZones (s.resolution again changed (reads.set a (.got r))) u
      ∧ ∀ w t, w ≤ 100 → Runs w (endInventory u).2 (endInventory u).1 t → settle (inventoryRead a r s) = t := by
  obtain ⟨u, kept, run⟩ := runs_resolveInventory (s := s.heard again changed (reads.set a (.got r))) rfl unawaited
  refine ⟨u, kept, fun w t small ends => ?_⟩
  rw [inventoryRead_last inventory other]
  exact (run _ _ (Runs.piece rfl ends)).settle (by rw [cascadeBound]; omega)

/-! ### The part becomes READY -/

/-- The state in which the part is READY (R208). -/
def State.awake (s : State) : State := (becomeReady { s with inventory := .idle }).1

theorem endInventory_startup {s : State} {changed : Bool} {reads : PerArm InvRead} (inventory : s.inventory = .running false reads changed)
    (starts : s.startup = .inventory) : endInventory s
    = (s.awake, if s.rack.opened && s.rack.closed then [.sensorConflict] else []) := by
  have unready : s.ready = false := by simp [State.ready, starts]
  simp only [endInventory, inventory, unready, Bool.and_false, Bool.false_eq_true, if_false, starts, if_true]
  rfl

/-- A link's fields but its notice flags and ATTN. -/
def Noticed (x y : LinkState) : Prop := ∃ fs attn, y = { x with flags := fs, attn := attn }

theorem State.raise_noticed {s : State} {x : LinkState} {m : Link} (h : Noticed x (s.links.get m)) (l : Link) (k : Notice) :
    Noticed x ((s.raise l k).links.get m) := by
  obtain ⟨fs, attn, same⟩ := h
  by_cases own : m = l
  · subst own
    rw [State.raise, State.modLink_links, PerLink.get_set, same]
    exact ⟨_, _, rfl⟩
  · rw [State.raise, State.modLink_links, PerLink.get_set_ne _ _ own]
    exact ⟨fs, attn, same⟩

theorem State.report_noticed {s : State} {x : LinkState} {m : Link} (h : Noticed x (s.links.get m)) (r : FaultReport) :
    Noticed x ((s.report r).links.get m) := by
  unfold State.report
  split
  · exact h
  · exact State.raise_noticed (s := { s with faultCount := _, trap := _ }) h _ _

theorem State.raiseAll_raised (s : State) (k : Notice) (l : Link) : k ∈ ((s.raiseAll k).links.get l).flags := by
  cases l with
  | A => exact State.raise_kept _ (State.raise_kept _ (State.raise_raised _ _ _))
  | B => exact State.raise_kept _ (State.raise_raised _ _ _)
  | S => exact State.raise_raised _ _ _

theorem State.awake_shape (s : State) : s.awake = { s with
    startup := .ready, inventory := .idle, links := s.awake.links, timers := s.timers.map SetpointTimer.realign
    scanTimer := ⟨s.scanInterval * 10000, 0⟩ } := rfl

theorem State.awake_link (s : State) (l : Link) : Noticed ((s.links.get l).atReady s.loadFaults) (s.awake.links.get l) := by
  refine State.raise_noticed (State.raise_noticed (State.raise_noticed ?_ _ _) _ _) _ _
  cases l <;> exact ⟨_, _, rfl⟩

theorem SetpointTimer.realign_spec (t : SetpointTimer) : t.realign.count = 0 ∧ t.realign.startAcc = 0
    ∧ (t.realign.d ≠ 0 → t.realign.length = t.realign.n / t.realign.d) := by
  refine ⟨rfl, ?_, fun some => ?_⟩
  · simp [SetpointTimer.realign, SetpointTimer.startPeriod]
  · have some : t.d ≠ 0 := some
    have below : t.n - t.n / t.d * t.d < t.d := by
      have := Nat.mod_lt t.n (Nat.pos_of_ne_zero some)
      have := Nat.div_add_mod' t.n t.d
      omega
    simp only [SetpointTimer.realign, SetpointTimer.startPeriod, ite_self, Nat.zero_add]
    rw [if_neg (Nat.not_le.2 below)]

/-! ### Both sensors active -/

theorem State.rackArm_none {s : State} (free : ∀ b, s.change.get b = none) : s.rackArm = none := by
  simp [State.rackArm, free .A, free .B]

theorem sensorConflict_free {s : State} (free : ∀ b, s.change.get b = none) : sensorConflict s
    = (((s.report s.sensorReport).modRack fun r => { r with fault := true }).raise .S .rackFault, []) := by
  have steps : ∀ b, (s.report s.sensorReport).stepOf b = none := fun b => by
    rw [State.stepOf, State.report_change, free b]
    rfl
  simp only [sensorConflict, setRackFault, steps, State.rackArm_none free, reduceCtorEq, if_false, List.append_nil]

/-! ### The obligation -/

theorem LinkState.atReady_retry {l : LinkState} (retry : l.phase = .retry) (f : LoadFaults) : l.atReady f
    = { l with phase := .idle, buffer := [], request := none, work := none, response := none, overrun := false } := by
  simp only [LinkState.atReady, retry, if_true]

theorem LinkState.atReady_reload {l : LinkState} (up : l.phase ≠ .retry) (reload : l.work = some .reload) (f : LoadFaults) : l.atReady f
    = { l with phase := .ready, buffer := [], request := none, work := none, response := some ⟨.ok, .loadFaults f⟩ } := by
  simp only [LinkState.atReady, if_neg up, reload, if_true]

/-- What the obligation says of the links, of a state whose links are those of a part that has become READY. -/
theorem links_ready {s t : State} (same : ∀ l, Noticed ((s.links.get l).atReady s.loadFaults) (t.links.get l)) (l : Link) :
    ((s.links.get l).phase = .retry →
      (t.links.get l).phase = .idle ∧ (t.links.get l).buffer = [] ∧ (t.links.get l).request = none
        ∧ (t.links.get l).response = none ∧ (t.links.get l).overrun = false)
    ∧ ((s.links.get l).phase ≠ .retry → (s.links.get l).work = some .reload →
      (t.links.get l).phase = .ready ∧ (t.links.get l).buffer = [] ∧ (t.links.get l).request = none
        ∧ (t.links.get l).work = none ∧ (t.links.get l).response = some ⟨.ok, .loadFaults s.loadFaults⟩
        ∧ (t.links.get l).overrun = (s.links.get l).overrun) := by
  obtain ⟨fs, attn, is⟩ := same l
  rw [is]
  refine ⟨fun retry => ?_, fun up reload => ?_⟩
  · rw [LinkState.atReady_retry retry]
    exact ⟨rfl, rfl, rfl, rfl, rfl⟩
  · rw [LinkState.atReady_reload up reload]
    exact ⟨rfl, rfl, rfl, rfl, rfl, rfl⟩

/-- Settles O10: the resolution touches the tables alone, then the part is READY, and with both sensors active the sensor
condition is reported in the same cascade. -/
theorem readyStarts : Obligations.ReadyStarts := by
  unfold Obligations.ReadyStarts
  intro a ans reads changed s starts inventory reader asked other unawaited conflict free
  obtain ⟨u, kept, ends⟩ := settle_inventoryRead (readResult ans) inventory other unawaited
  obtain ⟨ps, ks, us, x, fields⟩ := s.resolution_fields false changed (reads.set a (.got (readResult ans)))
  rw [fields] at kept
  obtain ⟨ho, st, de, li, ha, same⟩ := ExceptZones_update kept
  have finish := endInventory_startup (s := u) (changed := x) (by rw [same]) (by rw [same]; exact starts)
  have shape := u.awake_shape
  have alike : ∀ l, Noticed ((s.links.get l).atReady s.loadFaults) (u.awake.links.get l) := fun l => by
    have := u.awake_link l
    rwa [same] at this ⊢
  have loaded : ∀ l, .loadDone ∈ (u.awake.links.get l).flags := fun l => State.raiseAll_raised _ _ l
  obtain ⟨v, settled, shape, alike, loaded, struck, quiet⟩ : ∃ v, settle (inventoryRead a (readResult ans) s) = v
      ∧ v = { u.awake with rack := v.rack, trap := v.trap, faultCount := v.faultCount, links := v.links }
      ∧ (∀ l, Noticed ((s.links.get l).atReady s.loadFaults) (v.links.get l)) ∧ (∀ l, .loadDone ∈ (v.links.get l).flags)
      ∧ (conflict → v.rack = { s.rack with fault := true } ∧ .rackFault ∈ (v.links.get .S).flags
          ∧ v.faultCount = min (s.faultCount + 1) 65535)
      ∧ (¬ conflict → v.rack = s.rack ∧ v.faultCount = s.faultCount ∧ v.trap = s.trap) := by
    have sensors : (u.rack.opened && u.rack.closed) = true ↔ conflict := by rw [same]; exact Bool.and_eq_true_iff
    have rack : u.awake.rack = s.rack := by rw [shape, same]
    have count : u.awake.faultCount = s.faultCount := by rw [shape, same]
    have trap : u.awake.trap = s.trap := by rw [shape, same]
    by_cases both : conflict
    · have changes : ∀ b, u.awake.change.get b = none := fun b => by rw [shape, same]; exact free both b
      have struck := sensorConflict_free changes
      generalize u.awake.sensorReport = r at struck
      refine ⟨((u.awake.report r).modRack fun r => { r with fault := true }).raise .S .rackFault, ends 1 _ (by decide) ?_, ?_,
        fun l => State.raise_noticed (s := (u.awake.report r).modRack _) (State.report_noticed (alike l) r) _ _,
        fun l => State.raise_kept (s := (u.awake.report r).modRack _) _ (State.report_kept r (loaded l)), fun _ => ?_,
        fun no => absurd both no⟩
      · rw [finish, if_pos (sensors.2 both)]
        exact Runs.piece struck (Runs.nil _)
      · rw [State.report_shape]
        rfl
      · rw [← rack, ← count]
        refine ⟨?_, State.raise_raised _ _ _, State.report_faultCount _ _⟩
        rw [State.report_shape]
        rfl
    · refine ⟨u.awake, ends 0 _ (Nat.zero_le _) ?_, rfl, alike, loaded, fun is => absurd is both, fun _ => ⟨rack, count, trap⟩⟩
      rw [finish, if_neg (fun h => both (sensors.1 h))]
      exact Runs.nil _
  have reads : v.readers.get a = ⟨some [.inventory], none⟩ := by rw [shape, u.awake_shape, same]; exact reader
  refine ⟨v.modReader a Reader.next, congrArg Host.Outcome.next ((readEnds_one reader ans).trans (by rw [deliver, settled])),
    struck, quiet, ?_, ?_, ?_, fun l => (links_ready alike l).1, fun l => (links_ready alike l).2, loaded, fun b => ?_, ?_⟩
  · rw [shape]; rfl
  · rw [shape]; rfl
  · rw [State.modReader, reads]; exact PerArm.get_set _ _ _
  · rw [shape, u.awake_shape, State.modReader, PerArm.get_map]
    exact (u.timers.get b).realign_spec
  · rw [shape, u.awake_shape, same]
    exact ⟨rfl, rfl, rfl, rfl, rfl⟩

end Sys2Proof.Machine
end
section
/-! PROOFS. Identity reads (O49). -/
namespace Sys2Proof.Machine
open Sys2Proof.Safety

/-! ### A request taken -/

/-- A request that is taken: the owner acts on the state with the request on its link, and answers or waits as if it had acted
on the state before it. -/
theorem serve_through {s : State} {l : Link} {c : Instr} (taken : Takes s l c) (checked : linkCheck l c = none) (f : State → State) :
    ∃ g, serve l c f s = f (s.modLink l g)
      ∧ (∀ u k p, u.links.get l = s.links.get l → (u.modLink l g).respond l k p = answered u l k p)
      ∧ ∀ u w, u.links.get l = s.links.get l → (u.modLink l g).await l w = awaiting u l w := by
  rcases taken with up | held
  · refine ⟨LinkState.take, serve_open up checked f, fun u k p same => respond_take (by rwa [same]) k p, fun u w same => ?_⟩
    have apart : (u.links.get l).phase ≠ .pending := by rw [same]; rcases up with h | h <;> rw [h] <;> nofun
    simp [State.await, awaiting, State.modLink, LinkState.take, apart]
  · have waits : (s.links.get l).phase = .pending := by
      simp only [State.holdsRequest, Bool.and_eq_true, decide_eq_true_eq] at held
      exact held.1.1
    refine ⟨fun x => x, (serve_held held f).trans (by rw [State.modLink_id]), fun u k p same => ?_, fun u w same => ?_⟩
    · simp [State.respond, answered, State.modLink, same, waits]
    · simp [State.await, awaiting, State.modLink, same, waits]

/-! ### What changes an inventory notes -/

theorem toList_map_eq_iff {α β : Type} {n : Nat} {u v : Table n α} {f : α → β} :
    u.toList.map f = v.toList.map f ↔ ∀ i, f (u.get i) = f (v.get i) := by
  have entry : ∀ (w : Table n α) (i : Fin n), (Vector.map f w).get i = f (w.get i) := fun _ i => Vector.getElem_map f i.2
  rw [← Vector.toList_map, ← Vector.toList_map, Vector.toList_inj]
  constructor
  · intro same i
    rw [← entry u, ← entry v, same]
  · exact fun same => Table.ext_get fun i => (entry u i).trans ((same i).trans (entry v i).symm)

theorem judged_ne_iff {s t : State} : t.judged ≠ s.judged
    ↔ (∃ n : Slot, (t.probes.get n).map (·.place) ≠ (s.probes.get n).map (·.place))
      ∨ (∃ p : PocketId, (t.pockets.get p).state ≠ (s.pockets.get p).state
          ∨ (t.pockets.get p).unexpected ≠ (s.pockets.get p).unexpected) ∨ t.unknown ≠ s.unknown := by
  rw [State.judged, State.judged, Ne, Prod.mk.injEq, Prod.mk.injEq, toList_map_eq_iff, toList_map_eq_iff]
  simp only [Prod.mk.injEq, Classical.not_and_iff_not_or_not, Classical.not_forall, Ne]

/-! ### REGISTER PROBE on an arm -/

theorem badRegister_arm_iff {e : RegisterEntry} {x : Option Arm} (at_x : e.place = .arm x) : badRegister e = true
    ↔ e.identity < 1 ∨ 4294967294 < e.identity ∨ 8000000 < e.reach ∨ 4095 < e.tau
      ∨ (∃ h, e.home = some h ∧ 11 < h) ∨ x = none := by
  simp only [badRegister, badIdentity, Bool.or_eq_true, outsideNat_iff, badProbeFields_iff, badPlace, at_x,
    Option.isNone_iff_eq_none, or_assoc]

theorem registerProbe_arm {s : State} {l : Link} {e : RegisterEntry} (idle : s.save = .idle) (rests : s.inventory = .idle)
    (good : badRegister e = false) (new : (s.matching e.identity).isSome = false) (free : s.freeSlot ≠ none) {a : Arm}
    (at_a : e.place = .arm (some a)) : registerProbe l e s
    = s.checked l [((s.mountedOn a).isSome, .inUse), ((s.change.get a).isSome, .wrongState)] fun s =>
        (s.askRead a .register).await l (.register e a) := by
  have none : s.freeSlot.isNone = false := Option.isNone_eq_false_iff.2 (Option.isSome_iff_ne_none.2 free)
  refine (checked_next (saving_of_idle idle)).trans ((checked_next (inventoryRuns_of_idle rests)).trans
    ((checked_next good).trans ((checked_next new).trans ((checked_next none).trans ?_))))
  simp only [checked_nil, at_a]

/-- The checks at the end of a registration's read, in order (R130). -/
def State.registerChecks (s : State) (e : RegisterEntry) (a : Arm) (r : ReadResult) : List (Bool × Code) :=
  [((s.matching e.identity).isSome, .inUse), (s.freeSlot.isNone, .queueFull), ((s.mountedOn a).isSome, .inUse),
   ((s.change.get a).isSome, .wrongState), (!s.answers r e.identity, .noProbe)]

theorem registerDone_refused {s : State} {e : RegisterEntry} {a : Arm} {r : ReadResult} {x : Code}
    (fails : firstFailure (s.registerChecks e a r) = some x) (l : Link) : registerDone l e a r s = (s.respond l x, []) := by
  simp only [State.registerChecks] at fails
  simp only [registerDone, fails]

theorem registerDone_accepted {s : State} {e : RegisterEntry} {a : Arm} {r : ReadResult} {n : Slot}
    (passes : firstFailure (s.registerChecks e a r) = none) (free : s.freeSlot = some n) (l : Link) :
    let s1 := ((s.setProbe n (some (newRecord e (.mounted a)))).setUnknown a false).respond l .ok (.slot n)
    registerDone l e a r s = (s1, remount s s1) := by
  intro s1
  simp only [State.registerChecks, free] at passes
  simp only [registerDone, free, passes, s1]

theorem answers_iff {s : State} {r : ReadResult} {identity : Nat} : s.answers r identity = true
    ↔ ∃ code, r = .present code ∧ idMatch s.settings.matchMode identity code = true := by
  cases r with
  | present code => exact ⟨fun fits => ⟨code, rfl, fits⟩, fun ⟨_, same, fits⟩ => by cases same; exact fits⟩
  | absent => exact iff_of_false nofun nofun
  | error => exact iff_of_false nofun nofun

/-! ### VERIFY PROBE -/

theorem matching_none_iff (s : State) (code : Nat) : s.matching code = none
    ↔ ∀ n q, s.probes.get n = some q → idMatch s.settings.matchMode q.identity code = false := by
  rw [← Option.isNone_iff_eq_none, ← Option.not_isSome, Bool.not_eq_true', ← Bool.not_eq_true, matching_isSome_iff]
  simp only [not_exists, not_and, Bool.not_eq_true]

theorem matching_some {s : State} {code : Nat} {n : Slot} (same : s.matching code = some n) :
    ∃ p, s.probes.get n = some p ∧ idMatch s.settings.matchMode p.identity code = true := findProbe_some same

/-- The slot a VERIFY PROBE answers with (R129). -/
theorem verified_spec (s : State) (a : Arm) (r : ReadResult) : ∃ v, s.verified a r = .verify r v (s.mount a)
    ∧ (∀ n, v = some n → ∃ code p, r = .present code ∧ s.probes.get n = some p ∧ idMatch s.settings.matchMode p.identity code = true)
    ∧ (v = none → ∀ code n p, r = .present code → s.probes.get n = some p → idMatch s.settings.matchMode p.identity code = false) := by
  cases r with
  | present code =>
    refine ⟨s.matching code, rfl, fun n same => ?_, fun none c n p is slot => ?_⟩
    · obtain ⟨p, slot, fits⟩ := matching_some same
      exact ⟨code, p, rfl, slot, fits⟩
    · cases is
      exact (matching_none_iff s code).1 none n p slot
  | absent => exact ⟨none, rfl, nofun, fun _ _ _ _ is => by cases is⟩
  | error => exact ⟨none, rfl, nofun, fun _ _ _ _ is => by cases is⟩

/-- The reader after the read it had alone has ended. -/
theorem next_alone {s t : State} {a : Arm} {k : Asker} (reader : s.readers.get a = ⟨some [k], none⟩) (same : t.readers = s.readers) :
    t.modReader a Reader.next = { t with readers := s.readers.set a ⟨none, none⟩ } := by
  rw [State.modReader, same, reader]
  rfl

/-! ### The reads of an inventory -/

theorem found_present {s : State} {code : Nat} {n : Slot} {r : Probe} (same : s.matching code = some n) (slot : s.probes.get n = some r) :
    s.found (.present code) = .record n r.place := by
  simp only [State.found, same, slot]

theorem found_stranger {s : State} {code : Nat} (none : s.matching code = none) : s.found (.present code) = .stranger := by
  simp only [State.found, none]

/-- What an inventory's last read found on an arm, for a table whose reads are known. -/
theorem finding_of {s : State} {reads : PerArm InvRead} {x : Option ReadResult} {a : Arm} (is : (reads.get a).result? = x) :
    s.finding reads a = x.map s.found := by rw [State.finding, is]

section
variable {s t : State} {reads : PerArm InvRead} {found : Arm → Option ReadResult}
  (is : ∀ b, (reads.get b).result? = found b) (free : ∀ b, found b ≠ none → s.change.get b = none)
  (probes : t.probes = (s.resolved reads).probes) (pockets : t.pockets = (s.resolved reads).pockets)
  (unknown : t.unknown = (s.resolved reads).unknown) (change : t.change = s.change)
include is free probes pockets unknown change

omit pockets in
/-- Two arms that read one record (R142). -/
theorem resolution_common {n : Slot} (finda : ∃ code, found .A = some (.present code) ∧ s.matching code = some n)
    (findb : ∃ code, found .B = some (.present code) ∧ s.matching code = some n) :
    (∀ b, t.mount b = .unknown) ∧ t.probes.get n = (s.probes.get n).map (fun p => { p with place := .lost })
    ∧ ∀ b m r, s.probes.get m = some r → r.place = .mounted b → t.probes.get m = some { r with place := .lost } := by
  obtain ⟨ca, reada, samea⟩ := finda
  obtain ⟨cb, readb, sameb⟩ := findb
  obtain ⟨r, slot, -⟩ := matching_some samea
  have fa : s.finding reads .A = some (.record n r.place) := by rw [finding_of (is .A), reada, Option.map_some, found_present samea slot]
  have fb : s.finding reads .B = some (.record n r.place) := by rw [finding_of (is .B), readb, Option.map_some, found_present sameb slot]
  obtain ⟨⟨ps, ks, fields⟩, there, losts, bare⟩ := State.resolved_common fa fb
  refine ⟨fun b => ?_, by rw [probes, there], fun b m r at_m place => by rw [probes]; exact losts m r b at_m place⟩
  have read : found b ≠ none := by cases b <;> simp [reada, readb]
  rw [State.mount_unmounted (by rw [change]; exact free b read) (fun m q at_m => bare m q b (by rw [← probes]; exact at_m)),
    unknown, fields]
  cases b <;> rfl

/-- An arm that was read, where the arms read no record in common (R142). -/
theorem resolution_leaves (tables : Tables s) (differ : s.differs reads) {b : Arm} {x : ReadResult} (read : found b = some x) : Leaves s b (s.found x) t
    ∧ ((s.found x).seats b = none → t.mount b = if (s.found x).strange b then .unknown else .none)
    ∧ ∀ n r, (s.found x).seats b = some n → s.probes.get n = some r → t.mount b = .record n
        ∧ t.probes.get n = some { r with place := .mounted b } := by
  have finds : s.finding reads b = some (s.found x) := by rw [finding_of (is b), read, Option.map_some]
  obtain ⟨-, leaves⟩ := State.resolved_leaves differ tables.2
  obtain ⟨seated, only, flag, left, losts⟩ := leaves b _ finds
  have here : Leaves s b (s.found x) t := ⟨by rw [probes]; exact seated, by rw [probes]; exact only, by rw [unknown]; exact flag,
    by rw [pockets]; exact left, by rw [probes]; exact losts⟩
  refine ⟨here, fun bare => ?_, fun n r seat slot => ?_⟩
  · rw [State.mount_unmounted (by rw [change]; exact free b (by rw [read]; nofun)) fun m q at_m place => ?_, here.unknown]
    rw [here.only m q at_m place] at bare
    cases bare
  · have put : t.probes.get n = some { r with place := .mounted b } := by rw [here.seated n seat, slot]; rfl
    exact ⟨State.mount_mounted put rfl fun m q at_m place => Option.some.inj ((here.only m q at_m place).symm.trans seat), put⟩

/-- An arm that finds a record, with no record in common (R142). -/
theorem resolution_finds (tables : Tables s) (differ : s.differs reads) {b : Arm} {n : Slot} {r : Probe}
    (finds : ∃ code, found b = some (.present code) ∧ s.matching code = some n) (slot : s.probes.get n = some r) :
    (r.place = .mounted b → t.mount b = .record n ∧ t.probes.get n = some r)
    ∧ (∀ k, r.place = .stored k → t.mount b = .record n ∧ t.probes.get n = some { r with place := .mounted b }
        ∧ (t.pockets.get k).state = .empty ∧ (t.pockets.get k).unexpected = (s.pockets.get k).level)
    ∧ (r.place = .lost → t.mount b = .record n ∧ t.probes.get n = some { r with place := .mounted b })
    ∧ (r.place = .mounted b.other ∨ r.place = .inTransit b.other → t.mount b = .unknown) := by
  obtain ⟨code, read, same⟩ := finds
  obtain ⟨leaves, bare, seated⟩ := resolution_leaves is free probes pockets unknown change tables differ read
  rw [found_present same slot] at leaves bare seated
  refine ⟨fun place => ?_, fun k place => ?_, fun place => ?_, fun away => ?_⟩
  · obtain ⟨mount, there⟩ := seated n r (by rw [place]; exact if_pos rfl) slot
    rw [← place] at there
    exact ⟨mount, there⟩
  · obtain ⟨mount, there⟩ := seated n r (by rw [place]; rfl) slot
    have emptied := leaves.left n k (by rw [place]) ((tables.1 k n).2 ⟨r, slot, place⟩)
    exact ⟨mount, there, by rw [emptied], by rw [emptied]⟩
  · exact seated n r (by rw [place]; rfl) slot
  · have none : (Found.record n r.place).seats b = none := by
      rcases away with place | place
      · rw [place]; exact if_neg (by cases b <;> decide)
      · rw [place]; rfl
    rw [bare none, Found.strange, none]
    rfl

/-- What becomes of the mounts and of the records once the reads of an inventory are resolved (R142). -/
theorem resolution_outcomes (tables : Tables s) :
    let finds := fun (b : Arm) (n : Slot) => ∃ code, found b = some (.present code) ∧ s.matching code = some n
    let both := ∃ n, finds .A n ∧ finds .B n
    (∀ b, found b = some .absent ∨ found b = some .error → t.mount b = .none)
    ∧ (∀ b code, found b = some (.present code) → s.matching code = none → t.mount b = .unknown)
    ∧ (∀ b n r, ¬ both → finds b n → s.probes.get n = some r →
        (r.place = .mounted b → t.mount b = .record n ∧ t.probes.get n = some r)
        ∧ (∀ k, r.place = .stored k → t.mount b = .record n ∧ t.probes.get n = some { r with place := .mounted b }
            ∧ (t.pockets.get k).state = .empty ∧ (t.pockets.get k).unexpected = (s.pockets.get k).level)
        ∧ (r.place = .lost → t.mount b = .record n ∧ t.probes.get n = some { r with place := .mounted b })
        ∧ (r.place = .mounted b.other ∨ r.place = .inTransit b.other → t.mount b = .unknown))
    ∧ (∀ b n r, found b ≠ none → s.probes.get n = some r → r.place = .mounted b → (both ∨ ¬ finds b n) →
        t.probes.get n = some { r with place := .lost })
    ∧ (∀ n r, finds .A n → finds .B n → s.probes.get n = some r →
        t.probes.get n = some { r with place := .lost } ∧ t.mount .A = .unknown ∧ t.mount .B = .unknown) := by
  intro finds both
  have finds_of : ∀ b n pl, s.finding reads b = some (.record n pl) → finds b n := fun b n pl h => by
    rw [finding_of (is b)] at h
    obtain ⟨x, read, record⟩ := Option.map_eq_some_iff.1 h
    obtain ⟨r, -, -, code, rfl, same⟩ := State.found_record record
    exact ⟨code, read, same⟩
  have differs : ¬ both → s.differs reads := fun no n pl ql a b => no ⟨n, finds_of .A n pl a, finds_of .B n ql b⟩
  have lone : ∀ b x, found b = some x → (∀ n, ¬ finds b n) → ¬ both := fun b x read none ⟨n, a, c⟩ => by
    cases b
    · exact none n a
    · exact none n c
  refine ⟨fun b gone => ?_, fun b code read new => ?_, fun b n r no finds slot => ?_, fun b n r read slot place apart => ?_,
    fun n r a b slot => ?_⟩
  · obtain ⟨x, read, absent⟩ : ∃ x, found b = some x ∧ s.found x = .absent := by
      rcases gone with read | read <;> exact ⟨_, read, rfl⟩
    have no : ∀ n, ¬ finds b n := fun n ⟨code, present, _⟩ => by rcases gone with read | read <;> simp [read] at present
    obtain ⟨-, bare, -⟩ := resolution_leaves is free probes pockets unknown change tables (differs (lone b x read no)) read
    rw [absent] at bare
    exact bare rfl
  · have no : ∀ n, ¬ finds b n := fun n ⟨c, present, same⟩ => by
      rw [read] at present
      cases present
      rw [new] at same
      cases same
    obtain ⟨-, bare, -⟩ := resolution_leaves is free probes pockets unknown change tables (differs (lone b _ read no)) read
    rw [found_stranger new] at bare
    exact bare rfl
  · exact resolution_finds is free probes pockets unknown change tables (differs no) finds slot
  · by_cases common : both
    · obtain ⟨m, a, c⟩ := common
      obtain ⟨-, -, losts⟩ := resolution_common is free probes unknown change a c
      exact losts b n r slot place
    · obtain ⟨x, some⟩ := Option.ne_none_iff_exists'.1 read
      obtain ⟨leaves, -, -⟩ := resolution_leaves is free probes pockets unknown change tables (differs common) some
      refine leaves.lost n r slot place fun seat => (apart.resolve_left common) ?_
      obtain ⟨pl, record, -⟩ := Found.seats_place seat
      exact finds_of b n pl (by rw [finding_of (is b), some, Option.map_some, record])
  · obtain ⟨mount, there, -⟩ := resolution_common is free probes unknown change a b
    exact ⟨by rw [there, slot]; rfl, mount .A, mount .B⟩

end

/-! ### The end of an inventory while the part is READY -/

/-- The notice of an inventory that has changed something (R140). -/
def State.told (s : State) (changed : Bool) : State := if changed then s.raise .S .pocketChanged else s

theorem State.told_shape (s : State) (changed : Bool) : s.told changed = { s with links := (s.told changed).links } := by
  unfold State.told
  split <;> rfl

theorem State.told_iff (s : State) (changed : Bool) : .pocketChanged ∈ ((s.told changed).links.get .S).flags
    ↔ .pocketChanged ∈ (s.links.get .S).flags ∨ changed = true := by
  unfold State.told
  split
  · next is => rw [State.raise_flags, mem_addNotice]; simp [is]
  · next isnt => simp [isnt]

theorem endInventory_ready {s : State} {again changed : Bool} {reads : PerArm InvRead} (ready : s.startup = .ready)
    (inventory : s.inventory = .running again reads changed) : endInventory s
    = if again then startInventory (s.told changed) else ({ s.told changed with inventory := .idle }, []) := by
  have on : s.ready = true := by simp [State.ready, ready]
  have still : (s.told changed).startup = .ready := by rw [State.told_shape]; exact ready
  have told : (if changed = true then s.raise .S .pocketChanged else s) = s.told changed := rfl
  simp only [endInventory, inventory, on, Bool.and_true, told, still, reduceCtorEq, if_false]

theorem endInventory_last {s u : State} {again changed x : Bool} {reads : PerArm InvRead} {ps : Table 32 (Option Probe)}
    {ks : Table 12 Pocket} {us : PerArm Bool} (ready : s.startup = .ready)
    (fields : s.resolution again changed reads = { s with probes := ps, pockets := ks, unknown := us, inventory := .running again reads x })
    (kept : ExceptZones (s.resolution again changed reads) u) :
    endInventory u = if again then startInventory (u.told x) else ({ u.told x with inventory := .idle }, []) := by
  rw [fields] at kept
  obtain ⟨_, _, _, _, _, rfl⟩ := ExceptZones_update kept
  exact endInventory_ready ready rfl

/-- An inventory that ends with a repeat asked starts anew (R140). -/
theorem inventory_repeats {a : Arm} {ans : PridAnswer} {reads : PerArm InvRead} {changed : Bool} {s : State} (ready : s.startup = .ready)
    (inventory : s.inventory = .running true reads changed) (reader : s.readers.get a = ⟨some [.inventory], none⟩)
    (other : reads.get a.other ≠ .asked) (unawaited : s.waiters = []) (free : ∀ b, s.change.get b = none) :
    ∃ t again, Goes (.identityReadComplete a ans) s t ∧ t.inventory = .running false ⟨.asked, .asked⟩ again
      ∧ t.readers.get a = ⟨some [.inventory], none⟩ ∧ t.readers.get a.other = (s.readers.get a.other).ask .inventory
      ∧ (changed = true → .pocketChanged ∈ (t.links.get .S).flags)
      ∧ t.motion = s.motion ∧ t.axes = s.axes ∧ t.change = s.change ∧ steady t = steady s := by
  obtain ⟨u, kept, ends⟩ := settle_inventoryRead (readResult ans) inventory other unawaited
  obtain ⟨ps, ks, us, x, fields⟩ := s.resolution_fields true changed (reads.set a (.got (readResult ans)))
  have marked : changed = true → x = true := fun is => by
    have : (s.resolution true changed (reads.set a (.got (readResult ans)))).inventory
        = .running true (reads.set a (.got (readResult ans))) (changed || _) := rfl
    rw [fields, is, Bool.true_or] at this
    cases this
    rfl
  have finish := endInventory_last ready fields kept
  rw [fields] at kept
  obtain ⟨_, _, _, _, _, same⟩ := ExceptZones_update kept
  have told := u.told_shape x
  have flagged := (u.told_iff x).2
  have frees : ∀ b, (u.told x).change.get b = none := fun b => by rw [told, same]; exact free b
  obtain ⟨v, again, judged, starts⟩ := startInventory_both frees
  rw [if_pos rfl, starts] at finish
  have done := ends 0 _ (Nat.zero_le _) (by rw [finish]; exact Runs.nil _)
  have readers : (u.told x).readers = s.readers := by rw [told, same]
  refine ⟨_, again, congrArg Host.Outcome.next ((readEnds_one reader ans).trans (by rw [deliver, done])), rfl, ?_, ?_, fun is => ?_, ?_⟩
  · rw [readers]
    refine (PerArm.get_set _ _ _).trans ?_
    cases a
    · rw [show s.readers.a = _ from reader]; rfl
    · rw [show s.readers.b = _ from reader]; rfl
  · rw [readers]
    cases a <;> rfl
  · rw [judged.shape]
    exact flagged (.inr (marked is))
  · rw [judged.shape, told, same]
    exact ⟨rfl, rfl, rfl, rfl⟩

/-- An inventory that ends with no repeat asked: what is left is the resolution, and POCKET_CHANGED where it changed something
(R140, R142). -/
theorem inventory_ends {a : Arm} {ans : PridAnswer} {reads : PerArm InvRead} {changed : Bool} {s : State} (ready : s.startup = .ready)
    (inventory : s.inventory = .running false reads changed) (reader : s.readers.get a = ⟨some [.inventory], none⟩)
    (other : reads.get a.other ≠ .asked) (unawaited : s.waiters = []) :
    ∃ t, Goes (.identityReadComplete a ans) s t ∧ t.inventory = .idle ∧ t.readers.get a = ⟨none, none⟩
      ∧ (.pocketChanged ∈ (t.links.get .S).flags ↔ .pocketChanged ∈ (s.links.get .S).flags ∨ changed = true ∨ t.judged ≠ s.judged)
      ∧ (∃ r : State, r = s.heard false changed (reads.set a (.got (readResult ans)))
        ∧ t.probes = (r.resolved (reads.set a (.got (readResult ans)))).probes
        ∧ t.pockets = (r.resolved (reads.set a (.got (readResult ans)))).pockets
        ∧ t.unknown = (r.resolved (reads.set a (.got (readResult ans)))).unknown)
      ∧ t.motion = s.motion ∧ t.axes = s.axes ∧ t.change = s.change ∧ steady t = steady s := by
  obtain ⟨u, kept, ends⟩ := settle_inventoryRead (readResult ans) inventory other unawaited
  have fields := Tabled_resolved (s.heard false changed (reads.set a (.got (readResult ans)))) (reads.set a (.got (readResult ans)))
  obtain ⟨ps, ks, us, fields⟩ := fields
  have whole : s.resolution false changed (reads.set a (.got (readResult ans))) = { s with
      probes := ps, pockets := ks, unknown := us
      inventory := .running false (reads.set a (.got (readResult ans)))
        (changed || decide (State.judged { s with probes := ps, pockets := ks, unknown := us } ≠ s.judged)) } := by
    rw [State.resolution, fields]
    rfl
  generalize judges : (changed || decide (State.judged { s with probes := ps, pockets := ks, unknown := us } ≠ s.judged)) = x at whole
  have finish := endInventory_last ready whole kept
  rw [whole] at kept
  obtain ⟨_, _, _, _, _, same⟩ := ExceptZones_update kept
  have told := u.told_shape x
  have flagged := u.told_iff x
  rw [if_neg Bool.false_ne_true] at finish
  have done := ends 0 _ (Nat.zero_le _) (by rw [finish]; exact Runs.nil _)
  have readers : (u.told x).readers = s.readers := by rw [told, same]
  have marks : x = true ↔ changed = true ∨ State.judged { s with probes := ps, pockets := ks, unknown := us } ≠ s.judged := by
    rw [← judges, Bool.or_eq_true, decide_eq_true_eq]
  refine ⟨_, congrArg Host.Outcome.next ((readEnds_one reader ans).trans (by rw [deliver, done])), rfl, ?_, ?_,
    ⟨_, rfl, ?_, ?_, ?_⟩, ?_⟩
  · exact (PerArm.get_set _ _ _).trans (by simp only [readers, reader]; rfl)
  · have links : u.links = s.links := by rw [same]
    rw [links] at flagged
    refine flagged.trans (or_congr_right (marks.trans (or_congr_right ?_)))
    rw [State.judged, State.modReader, told, same]
    rfl
  · rw [fields, State.modReader, told, same]
  · rw [fields, State.modReader, told, same]
  · rw [fields, State.modReader, told, same]
  · rw [State.modReader, told, same]
    exact ⟨rfl, rfl, rfl, rfl⟩

/-! ### The obligation -/

theorem ExceptZones_next {u v : State} (kept : ExceptZones u v) {a : Arm} {k : Asker} (reader : u.readers.get a = ⟨some [k], none⟩) :
    ExceptZones { u with readers := u.readers.set a ⟨none, none⟩ } (v.modReader a Reader.next) := by
  obtain ⟨_, _, _, _, _, rfl⟩ := ExceptZones_update kept
  rw [State.modReader, reader]
  rfl

/-- A registration's read that ends accepted (R130). -/
theorem register_accepted {s : State} {a : Arm} {e : RegisterEntry} {ans : PridAnswer} {n : Slot}
    (reader : s.readers.get a = ⟨some [.register], none⟩) (work : (s.links.get .S).work = some (.register e a))
    (passes : firstFailure (s.registerChecks e a (readResult ans)) = none) (free : s.freeSlot = some n) (unawaited : s.waiters = [])
    (bare : ∀ m q, s.probes.get m = some q → q.place ≠ .mounted a) :
    ∃ t, Goes (.identityReadComplete a ans) s t ∧ t.mount a = .record n
      ∧ ExceptZones { ((s.setProbe n (some (newRecord e (.mounted a)))).setUnknown a false).respond .S .ok (.slot n) with
          readers := s.readers.set a ⟨none, none⟩ } t := by
  have accepts := registerDone_accepted passes free .S
  have work : s.links.s.work = some (.register e a) := work
  have here : Vector.get (((s.setProbe n (some (newRecord e (.mounted a)))).setUnknown a false).respond .S .ok (.slot n)).probes n
      = some (newRecord e (.mounted a)) := Table.get_put_same _ _ _
  have others : ∀ m, m ≠ n → Vector.get (((s.setProbe n (some (newRecord e (.mounted a)))).setUnknown a false).respond .S .ok
      (.slot n)).probes m = s.probes.get m := fun m apart => (Table.get_put _ _ _ _).trans (if_neg apart)
  have same : (((s.setProbe n (some (newRecord e (.mounted a)))).setUnknown a false).respond .S .ok (.slot n)).readers = s.readers := rfl
  have still : (((s.setProbe n (some (newRecord e (.mounted a)))).setUnknown a false).respond .S .ok (.slot n)).waiters = [] := unawaited
  generalize ((s.setProbe n (some (newRecord e (.mounted a)))).setUnknown a false).respond .S .ok (.slot n) = u
    at accepts here others same still
  have kept := settle_remount (s := s) (t := u) still
  have done : settle (deliver a (readResult ans) .register s) = settle (u, remount s u) := by
    rw [deliver, registered]
    simp only [work, if_true]
    rw [accepts]
  refine ⟨_, congrArg Host.Outcome.next ((readEnds_one reader ans).trans (by rw [done])), ?_, ?_⟩
  · obtain ⟨_, _, _, _, _, rest⟩ := ExceptZones_update kept
    rw [rest]
    refine State.mount_mounted here rfl fun m q at_m place => Decidable.byContradiction fun apart => bare m q ?_ place
    exact (others m apart).symm.trans at_m
  · rw [← same]
    exact ExceptZones_next kept (by rw [same, reader])

/-- A registration's read that ends refused (R130). -/
theorem register_refused {s : State} {a : Arm} {e : RegisterEntry} {ans : PridAnswer} {x : Code}
    (reader : s.readers.get a = ⟨some [.register], none⟩) (work : (s.links.get .S).work = some (.register e a))
    (fails : firstFailure (s.registerChecks e a (readResult ans)) = some x) :
    Goes (.identityReadComplete a ans) s { s.respond .S x with readers := s.readers.set a ⟨none, none⟩ } := by
  refine congrArg Host.Outcome.next ((readEnds_one reader ans).trans ?_)
  have work : s.links.s.work = some (.register e a) := work
  rw [deliver, registered]
  simp only [work, if_true]
  rw [registerDone_refused fails, settle_nil]
  exact next_alone reader rfl

/-- Settles O49: the reads asked and ended, and the inventory's end from what its reads resolve to. -/
theorem identityReads : Obligations.IdentityReads := by
  unfold Obligations.IdentityReads
  intro asked ask read known full carries
  have asks : ∀ r k, asked r k = r.ask k := fun r k => by
    obtain ⟨inFlight, pending⟩ := r
    cases inFlight <;> cases pending <;> rfl
  have ask_eq : ∀ s a k, ask s a k = s.askRead a k := fun s a k => by simp only [ask, asks]; rfl
  have read_eq : ∀ ans, read ans = readResult ans := fun ans => by
    cases ans with
    | silent => rfl
    | garbled => rfl
    | code c => simp only [read, readResult, Bool.and_eq_true, decide_eq_true_eq]
  have known_iff : ∀ (s : State) e, (s.matching e.identity).isSome = true ↔ known s e := fun s e => matching_isSome_iff s e.identity
  have carries_iff : ∀ (s : State) a, (s.mountedOn a).isSome = true ↔ carries s a := fun s a => by
    rw [← Bool.not_eq_false, ← Option.not_isNone, Bool.not_eq_false', s.mountedOn_isNone_iff]
    simp only [Classical.not_forall, Classical.not_not, carries, exists_prop]
  refine ⟨fun a s taken => ?verify, fun a ans s idle => ?still, fun a ans s reader work => ?verified,
    fun e x s taken at_x => ?register, fun e a ans s reader work => ?registered, fun s taken => ?inventory,
    fun a ans reads changed s => ?ends⟩
  case verify =>
    obtain ⟨g, does, -, awaits⟩ := serve_through taken (c := .verifyProbe a.link) (by cases a <;> rfl) (ownArm a.link (verifyProbe a.link))
    refine congrArg Host.Outcome.next (does.trans ?_)
    rw [ownArm_link, ask_eq]
    exact awaits (s.askRead a .verify) .verify rfl
  case still => exact congrArg Host.Outcome.next (readEnds_idle idle ans)
  case verified =>
    obtain ⟨v, answer, some, none⟩ := verified_spec s a (readResult ans)
    rw [read_eq]
    refine ⟨v, _, congrArg Host.Outcome.next ((readEnds_one reader ans).trans ?_), rfl, some, none⟩
    rw [deliver, verifyDone, if_pos work, settle_nil, answer]
    exact next_alone reader rfl
  case register =>
    intro no bad
    have bad_iff := badRegister_arm_iff at_x
    have good_of (good : ¬ bad) : badRegister e = false := by rw [← Bool.not_eq_true, bad_iff]; exact good
    have new_of (new : ¬ known s e) (g : LinkState → LinkState) : ((s.modLink .S g).matching e.identity).isSome = false := by
      rw [← Bool.not_eq_true, known_iff]; exact new
    have room (free : ¬ full s) : s.freeSlot ≠ none := fun none => free fun n empty => by
      have := List.find?_eq_none.1 none n (List.mem_finRange n)
      simp [empty] at this
    refine ⟨fun saving => ?_, fun idle runs => ?_, fun idle rests is_bad => ?_, fun a idle rests good at_a => ?_⟩
    · exact congrArg Host.Outcome.next (serve_reads taken rfl fun g => checked_first (s := s.modLink .S g) (saving_of_ne saving))
    · exact congrArg Host.Outcome.next (serve_reads taken rfl fun g => checked_inventory (s := s.modLink .S g) idle runs)
    · exact congrArg Host.Outcome.next (serve_reads taken rfl fun g =>
        registerProbe_bad (s := s.modLink .S g) idle rests (bad_iff.2 is_bad))
    · subst at_a
      have arm (new : ¬ known s e) (free : ¬ full s) (g : LinkState → LinkState) := registerProbe_arm (s := s.modLink .S g) (l := .S)
        idle rests (good_of good) (new_of new g) (room free) at_x
      have mounted (g : LinkState → LinkState) : ((s.modLink .S g).mountedOn a).isSome = true ↔ carries s a := carries_iff s a
      refine ⟨fun is_known => ?_, fun new is_full => ?_, fun new free mount => ?_, fun new free bare busy => ?_,
        fun new free bare rest => ?_⟩
      · exact congrArg Host.Outcome.next (serve_reads taken rfl fun g =>
          registerProbe_known (s := s.modLink .S g) idle rests (good_of good) ((known_iff _ e).2 is_known))
      · exact congrArg Host.Outcome.next (serve_reads taken rfl fun g =>
          registerProbe_full (s := s.modLink .S g) idle rests (good_of good) (new_of new g) (freeSlot_eq_none is_full))
      · exact congrArg Host.Outcome.next (serve_reads taken rfl fun g => (arm new free g).trans (checked_first ((mounted g).2 mount)))
      · exact congrArg Host.Outcome.next (serve_reads taken rfl fun g => (arm new free g).trans
          ((checked_next (Bool.eq_false_iff.2 (mt (mounted g).1 bare))).trans (checked_first (Option.isSome_iff_ne_none.2 busy))))
      · obtain ⟨g, does, -, awaits⟩ := serve_through taken (c := .registerProbe .S e) rfl (registerProbe .S e)
        refine congrArg Host.Outcome.next (does.trans ?_)
        rw [arm new free g, checked_next (Bool.eq_false_iff.2 (mt (mounted g).1 bare)), checked_next (by rw [State.modLink_change, rest]; rfl),
          checked_nil, ask_eq]
        exact awaits (s.askRead a .register) (.register e a) rfl
  case registered =>
    intro ends
    have new_of (new : ¬ known s e) : (s.matching e.identity).isSome = false := by rw [← Bool.not_eq_true, known_iff]; exact new
    have bare_of (bare : ¬ carries s a) : (s.mountedOn a).isSome = false := by rw [← Bool.not_eq_true, carries_iff]; exact bare
    have room (free : ¬ full s) : s.freeSlot.isNone = false := Bool.eq_false_iff.2 fun none => free fun n empty => by
      have := List.find?_eq_none.1 (Option.isNone_iff_eq_none.1 none) n (List.mem_finRange n)
      simp [empty] at this
    rw [read_eq]
    refine ⟨fun is_known => ?_, fun new is_full => ?_, fun new free mount => ?_, fun new free bare busy => ?_,
      fun new free bare rest misfits => ?_, fun n code new bare empty lowest rest unawaited answer fits => ?_⟩
    · exact register_refused reader work (by simp [State.registerChecks, (known_iff s e).2 is_known])
    · exact register_refused reader work (by simp [State.registerChecks, new_of new, freeSlot_eq_none is_full])
    · exact register_refused reader work (by simp [State.registerChecks, new_of new, room free, (carries_iff s a).2 mount])
    · exact register_refused reader work (by
        simp [State.registerChecks, new_of new, room free, bare_of bare, Option.isSome_iff_ne_none.2 busy])
    · have none : s.answers (readResult ans) e.identity = false := Bool.eq_false_iff.2 fun is => by
        obtain ⟨code, present, fits⟩ := answers_iff.1 is
        rw [misfits code present] at fits
        cases fits
      exact register_refused reader work (by simp [State.registerChecks, new_of new, room free, bare_of bare, rest, none])
    · have free := freeSlot_eq_some empty lowest
      have passes : firstFailure (s.registerChecks e a (readResult ans)) = none := by
        simp [State.registerChecks, new_of new, free, bare_of bare, rest, answers_iff.2 ⟨code, answer, fits⟩]
      exact register_accepted reader work passes free unawaited fun m q at_m place => bare ⟨m, q, at_m, place⟩
  case inventory =>
    refine ⟨fun ⟨a, busy⟩ => ?_, fun again reads changed free runs => ?_, fun free rests => ?_⟩
    · exact congrArg Host.Outcome.next (serve_reads taken rfl fun g => checked_first (s := s.modLink .S g)
        (s.anyContext_iff.2 ⟨a, busy⟩))
    · have quiet : s.anyContext = false := (anyContext_eq_false_iff s).2 free
      obtain ⟨g, does, answers, -⟩ := serve_through taken (c := .inventory .S) rfl (inventoryAsked .S)
      refine congrArg Host.Outcome.next (does.trans ?_)
      have rest : inventoryAsked .S (s.modLink .S g) = settle (askInventory ((s.modLink .S g).respond .S .ok)) := checked_next quiet
      have repeats : askInventory (answered s .S .ok .none)
          = ({ answered s .S .ok .none with inventory := .running true reads changed }, []) := by
        have : (answered s .S .ok .none).inventory = .running again reads changed := runs
        simp only [askInventory, this]
      rw [rest, answers s .ok .none rfl, repeats, settle_nil]
      rfl
    · have quiet : s.anyContext = false := (anyContext_eq_false_iff s).2 free
      obtain ⟨g, does, answers, -⟩ := serve_through taken (c := .inventory .S) rfl (inventoryAsked .S)
      have rest : inventoryAsked .S (s.modLink .S g) = settle (askInventory ((s.modLink .S g).respond .S .ok)) := checked_next quiet
      obtain ⟨t, changed, judged, starts⟩ := startInventory_both (s := answered s .S .ok .none) free
      have asks_it : askInventory (answered s .S .ok .none) = startInventory (answered s .S .ok .none) := by
        have : (answered s .S .ok .none).inventory = .idle := rests
        simp only [askInventory, this]
      rw [answers s .ok .none rfl, asks_it, starts, settle_nil] at rest
      refine ⟨{ s with
          probes := t.probes, pockets := t.pockets, inventory := .running false ⟨.asked, .asked⟩ changed
          readers := ⟨asked s.readers.a .inventory, asked s.readers.b .inventory⟩ }, changed,
        congrArg Host.Outcome.next (does.trans (rest.trans ?_)), rfl, fun p empty => ?_, fun p n r occupied level slot place => ?_,
        fun p apart => judged.apart p apart⟩
      · rw [judged.shape, asks, asks]
        rfl
      · have now := judged.empty p empty
        rw [if_pos p.isLt] at now
        exact ⟨by rw [now]; exact empty, by rw [now]; rfl⟩
      · have absent : (answered s .S .ok .none).absentBelow 12 n := ⟨p, p.isLt, occupied, level⟩
        exact ⟨judged.left p n r absent occupied slot place, (judged.lost n absent).trans (by
          rw [show (answered s .S .ok .none).probes = s.probes from rfl, slot]; rfl)⟩
  case ends =>
    intro marked
    refine ⟨fun ready inventory reader _ other unawaited free => ?_, fun ready inventory reader _ other unawaited tables => ?_⟩
    · simp only [asks]
      exact inventory_repeats ready inventory reader other unawaited free
    · intro found finds both free
      obtain ⟨t, goes, idle, next, notices, ⟨r, heard, probes, pockets, unknown⟩, motion, axes, change, still⟩ :=
        inventory_ends (ans := ans) ready inventory reader other unawaited
      have is : ∀ b, ((reads.set a (.got (readResult ans))).get b).result? = found b := fun b => by
        simp only [found, read_eq]
        by_cases same : b = a
        · subst same
          rw [PerArm.get_set, if_pos rfl]
          rfl
        · rw [PerArm.get_set_ne _ _ same, if_neg same]
          cases reads.get b <;> rfl
      subst heard
      obtain ⟨absents, strangers, finds_one, losts, commons⟩ := resolution_outcomes
        (s := s.heard false changed (reads.set a (.got (readResult ans)))) is free probes pockets unknown change tables
      exact ⟨t, goes, idle, next, notices.trans (or_congr_right (or_congr_right judged_ne_iff)), absents, strangers, finds_one, losts,
        commons, motion, axes, change, still⟩

end Sys2Proof.Machine
end
section
/-! PROOFS. The end of LOADING (O9). -/
namespace Sys2Proof.Machine
open Sys2Proof.Safety

/-- What the SETTINGS section leaves of the state but settings, links, records and pockets. -/
theorem install_settings_fields {s : State} {im : Image} (named : im.section = .settings) :
    ∃ settings links ps ks, (s.install im).1 = { s with settings := settings, links := links, probes := ps, pockets := ks } := by
  cases im with
  | settings e =>
    obtain ⟨u, dropped, done⟩ := installSettings_spec s e
    rw [done, dropped.fields]
    exact ⟨_, _, _, _, rfl⟩
  | calibration cal ratio w => cases named
  | zones zs => cases named
  | channels cs scan interval => cases named
  | probes es => cases named
  | pockets ds => cases named

theorem judgeSection_section {x : Section} {r : SectionRead} {im : Image} (judged : judgeSection x r = some im) : im.section = x := by
  cases r with
  | noAnswer => cases judged
  | region kind length content crc =>
    simp only [judgeSection] at judged
    split at judged
    · next good =>
      simp only [Bool.and_eq_true, decide_eq_true_eq] at good
      cases judged
      exact good.1.1.2
    · cases judged

/-- Both standing sets formed for two disabled UNREFERENCED arms that hold no zone: arm A claims every SHARED zone (R109, R124). -/
theorem runs_recompute_claims {s : State} (loaded : s.startup ≠ .loading) (unawaited : s.waiters = [])
    (disabled : ∀ a, denOf (s.motion.get a).phase = false) (lost : ∀ a, s.unreferenced a = true)
    (unheld : ∀ z, s.holders.get z = none) : ∃ t, Runs 6 [.recompute .A, .recompute .B] s t ∧ ExceptZones s t
      ∧ (∀ z, t.holders.get z = if (s.zones.get z).kind = .shared then some (.A, .claim) else none)
      ∧ ∀ a z, z ∈ t.standing.get a ↔ (s.zones.get z).kind = .shared := by
  have all : ∀ a z, z ∈ s.standingSet a ↔ (s.zones.get z).kind = .shared := fun a z => by
    rw [s.mem_standingSet]
    exact and_iff_left (.inl (lost a))
  have claims : s.deemed .A = .claim := if_pos (lost .A)
  obtain ⟨r, first, mine⟩ := runs_recompute_retired (a := .A) loaded unawaited (disabled .A)
  have kept := mine.kept
  have base : r.startup = s.startup ∧ r.waiters = s.waiters ∧ r.motion = s.motion ∧ r.zones = s.zones
      ∧ r.standingSet .B = s.standingSet .B := by
    obtain ⟨_, _, _, _, _, rfl⟩ := ExceptZones_update kept
    exact ⟨rfl, rfl, rfl, rfl, rfl⟩
  obtain ⟨startup, waiters, motion, zones, set⟩ := base
  obtain ⟨t, second, other⟩ := runs_recompute_retired (s := r) (a := .B) (by rwa [startup]) (by rwa [waiters])
    (by rw [motion, disabled])
  refine ⟨t, first.cons second, ExceptZones_trans kept other.kept, fun z => ?_, fun a z => ?_⟩
  · by_cases kind : (s.zones.get z).kind = .shared
    · have taken := mine.free z kind (unheld z)
      rw [if_pos ((all .A z).2 kind), claims] at taken
      rw [if_pos kind]
      exact other.others z _ taken
    · rw [if_neg kind]
      exact other.unshared z (by rwa [zones]) (mine.unshared z kind (unheld z))
  · rw [other.standing, mine.standing, set]
    cases a
    · exact all .A z
    · exact all .B z

/-- The read of the last section ends LOADING (R206, R208). -/
theorem settle_sectionEnds {r : SectionRead} {s v : State} {fault : Bool}
    (ends : sectionEnds .settings r s = ({ v with loadFaults := s.loadFaults.put .settings fault, loading := none, startup := .inventory },
      [.recompute .A, .recompute .B, .askInventory]))
    (fields : ∃ settings links ps ks, v = { s with settings := settings, links := links, probes := ps, pockets := ks })
    (start : ∀ a : Arm, s.unreferenced a = true ∧ s.change.get a = none ∧ denOf (s.motion.get a).phase = false
      ∧ s.readers.get a = ⟨none, none⟩) (unawaited : s.waiters = []) (unheld : ∀ z, s.holders.get z = none)
    (rests : s.inventory = .idle) :
    ∃ t, settle (sectionEnds .settings r s) = t ∧ t.settings = v.settings ∧ t.links = v.links
      ∧ t.loadFaults = s.loadFaults.put .settings fault
      ∧ (∀ n, v.absent n → t.probes.get n = (v.probes.get n).map fun p => { p with place := .lost })
      ∧ (∀ n, ¬ v.absent n → t.probes.get n = v.probes.get n)
      ∧ t.loading = none ∧ t.startup = .inventory
      ∧ (∀ z : ZoneId, t.holders.get z = if (s.zones.get z).kind = .shared then some (.A, .claim) else none)
      ∧ (∀ (a : Arm) (z : ZoneId), z ∈ t.standing.get a ↔ (s.zones.get z).kind = .shared)
      ∧ t.inventory ≠ .idle ∧ (∀ a : Arm, t.readers.get a = ⟨some [.inventory], none⟩)
      ∧ t.motion = s.motion ∧ t.axes = s.axes ∧ t.zones = s.zones := by
  obtain ⟨settings, links, ps, ks, rfl⟩ := fields
  obtain ⟨u, run, kept, holders, standing⟩ := runs_recompute_claims
    (s := { s with settings := settings, links := links, probes := ps, pockets := ks, loadFaults := s.loadFaults.put .settings fault
                   loading := none, startup := .inventory }) (by nofun) unawaited (fun a => (start a).2.2.1) (fun a => (start a).1) unheld
  obtain ⟨_, _, _, _, _, same⟩ := ExceptZones_update kept
  obtain ⟨t, changed, judged, starts⟩ := startInventory_both (s := u) fun b => by rw [same]; exact (start b).2.1
  have asks : perform .askInventory u = startInventory u := by
    have idle : u.inventory = .idle := by rw [same]; exact rests
    simp only [perform, askInventory, idle]
  rw [starts] at asks
  have last := run.append (Runs.piece asks (Runs.nil _))
  refine ⟨_, (congrArg settle ends).trans (last.settle (by decide)), ?_⟩
  have absent : ∀ n, u.absent n ↔ ({ s with settings := settings, links := links, probes := ps, pockets := ks } : State).absent n :=
    fun n => by rw [State.absent_iff, State.absent_iff, same]
  have losts : ∀ n, u.absent n → t.probes.get n = (ps.get n).map fun p => { p with place := .lost } := fun n gone => by
    rw [judged.lost n gone, same]
  have stays : ∀ n, ¬ u.absent n → t.probes.get n = ps.get n := fun n here => by rw [judged.stays n here, same]
  have shape := judged.shape
  refine ⟨?_, ?_, ?_, fun n gone => losts n ((absent n).2 gone), fun n here => stays n (mt (absent n).1 here), ?_, ?_, fun z => ?_,
    fun a z => ?_, nofun, fun a => ?_, ?_⟩
  · rw [shape, same]
  · rw [shape, same]
  · rw [shape, same]
  · rw [shape, same]
  · rw [shape, same]
  · rw [shape]; exact holders z
  · rw [shape]; exact standing a z
  · have reader : u.readers.get a = ⟨none, none⟩ := by rw [same]; exact (start a).2.2.2
    cases a
    · rw [PerArm.get, show u.readers.a = ⟨none, none⟩ from reader]; rfl
    · rw [PerArm.get, show u.readers.b = ⟨none, none⟩ from reader]; rfl
  · rw [shape, same]
    exact ⟨rfl, rfl, rfl⟩

/-- Settles O9: the section installed, then both claims and the start of the inventory. -/
theorem loadingEnds : Obligations.LoadingEnds := by
  unfold Obligations.LoadingEnds
  intro r s loading start unawaited unheld rests installs
  have named : ((judgeSection .settings r).getD (defaultImage .settings)).section = .settings := by
    cases judged : judgeSection .settings r with
    | none => rfl
    | some im => exact judgeSection_section judged
  obtain ⟨t, settled, settings, links, faults, losts, stays, rest⟩ := settle_sectionEnds (r := r)
    (v := (s.install ((judgeSection .settings r).getD (defaultImage .settings))).1)
    (fault := (judgeSection .settings r).isNone || (s.install ((judgeSection .settings r).getD (defaultImage .settings))).2)
    rfl (install_settings_fields named) start unawaited unheld rests
  have installed : ∀ im fault, (judgeSection .settings r).getD (defaultImage .settings) = im →
      ((judgeSection .settings r).isNone || (s.install im).2) = fault → installs im fault t := by
    rintro im fault rfl rfl
    refine ⟨settings, faults, fun l => by rw [links], fun n free => ?_, fun n p slot => ⟨fun gone => ?_, fun here => ?_⟩⟩
    · by_cases gone : (s.install ((judgeSection .settings r).getD (defaultImage .settings))).1.absent n
      · rw [losts n gone, free]; rfl
      · rw [stays n gone, free]
    · rw [losts n (State.absent_iff.2 gone), slot]; rfl
    · rw [stays n (mt State.absent_iff.1 here), slot]
  refine ⟨t, congrArg Host.Outcome.next (by simp only [loading]; exact settled), fun content section_is region => ?_,
    fun kind length content crc region bad => ?_, fun none => ?_, rest⟩
  · have good := judgeSection_good section_is
    rw [← region] at good
    exact installed content _ (by rw [good]; rfl) (by rw [good]; rfl)
  · have none := judgeSection_bad (.inr ⟨kind, length, content, crc, region, bad⟩)
    exact installed _ _ (by rw [none]; rfl) (by rw [none]; rfl)
  · have none := judgeSection_bad (x := .settings) (.inl none)
    exact installed _ _ (by rw [none]; rfl) (by rw [none]; rfl)

end Sys2Proof.Machine
end
section
/-! PROOFS. The end of a change (R155): the tables it restores, the inventory it asks, and what stands after it. -/
namespace Sys2Proof.Machine
open Sys2Proof.Safety

/-! ### A property that every piece keeps -/

theorem Runs.keeps {P : State → Prop} (hP : Keeps P) {w : Nat} {ts : List Task} {s t : State} (r : Runs w ts s t) (h : P s) : P t := by
  obtain ⟨k, -, run⟩ := r
  have done := run 0 []
  rw [List.append_nil, runTasks_nil] at done
  exact done ▸ runTasks_keeps P (fun x s hs => hP.perform x hs) _ _ _ h

/-- An arm without a change that holds no zone for one: no piece of work gives it either. -/
def Parted (a : Arm) (s : State) : Prop := s.change.get a = none ∧ ∀ z, s.holders.get z ≠ some (a, .change)

theorem Parted_same {a : Arm} {s t : State} (h : Parted a s) (holders : t.holders = s.holders) (change : t.change = s.change) :
    Parted a t := ⟨by rw [change]; exact h.1, by rw [holders]; exact h.2⟩

theorem Parted_keeps (a : Arm) : Keeps (Parted a) where
  same _ _ _ _ _ _ _ _ holders _ change _ _ _ h := Parted_same h holders change
  onLink _ _ _ _ h := Parted_same h rfl rfl
  onCount _ h := Parted_same h rfl rfl
  onSnapshot _ _ _ h := Parted_same h rfl rfl
  onPhase _ _ _ h := Parted_same h rfl rfl
  onResult _ _ _ _ _ h := Parted_same h rfl rfl
  onMotion _ _ _ _ _ _ _ h := Parted_same h rfl rfl
  onAxes _ _ _ _ _ h := Parted_same h rfl rfl
  onCapture _ _ _ _ _ h := Parted_same h rfl rfl
  onHolders _ _ grabs h := ⟨h.1, fun z held => h.2 z (grabs z a held)⟩
  onDropEntry _ _ h := Parted_same h rfl rfl
  onAppendEntry s w h := by
    unfold State.appendEntry
    split
    · exact h
    · exact Parted_same h rfl rfl
  onGrantRack b zs s h := by
    unfold grantRack
    split
    · next step =>
      have other : a ≠ b := fun same => by
        rw [← same, State.stepOf, h.1] at step
        cases step
      refine ⟨(PerArm.get_set_ne _ _ other).trans h.1, fun z held => ?_⟩
      have held := (Table.get_mapIdx _ _ _).symm.trans held
      split at held
      · exact other (congrArg Prod.fst (Option.some.inj held)).symm
      · exact h.2 z held
    · exact h
  onPlace s n pl h := by
    obtain ⟨_, _, _, e⟩ := s.place_fields n pl
    rw [e]
    exact h
  onPocket _ _ _ _ h := Parted_same h rfl rfl
  onRecord _ _ _ _ _ _ h := Parted_same h rfl rfl
  onRack _ _ _ h := Parted_same h rfl rfl
  onContext s b f _ h := by
    refine ⟨?_, h.2⟩
    by_cases same : a = b
    · subst same
      exact (PerArm.get_set _ _ _).trans (by rw [h.1]; rfl)
    · exact (PerArm.get_set_ne _ _ same).trans h.1
  onClosing b o s h := by
    obtain ⟨holders, change, -⟩ := enterClosing_fields b o s
    refine ⟨?_, by rw [holders]; exact h.2⟩
    rw [change]
    by_cases same : a = b
    · subst same
      exact (PerArm.get_set _ _ _).trans (by rw [h.1]; rfl)
    · exact (PerArm.get_set_ne _ _ same).trans h.1
  onDropContext s b h := by
    refine ⟨?_, fun z held => ?_⟩
    · by_cases same : a = b
      · subst same
        exact PerArm.get_set _ _ _
      · exact (PerArm.get_set_ne _ _ same).trans h.1
    · have held := (Table.get_map _ _ _).symm.trans held
      split at held
      · cases held
      · exact h.2 z held

theorem Parted_dropContext (a : Arm) (s : State) : Parted a (s.dropContext a) := by
  refine ⟨PerArm.get_set _ _ _, fun z held => ?_⟩
  have held := (Table.get_map _ _ _).symm.trans held
  split at held
  · cases held
  · contradiction

/-! ### The inventory asked -/

/-- State t is s after an inventory has been asked (R140): where none ran, one has begun and judged the pockets (R141). -/
structure Surveyed (s t : State) : Prop where
  shape : t = { s with probes := t.probes, pockets := t.pockets, inventory := t.inventory, readers := t.readers }
  runs : t.inventory ≠ .idle
  stays : ∀ n, ¬ s.absent n → t.probes.get n = s.probes.get n
  moved : ∀ n, t.probes.get n = s.probes.get n ∨ t.probes.get n = (s.probes.get n).map fun p => { p with place := .lost }
  seated : ∀ k n, (s.pockets.get k).state = .occupied n → ¬ s.absent n → (t.pockets.get k).state = .occupied n
  empty : ∀ k, (s.pockets.get k).state = .empty → (t.pockets.get k).state = .empty

theorem startInventory_fields (s : State) : ∃ reads changed readers, (startInventory s).1
    = { allPockets.foldl State.judgePocket s with inventory := .running false reads changed, readers := readers } := by
  unfold startInventory
  generalize allPockets.foldl State.judgePocket s = u
  dsimp only
  (repeat' split) <;> exact ⟨_, _, _, rfl⟩

theorem startInventory_surveyed {s : State} {a : Arm} (free : s.change.get a = none) :
    ∃ t, startInventory s = (t, []) ∧ Surveyed s t := by
  have judged := allPockets_judged s
  have some_arm : (s.readArms.a || s.readArms.b) = true := by
    cases a with
    | A => rw [Bool.or_eq_true]; exact .inl (Option.isNone_iff_eq_none.2 free)
    | B => rw [Bool.or_eq_true]; exact .inr (Option.isNone_iff_eq_none.2 free)
  obtain ⟨reads, changed, readers, fields⟩ := startInventory_fields s
  refine ⟨(startInventory s).1, Prod.ext rfl (by simp only [startInventory, some_arm, if_true]), ?_⟩
  rw [fields]
  generalize allPockets.foldl State.judgePocket s = u at judged
  exact { shape := by rw [judged.shape]
          runs := nofun
          stays := judged.stays
          moved := fun n => by
            by_cases gone : s.absent n
            · exact .inr (judged.lost n gone)
            · exact .inl (judged.stays n gone)
          seated := fun k n occupied here => by
            have still := (judged.seated k n occupied).resolve_right fun gone => here gone.1
            exact (congrArg Pocket.state still).trans occupied
          empty := fun k is => by
            have now := judged.empty k is
            rw [if_pos k.isLt] at now
            exact (congrArg Pocket.state now).trans is }

theorem runs_askInventory {s : State} {a : Arm} (free : s.change.get a = none) : ∃ t, Runs 1 [.askInventory] s t ∧ Surveyed s t := by
  cases inventory : s.inventory with
  | idle =>
    obtain ⟨t, starts, surveyed⟩ := startInventory_surveyed free
    refine ⟨t, Runs.piece (e := (t, [])) ?_ (Runs.nil t), surveyed⟩
    simp only [perform, askInventory, inventory, starts]
  | running again reads changed =>
    refine ⟨{ s with inventory := .running true reads changed }, Runs.piece (e := (_, [])) ?_ (Runs.nil _), rfl, nofun, fun _ _ => rfl,
      fun _ => .inl rfl, fun _ _ is _ => is, fun _ is => is⟩
    simp only [perform, askInventory, inventory]

/-! ### What is restored -/

/-- Whether the record in a slot is in transit for an arm. -/
def State.moving (s : State) (a : Arm) (n : Slot) : Bool := (s.probes.get n).any fun p => decide (p.place = .inTransit a)

theorem State.moving_iff {s : State} {a : Arm} {n : Slot} : s.moving a n = true ↔ ∃ r, s.probes.get n = some r ∧ r.place = .inTransit a := by
  simp only [State.moving, Option.any_eq_true, decide_eq_true_eq]

/-- A record in transit for an arm put in a place; another stays (R155). -/
def State.settleRecord (s : State) (a : Arm) (n : Slot) (pl : Place) : State := if s.moving a n then s.place n pl else s

/-- The slot of the record that a context drops. -/
def Context.droppedSlot (c : Context) : Option Slot := c.drop.bind fun d => match d.2 with
  | .slot n => some n
  | .unknown => none

theorem Context.droppedSlot_iff {c : Context} {n : Slot} : c.droppedSlot = some n ↔ ∃ p, c.drop = some (p, .slot n) := by
  unfold Context.droppedSlot
  cases c.drop with
  | none => exact iff_of_false nofun nofun
  | some d =>
    obtain ⟨p, d⟩ := d
    cases d with
    | slot m => exact ⟨fun same => ⟨p, by rw [Option.some.inj same]⟩, fun ⟨q, same⟩ => by cases same; rfl⟩
    | unknown => exact iff_of_false nofun nofun

/-- The dropped record back on the arm (R155). -/
def State.returnDrop (s : State) (a : Arm) (c : Context) : State :=
  c.droppedSlot.elim s fun n => s.settleRecord a n (.mounted a)

/-- The take record back in its pocket (R155). -/
def State.returnTake (s : State) (a : Arm) (c : Context) : State :=
  c.take.elim s fun d => s.settleRecord a d.2 (.stored d.1)

/-- A pocket that a context still has RESERVED made EMPTY (R155). -/
def State.unreserve (s : State) (c : Context) (p : PocketId) : State :=
  s.modPocket p fun k => if c.reserves p && decide (k.state = .reserved) then { k with state := .empty } else k

/-- What R155 step 2 does, in its order. -/
theorem State.restore_eq (s : State) (a : Arm) (c : Context) : s.restore a c
    = c.take.elim (c.drop.elim ((s.returnDrop a c).returnTake a c) fun d => ((s.returnDrop a c).returnTake a c).unreserve c d.1)
        fun d => (c.drop.elim ((s.returnDrop a c).returnTake a c) fun d => ((s.returnDrop a c).returnTake a c).unreserve c d.1).unreserve
          c d.1 := by
  unfold State.restore State.returnDrop State.returnTake Context.droppedSlot
  rcases c.drop with _ | ⟨p, _ | _⟩ <;> rcases c.take with _ | ⟨q, m⟩ <;> rfl

section
variable {s : State} {a : Arm} {n : Slot} {pl : Place}

/-- A record that is in transit comes to its place; its pocket is no concern of the move. -/
theorem State.settleRecord_moved {r : Probe} (slot : s.probes.get n = some r) (moves : r.place = .inTransit a) :
    s.settleRecord a n pl = s.place n pl ∧ (s.settleRecord a n pl).probes.get n = some { r with place := pl }
    ∧ ∀ k, (s.settleRecord a n pl).pockets.get k
      = if pl = .stored k then { s.pockets.get k with state := .occupied n, unexpected := false } else s.pockets.get k := by
  have does : s.settleRecord a n pl = s.place n pl := if_pos (State.moving_iff.2 ⟨r, slot, moves⟩)
  refine ⟨does, by rw [does, State.place_probes slot, if_pos rfl], fun k => ?_⟩
  rw [does, State.place_pockets slot, moves]
  simp

theorem State.settleRecord_still (still : ¬ ∃ r, s.probes.get n = some r ∧ r.place = .inTransit a) : s.settleRecord a n pl = s :=
  if_neg (mt State.moving_iff.1 still)

/-- A record that has no place of its own, and one that stands elsewhere, stays. -/
theorem State.settleRecord_other {m : Slot} {r : Probe} (slot : s.probes.get m = some r) (apart : m ≠ n ∨ r.place ≠ .inTransit a)
    (elsewhere : r.place ≠ pl) : (s.settleRecord a n pl).probes.get m = some r := by
  by_cases moves : ∃ q, s.probes.get n = some q ∧ q.place = .inTransit a
  · obtain ⟨q, there, transit⟩ := moves
    have other : m ≠ n := apart.elim id fun not_moving same => by
      subst same
      rw [slot] at there
      cases there
      exact not_moving transit
    rw [(State.settleRecord_moved there transit).1, State.place_probes there, if_neg other, slot, Option.map_some,
      if_neg fun h => elsewhere h.2]
  · rw [State.settleRecord_still moves, slot]

theorem State.settleRecord_pockets (k : PocketId) : (s.settleRecord a n pl).pockets.get k = s.pockets.get k
    ∨ (pl = .stored k ∧ (s.settleRecord a n pl).pockets.get k = { s.pockets.get k with state := .occupied n, unexpected := false }) := by
  by_cases moves : ∃ q, s.probes.get n = some q ∧ q.place = .inTransit a
  · obtain ⟨q, there, transit⟩ := moves
    have pocket := (State.settleRecord_moved (pl := pl) there transit).2.2 k
    by_cases here : pl = .stored k
    · rw [if_pos here] at pocket
      exact .inr ⟨here, pocket⟩
    · rw [if_neg here] at pocket
      exact .inl pocket
  · rw [State.settleRecord_still moves]
    exact .inl rfl

end

theorem State.unreserve_pockets (s : State) (c : Context) (p k : PocketId) : (s.unreserve c p).pockets.get k
    = if k = p ∧ c.reserves p = true ∧ (s.pockets.get p).state = .reserved then { s.pockets.get k with state := .empty }
      else s.pockets.get k := by
  rw [State.unreserve, State.modPocket_pockets, Table.get_put]
  by_cases same : k = p
  · subst same
    simp
  · simp [same]

/-- State t is s but for pockets of the context that were RESERVED and are EMPTY now, those of a set among them (R155). -/
structure Unreserved (c : Context) (freed : PocketId → Prop) (s t : State) : Prop where
  shape : t = { s with pockets := t.pockets }
  pockets : ∀ k, t.pockets.get k = s.pockets.get k ∨ ((s.pockets.get k).state = .reserved
    ∧ t.pockets.get k = { s.pockets.get k with state := .empty })
  freed : ∀ k, freed k → c.reserves k = true → (s.pockets.get k).state = .reserved →
    t.pockets.get k = { s.pockets.get k with state := .empty }

theorem Unreserved.step {c : Context} {freed : PocketId → Prop} {s t : State} (h : Unreserved c freed s t) (p : PocketId) :
    Unreserved c (fun k => freed k ∨ k = p) s (t.unreserve c p) where
  shape := by rw [State.unreserve, State.modPocket, h.shape]
  pockets k := by
    rw [State.unreserve_pockets]
    split
    · next now =>
      obtain ⟨rfl, -, reserved⟩ := now
      rcases h.pockets k with still | ⟨was, emptied⟩
      · exact .inr ⟨by rw [← still]; exact reserved, by rw [still]⟩
      · rw [emptied] at reserved
        cases reserved
    · exact h.pockets k
  freed k is reserves reserved := by
    rw [State.unreserve_pockets]
    rcases h.pockets k with still | ⟨-, emptied⟩
    · by_cases here : k = p
      · subst here
        rw [if_pos ⟨rfl, reserves, by rw [still]; exact reserved⟩, still]
      · rw [if_neg fun h => here h.1]
        exact h.freed k (is.resolve_right here) reserves reserved
    · rw [emptied]
      split <;> rfl

/-- The pockets of a context, once its records are back. -/
theorem State.restore_unreserved (s : State) (a : Arm) (c : Context) :
    Unreserved c (fun k => c.drop.map (·.1) = some k ∨ c.take.map (·.1) = some k) ((s.returnDrop a c).returnTake a c) (s.restore a c) := by
  rw [s.restore_eq a c]
  generalize (s.returnDrop a c).returnTake a c = t
  have start : Unreserved c (fun _ => False) t t := ⟨rfl, fun _ => .inl rfl, nofun⟩
  have weaken : ∀ {K L : PocketId → Prop} {u : State}, Unreserved c K t u → (∀ k, L k → K k) → Unreserved c L t u :=
    fun h within => ⟨h.shape, h.pockets, fun k is => h.freed k (within k is)⟩
  rcases c.drop with _ | ⟨p, d⟩
  · rcases c.take with _ | ⟨q, m⟩
    · exact weaken start fun k is => by rcases is with is | is <;> cases is
    · exact weaken (start.step q) fun k is => .inr (by rcases is with is | is <;> cases is; rfl)
  · rcases c.take with _ | ⟨q, m⟩
    · exact weaken (start.step p) fun k is => .inr (by rcases is with is | is <;> cases is; rfl)
    · exact weaken ((start.step p).step q) fun k is => by
        rcases is with is | is
        · exact .inl (.inr (Option.some.inj is).symm)
        · exact .inr (Option.some.inj is).symm

/-- What is restored of a context's records and pockets (R155). -/
structure Restored (a : Arm) (c : Context) (s t : State) : Prop where
  tabled : Tabled s t
  lost : ∀ n r, s.probes.get n = some r → r.place = .lost → t.probes.get n = some r
  take : ∀ p n r, c.take = some (p, n) → (∀ q, c.drop ≠ some (q, .slot n)) → s.probes.get n = some r → r.place = .inTransit a →
    t.probes.get n = some { r with place := .stored p } ∧ (t.pockets.get p).state = .occupied n
      ∧ (t.pockets.get p).level = (s.pockets.get p).level
  drop : ∀ p n r, c.drop = some (p, .slot n) → (∀ q m, c.take = some (q, m) → q ≠ p ∧ m ≠ n) → c.dropConfirmed = false →
    s.probes.get n = some r → r.place = .inTransit a → (s.pockets.get p).state = .reserved →
    t.probes.get n = some { r with place := .mounted a } ∧ (t.pockets.get p).state = .empty
  seats : c.drop = none → ∀ k n, (t.pockets.get k).state = .occupied n →
    (s.pockets.get k).state = .occupied n ∨ c.take = some (k, n)

theorem Tabled_settleRecord (s : State) (a : Arm) (n : Slot) (pl : Place) : Tabled s (s.settleRecord a n pl) := by
  unfold State.settleRecord
  split
  · exact Tabled_place (Tabled_refl s) n pl
  · exact Tabled_refl s

theorem State.returnDrop_none {s : State} {a : Arm} {c : Context} (none : c.droppedSlot = none) : s.returnDrop a c = s := by
  rw [State.returnDrop, none]
  rfl

theorem State.returnDrop_some {s : State} {a : Arm} {c : Context} {n : Slot} (drops : c.droppedSlot = some n) :
    s.returnDrop a c = s.settleRecord a n (.mounted a) := by
  rw [State.returnDrop, drops]
  rfl

theorem State.returnTake_none {s : State} {a : Arm} {c : Context} (none : c.take = none) : s.returnTake a c = s := by
  rw [State.returnTake, none]
  rfl

theorem State.returnTake_some {s : State} {a : Arm} {c : Context} {p : PocketId} {n : Slot} (takes : c.take = some (p, n)) :
    s.returnTake a c = s.settleRecord a n (.stored p) := by
  rw [State.returnTake, takes]
  rfl

section
variable {s : State} {a : Arm} {c : Context}

/-- The drop's part leaves every pocket, and every record but the dropped one and those on the arm. -/
theorem State.returnDrop_spec : Tabled s (s.returnDrop a c) ∧ (∀ k, (s.returnDrop a c).pockets.get k = s.pockets.get k)
    ∧ (∀ n r, s.probes.get n = some r → c.droppedSlot ≠ some n ∨ r.place ≠ .inTransit a → r.place ≠ .mounted a →
      (s.returnDrop a c).probes.get n = some r)
    ∧ ∀ n r, c.droppedSlot = some n → s.probes.get n = some r → r.place = .inTransit a →
      (s.returnDrop a c).probes.get n = some { r with place := .mounted a } := by
  cases drops : c.droppedSlot with
  | none =>
    rw [State.returnDrop_none drops]
    exact ⟨Tabled_refl s, fun _ => rfl, fun _ _ slot _ _ => slot, fun _ _ same => by cases same⟩
  | some m =>
    rw [State.returnDrop_some drops]
    refine ⟨Tabled_settleRecord s a m _, fun k => ?_, fun n r slot apart elsewhere => ?_, fun n r same slot moves => ?_⟩
    · exact State.settleRecord_pockets k |>.resolve_right fun h => by cases h.1
    · exact State.settleRecord_other slot (apart.imp_left fun other same => other (by rw [same])) elsewhere
    · cases same
      exact (State.settleRecord_moved slot moves).2.1

/-- The take's part leaves every record but the taken one and those in its pocket, and every other pocket. -/
theorem State.returnTake_spec : Tabled s (s.returnTake a c)
    ∧ (∀ k, (s.returnTake a c).pockets.get k = s.pockets.get k ∨ ∃ n, c.take = some (k, n)
        ∧ (s.returnTake a c).pockets.get k = { s.pockets.get k with state := .occupied n, unexpected := false })
    ∧ (∀ n r, s.probes.get n = some r → (∀ p, c.take ≠ some (p, n)) ∨ r.place ≠ .inTransit a → (∀ p, r.place ≠ .stored p) →
      (s.returnTake a c).probes.get n = some r)
    ∧ ∀ p n r, c.take = some (p, n) → s.probes.get n = some r → r.place = .inTransit a →
      (s.returnTake a c).probes.get n = some { r with place := .stored p }
      ∧ (s.returnTake a c).pockets.get p = { s.pockets.get p with state := .occupied n, unexpected := false } := by
  cases takes : c.take with
  | none =>
    rw [State.returnTake_none takes]
    exact ⟨Tabled_refl s, fun _ => .inl rfl, fun _ _ slot _ _ => slot, fun _ _ _ same => by cases same⟩
  | some d =>
    obtain ⟨q, m⟩ := d
    rw [State.returnTake_some takes]
    refine ⟨Tabled_settleRecord s a m _, fun k => ?_, fun n r slot apart elsewhere => ?_, fun p n r same slot moves => ?_⟩
    · exact (State.settleRecord_pockets k).imp_right fun ⟨here, now⟩ => ⟨m, by rw [Place.stored.inj here], now⟩
    · exact State.settleRecord_other slot (apart.imp_left fun other same => other q (by rw [same])) (elsewhere q)
    · cases same
      obtain ⟨-, there, pockets⟩ := State.settleRecord_moved (pl := .stored q) slot moves
      exact ⟨there, (pockets q).trans (if_pos rfl)⟩

theorem State.restore_restored : Restored a c s (s.restore a c) := by
  obtain ⟨tabled1, pockets1, others1, dropped⟩ := State.returnDrop_spec (s := s) (a := a) (c := c)
  obtain ⟨tabled2, pockets2, others2, taken⟩ := State.returnTake_spec (s := s.returnDrop a c) (a := a) (c := c)
  obtain ⟨shape, pockets, freed⟩ := s.restore_unreserved a c
  have probes : (s.restore a c).probes = ((s.returnDrop a c).returnTake a c).probes := by rw [shape]
  refine ⟨Tabled_trans (Tabled_trans tabled1 tabled2) ⟨_, _, _, shape⟩, fun n r slot place => ?_, fun p n r take apart slot moves => ?_,
    fun p n r drop apart unsure slot moves reserved => ?_, fun none k n occupied => ?_⟩
  · rw [probes]
    exact others2 n r (others1 n r slot (.inr (by rw [place]; nofun)) (by rw [place]; nofun)) (.inr (by rw [place]; nofun))
      (by rw [place]; nofun)
  · have still := others1 n r slot (.inl fun drops => (Context.droppedSlot_iff.1 drops).elim apart) (by rw [moves]; nofun)
    obtain ⟨there, now⟩ := taken p n r take still moves
    rw [pockets1] at now
    have final := (pockets p).resolve_right fun h => by rw [now] at h; cases h.1
    exact ⟨by rw [probes, there], by rw [final, now], by rw [final, now]⟩
  · have mounted := dropped n r (Context.droppedSlot_iff.2 ⟨p, drop⟩) slot moves
    have there := others2 n _ mounted (.inl fun q takes => (apart q n takes).2 rfl) nofun
    have still := (pockets2 p).resolve_right fun ⟨m, takes, _⟩ => (apart p m takes).1 rfl
    rw [pockets1] at still
    have emptied := freed p (.inl (by rw [drop]; rfl)) (by simp [Context.reserves, drop, unsure]) (by rw [still, reserved])
    exact ⟨by rw [probes, there], by rw [emptied]⟩
  · have before : (((s.returnDrop a c).returnTake a c).pockets.get k).state = .occupied n := by
      rcases pockets k with same | ⟨-, emptied⟩
      · rw [← same]; exact occupied
      · rw [emptied] at occupied; cases occupied
    rcases pockets2 k with same | ⟨m, takes, now⟩
    · rw [same, pockets1] at before
      exact .inl before
    · rw [now] at before
      cases before
      exact .inr takes

end

/-! ### A context removed -/

/-- The state with an arm's context gone, its outcome noted and told (R155). -/
def State.parted (s : State) (a : Arm) (o : ChangeOutcome) : State :=
  State.raise { s.dropContext a with lastChange := s.lastChange.set a (some o) } a.link .changeEnded

theorem State.parted_shape (s : State) (a : Arm) (o : ChangeOutcome) : ∃ holders, s.parted a o = { s with
    holders := holders, change := s.change.set a none, lastChange := s.lastChange.set a (some o)
    rack := { s.rack with req := s.rack.req && s.asksOpen a.other }, links := (s.raise a.link .changeEnded).links } := ⟨_, rfl⟩

theorem Parted_parted (a : Arm) (s : State) (o : ChangeOutcome) : Parted a (s.parted a o) :=
  Parted_same (Parted_dropContext a s) rfl rfl

/-- State t is s after an arm's context has been removed, with the recompute and the inventory that follow (R155). -/
structure Gone (a : Arm) (o : ChangeOutcome) (s t : State) : Prop where
  parted : Parted a t
  shape : t = { s with
    holders := t.holders, standing := t.standing, deferred := t.deferred, linger := t.linger, handover := t.handover
    change := s.change.set a none, lastChange := s.lastChange.set a (some o)
    rack := { s.rack with req := s.rack.req && s.asksOpen a.other }, links := (s.raise a.link .changeEnded).links
    probes := t.probes, pockets := t.pockets, inventory := t.inventory, readers := t.readers }
  done : o = .done → t.probes = s.probes ∧ t.pockets = s.pockets ∧ t.inventory = s.inventory ∧ t.readers = s.readers
  surveyed : o ≠ .done → ∃ u, u.probes = s.probes ∧ u.pockets = s.pockets ∧ Surveyed u t

theorem runs_removeChange {s : State} (unawaited : s.waiters = []) (a : Arm) (o : ChangeOutcome) :
    ∃ t, Runs 6 [.removeChange a o] s t ∧ Gone a o s t := by
  obtain ⟨u, recompute, kept⟩ := Runs.of_contained (recompute_contained a) (s := s.parted a o) unawaited
  have parted : Parted a u := recompute.keeps (Parted_keeps a) (Parted_parted a s o)
  obtain ⟨holders, shape⟩ := s.parted_shape a o
  obtain ⟨_, _, _, _, _, same⟩ := ExceptZones_update kept
  rw [shape] at same
  by_cases done : o = .done
  · refine ⟨u, (Runs.piece (x := .removeChange a o) (e := (s.parted a o, [.recompute a])) ?_ recompute).mono (by decide), parted, ?_,
      fun _ => ?_, fun not_done => absurd done not_done⟩
    · simp only [perform, removeChange, done, if_true]
      rfl
    · rw [same]
    · rw [same]
      exact ⟨rfl, rfl, rfl, rfl⟩
  · obtain ⟨t, asks, surveyed⟩ := runs_askInventory (s := u) parted.1
    refine ⟨t, (Runs.piece (x := .removeChange a o) (e := (s.parted a o, [.recompute a, .askInventory])) ?_ (recompute.cons asks)).mono
      (by decide), asks.keeps (Parted_keeps a) parted, ?_, fun is => absurd is done, fun _ => ⟨u, ?_, ?_, surveyed⟩⟩
    · simp only [perform, removeChange, done, if_false]
      rfl
    · rw [surveyed.shape, same]
    · rw [same]
    · rw [same]

/-! ### A change ended -/

/-- State t is s after arm a's context k has ended with an outcome (R155). -/
structure Over (a : Arm) (k : Context) (o : ChangeOutcome) (s t : State) : Prop where
  parted : Parted a t
  shape : t = { s with
    holders := t.holders, standing := t.standing, deferred := t.deferred, linger := t.linger, handover := t.handover, waiters := []
    change := s.change.set a none, lastChange := s.lastChange.set a (some o)
    rack := t.rack, links := (s.raise a.link .changeEnded).links
    probes := t.probes, pockets := t.pockets, unknown := t.unknown, inventory := t.inventory, readers := t.readers }
  waited : k.step = .waitRack → t.rack = { s.rack with req := s.rack.req && s.asksOpen a.other }
  past : k.step ≠ .waitRack → t.rack = { s.rack with req := false, rackTimer := none, stepTimer := none, dropTimer := none }
  done : o = .done → t.probes = s.probes ∧ t.pockets = s.pockets ∧ t.inventory = s.inventory
  quiet : o = .done → t.unknown = s.unknown ∧ (k.step ≠ .waitRack →
    t.readers = s.readers.set a ((s.readers.get a).discard fun q => decide (q = .drop) || decide (q = .pick)))
  surveyed : o ≠ .done → ∃ r u : State, r.probes = s.probes ∧ r.pockets = s.pockets ∧ u.probes = (r.restore a k).probes
    ∧ u.pockets = (r.restore a k).pockets ∧ Surveyed u t

/-- The tables as they are when an outcome needs no restoring, restored otherwise (R155). -/
def State.restoredFor (s : State) (a : Arm) (k : Context) (o : ChangeOutcome) : State := if o = .done then s else s.restore a k

theorem State.restoredFor_tabled (s : State) (a : Arm) (k : Context) (o : ChangeOutcome) : Tabled s (s.restoredFor a k o) := by
  unfold State.restoredFor
  split
  · exact Tabled_refl s
  · exact (State.restore_restored (s := s) (a := a) (c := k)).tabled

/-- The rack's lines and timers no longer serve the context (R146, R155). -/
def State.quitRack (s : State) (a : Arm) : State :=
  (s.dropReads a).modRack fun r => { r with rackTimer := none, stepTimer := none, req := false }

theorem runs_releaseRack {s : State} (unawaited : s.waiters = []) (a : Arm) : ∃ t, Runs 2 [.releaseRack a] s t ∧ ExceptZones s t := by
  by_cases empty : (s.heldFor a .change).isEmpty = true
  · exact ⟨s, (Runs.piece (x := .releaseRack a) (e := (s, [])) (by simp only [perform, releaseRack, empty, if_true]) (Runs.nil s)).mono
      (by decide), rfl⟩
  · obtain ⟨t, run, kept⟩ := Runs.of_contained scan_contained (s := s.freeRack a) unawaited
    exact ⟨t, Runs.piece (x := .releaseRack a) (e := (s.freeRack a, [.scan])) (by simp only [perform, releaseRack, empty]; rfl) run,
      ExceptZones_trans (t := s.freeRack a) rfl kept⟩

/-- A context past WAIT_RACK ends (R155). -/
theorem runs_endChange_past {s : State} {a : Arm} {k : Context} (change : s.change.get a = some k) (past : k.step ≠ .waitRack)
    (unawaited : s.waiters = []) (o : ChangeOutcome) : ∃ t, Runs 9 [.endChange a o] s t ∧ Over a k o s t := by
  have does : perform (.endChange a o) s = ((s.quitRack a).restoredFor a k o, [.releaseRack a, .removeChange a o]) := by
    simp only [perform, endChange, change, past, if_false]
    rfl
  obtain ⟨ps, ks, us, tabled⟩ := (s.quitRack a).restoredFor_tabled a k o
  obtain ⟨u, release, kept⟩ := runs_releaseRack (s := (s.quitRack a).restoredFor a k o) (by rw [tabled]; exact unawaited) a
  obtain ⟨_, _, _, _, _, same⟩ := ExceptZones_update kept
  obtain ⟨t, remove, gone⟩ := runs_removeChange (s := u) (by rw [same, tabled]; exact unawaited) a o
  refine ⟨t, Runs.piece does (release.cons remove), gone.parted, ?_, fun wait => absurd wait past, fun _ => ?_, fun is => ?_,
    fun is => ⟨?_, fun _ => ?_⟩, fun isnt => ?_⟩
  · rw [gone.shape, same, tabled, ← unawaited]
    rfl
  · rw [gone.shape, same, tabled]
    rfl
  · obtain ⟨probes, pockets, inventory, -⟩ := gone.done is
    rw [probes, pockets, inventory, same, State.restoredFor, if_pos is]
    exact ⟨rfl, rfl, rfl⟩
  · rw [gone.shape, same, State.restoredFor, if_pos is]
    rfl
  · rw [(gone.done is).2.2.2, same, State.restoredFor, if_pos is]
    rfl
  · obtain ⟨v, probes, pockets, surveyed⟩ := gone.surveyed isnt
    refine ⟨s.quitRack a, v, rfl, rfl, ?_, ?_, surveyed⟩
    · rw [probes, same, State.restoredFor, if_neg isnt]
    · rw [pockets, same, State.restoredFor, if_neg isnt]

theorem request_settled {s : State} {a : Arm} (settled : (s.motion.get a).phase ≠ .waiting .zone) : request a false s = (s, []) := by
  unfold request
  dsimp only
  cases queue : (s.motion.get a).queue with
  | nil => rfl
  | cons h rest => cases geometry : (s.motion.get a).geometry <;> simp [settled]

/-- A context in WAIT_RACK ends, its own entry with it (R114, R155). -/
theorem runs_endChange_wait {s : State} {a : Arm} {k : Context} (change : s.change.get a = some k) (wait : k.step = .waitRack)
    (lonely : s.waiters = [] ∨ ((s.motion.get a).phase ≠ .waiting .zone ∧ ∃ zs, s.waiters = [⟨a, .change, zs⟩])) (o : ChangeOutcome) :
    ∃ t, Runs 13 [.endChange a o] s t ∧ Over a k o s t := by
  obtain ⟨ps, ks, us, tabled⟩ := s.restoredFor_tabled a k o
  have withdrawn : ∃ u, Runs 6 (withdraw a .change (s.restoredFor a k o)).2 (withdraw a .change (s.restoredFor a k o)).1 u
      ∧ ExceptZones { s.restoredFor a k o with waiters := [] } u := by
    rcases lonely with unawaited | ⟨settled, zs, own⟩
    · have none : (s.restoredFor a k o).waiters = [] := by rw [tabled]; exact unawaited
      rw [withdraw_unawaited none, ← none]
      exact ⟨_, (Runs.nil _).mono (by decide), rfl⟩
    · have entry : withdraw a .change (s.restoredFor a k o)
          = ((s.restoredFor a k o).dropEntry a, [.recomputeOwed a, .request a false]) := by
        have : (s.restoredFor a k o).waiters = [⟨a, .change, zs⟩] := by rw [tabled]; exact own
        simp [withdraw, State.entry, this]
      have none : ((s.restoredFor a k o).dropEntry a).waiters = [] := by
        rw [tabled]
        show s.waiters.filter _ = []
        rw [own]
        simp
      obtain ⟨u, owed, kept⟩ := Runs.of_contained (recomputeOwed_contained a) none
      have dropped : ExceptZones { s.restoredFor a k o with waiters := [] } ((s.restoredFor a k o).dropEntry a) := by
        rw [← none]
        rfl
      have asks : Runs 1 [.request a false] u u := Runs.piece (x := .request a false) (e := (u, []))
        (request_settled (by rw [kept, tabled]; exact settled)) (Runs.nil u)
      rw [entry]
      exact ⟨u, (owed.cons asks).mono (by decide), ExceptZones_trans dropped kept⟩
  obtain ⟨u, run, kept⟩ := withdrawn
  have does : perform (.endChange a o) s = ((withdraw a .change (s.restoredFor a k o)).1,
      (withdraw a .change (s.restoredFor a k o)).2 ++ [.removeChange a o]) := by
    simp only [perform, endChange, change, wait, if_true]
    rfl
  obtain ⟨_, _, _, _, _, same⟩ := ExceptZones_update kept
  obtain ⟨t, remove, gone⟩ := runs_removeChange (s := u) (by rw [same]) a o
  refine ⟨t, Runs.piece does (run.append remove), gone.parted, ?_, fun _ => ?_, fun past => absurd wait past, fun is => ?_,
    fun is => ⟨?_, fun past => absurd wait past⟩, fun isnt => ?_⟩
  · rw [gone.shape, same, tabled]
    rfl
  · rw [gone.shape, same, tabled]
    rfl
  · obtain ⟨probes, pockets, inventory, -⟩ := gone.done is
    rw [probes, pockets, inventory, same, State.restoredFor, if_pos is]
    exact ⟨rfl, rfl, rfl⟩
  · rw [gone.shape, same, State.restoredFor, if_pos is]
  · obtain ⟨v, probes, pockets, surveyed⟩ := gone.surveyed isnt
    refine ⟨s, v, rfl, rfl, ?_, ?_, surveyed⟩
    · rw [probes, same, State.restoredFor, if_neg isnt]
    · rw [pockets, same, State.restoredFor, if_neg isnt]

/-- The tables after an ended change, where they agreed before it. -/
theorem Surveyed.present {s t : State} (surveyed : Surveyed s t) (tables : Tables s) {n : Slot} {r : Probe} (slot : s.probes.get n = some r)
    (seen : ∀ k, r.place = .stored k → (s.pockets.get k).level = true) : t.probes.get n = some r
    ∧ ∀ k, r.place = .stored k → (t.pockets.get k).state = .occupied n := by
  have here : ¬ s.absent n := fun gone => by
    obtain ⟨k, occupied, level⟩ := State.absent_iff.1 gone
    obtain ⟨q, there, place⟩ := (tables.1 k n).1 occupied
    rw [slot] at there
    cases there
    rw [seen k place] at level
    cases level
  exact ⟨(surveyed.stays n here).trans slot, fun k place => surveyed.seated k n ((tables.1 k n).2 ⟨r, slot, place⟩) here⟩

theorem Over.ended {a : Arm} {k : Context} {o : ChangeOutcome} {s t : State} (ends : Over a k o s t) (tables : Tables s) :
    Ended s t a k o := by
  refine ⟨by rw [ends.shape], by rw [ends.shape], ends.parted.2, fun w mem => ?_, ?_, fun past => ?_, fun isnt => ?_⟩
  · rw [ends.shape] at mem
    cases mem
  · rw [ends.shape]
    rfl
  · rw [ends.past past]
    exact ⟨rfl, rfl, rfl, rfl⟩
  · obtain ⟨r, u, probes, pockets, restored, emptied, surveyed⟩ := ends.surveyed isnt
    have whole : Tables r := Tables_same tables probes pockets
    have tables' : Tables u := Tables_same (Tables_keeps.restore whole a k) restored emptied
    obtain ⟨-, -, take, drop, -⟩ := State.restore_restored (s := r) (a := a) (c := k)
    rw [← restored, ← emptied] at take drop
    rw [probes, pockets] at take drop
    refine ⟨surveyed.runs, fun p n x takes apart slot moves level => ?_, fun p n x drops apart unsure slot moves reserved => ?_⟩
    · obtain ⟨there, seat, same⟩ := take p n x takes apart slot moves
      obtain ⟨stays, seats⟩ := surveyed.present tables' there fun q at_q => by
        obtain rfl : p = q := Place.stored.inj at_q
        rw [same, level]
      exact ⟨stays, seats p rfl⟩
    · obtain ⟨there, free⟩ := drop p n x drops apart unsure slot moves reserved
      exact ⟨(surveyed.present tables' there nofun).1, surveyed.empty p free⟩

/-- A record that is LOST stays so at the end of a change. -/
theorem Over.lost {a : Arm} {k : Context} {o : ChangeOutcome} {s t : State} (ends : Over a k o s t) {n : Slot} {r : Probe}
    (slot : s.probes.get n = some r) (place : r.place = .lost) : t.probes.get n = some r := by
  by_cases is : o = .done
  · rw [(ends.done is).1, slot]
  · obtain ⟨v, u, probes, -, restored, -, surveyed⟩ := ends.surveyed is
    have there := (State.restore_restored (s := v) (a := a) (c := k)).lost n r (by rw [probes, slot]) place
    rw [← restored] at there
    rcases surveyed.moved n with same | lost
    · rw [same, there]
    · rw [lost, there, Option.map_some, ← place]

/-- The end of a change is told to its arm's link, and every notice that stood stands. -/
theorem Over.told {a : Arm} {k : Context} {o : ChangeOutcome} {s t : State} (ends : Over a k o s t) :
    .changeEnded ∈ (t.links.get a.link).flags ∧ ∀ l j, j ∈ (s.links.get l).flags → j ∈ (t.links.get l).flags := by
  rw [ends.shape]
  exact ⟨State.raise_raised _ _ _, fun l j raised => State.raise_kept _ raised⟩

theorem Over.frame {a : Arm} {k : Context} {o : ChangeOutcome} {s t : State} (ends : Over a k o s t) :
    t.motion = s.motion ∧ t.axes = s.axes ∧ t.capture = s.capture ∧ t.trap = s.trap ∧ t.faultCount = s.faultCount ∧ t.waiters = []
    ∧ steady t = steady s := by
  rw [ends.shape]
  exact ⟨rfl, rfl, rfl, rfl, rfl, rfl, rfl⟩

/-- The end of a change keeps every link but for its flags and ATTN. -/
theorem Over.noticed {a : Arm} {k : Context} {o : ChangeOutcome} {s t : State} (ends : Over a k o s t) (l : Link) :
    Noticed (s.links.get l) (t.links.get l) := by
  rw [ends.shape]
  exact State.raise_noticed ⟨_, _, rfl⟩ _ _

/-- A change ends while no entry waits but, it may be, its own (R155). -/
theorem runs_endChange {s : State} {a : Arm} {k : Context} (change : s.change.get a = some k) (lonely : Lonely s a k) (o : ChangeOutcome) :
    ∃ t, Runs 13 [.endChange a o] s t ∧ Over a k o s t := by
  by_cases wait : k.step = .waitRack
  · refine runs_endChange_wait change wait (lonely.imp_right ?_) o
    rintro ⟨-, settled, z, why, own, -⟩
    exact ⟨settled, [z], own⟩
  · obtain ⟨t, run, ends⟩ := runs_endChange_past change wait (lonely.resolve_right fun h => wait h.1) o
    exact ⟨t, run.mono (by decide), ends⟩

end Sys2Proof.Machine
end
section
/-! PROOFS. CHANGE DONE, ABORT CHANGE and CLEAR RACK FAULT (O52). -/
namespace Sys2Proof.Machine
open Sys2Proof.Safety

/-! ### A request that names an arm -/

theorem namedArm_names {l : Link} {x : Option (Option Arm)} {a : Arm} (names : Names l x a) (f : Arm → State → State) (s : State) :
    namedArm l x f s = f a s := by
  rcases names with ⟨own, -⟩ | ⟨rfl, rfl⟩
  · simp only [namedArm, own]
  · rfl

theorem linkCheck_abortChange {l : Link} {x : Option (Option Arm)} {a : Arm} (names : Names l x a) :
    linkCheck l (.abortChange l x) = none := by
  rcases names with ⟨own, rfl⟩ | ⟨rfl, rfl⟩
  · cases l with
    | A => rfl
    | B => rfl
    | S => cases own
  · rfl

/-! ### The steps in which a change may be closed -/

/-- Whether a close with an outcome is taken in a context's step (R156). -/
def Context.mayClose (k : Context) (o : ChangeOutcome) : Prop :=
  k.step = .awaitDrop ∨ k.step = .awaitPick ∨ (o ≠ .done ∧ k.step = .failedOpen)

/-- The owner of a close with an outcome: what it does in each step (R156). -/
structure Closer (l : Link) (a : Arm) (o : ChangeOutcome) (owner : State → State) : Prop where
  none : ∀ t : State, t.change.get a = none → owner t = t.respond l .wrongState
  shut : ∀ (t : State) k, t.change.get a = some k → k.step = .closing ∨ (o = .done ∧ ¬ k.mayClose o) → owner t = t.respond l .wrongState
  bars : ∀ (t : State) k, t.change.get a = some k → k.mayClose o → t.inRack a = true ∨ (o = .done ∧ k.confirmed = false) →
    owner t = t.respond l .wrongState
  takes : ∀ (t : State) k, t.change.get a = some k → k.mayClose o → t.inRack a = false → (o = .done → k.confirmed = true) →
    (k.step ≠ .failedOpen ∧ (o = .done ∨ o = .aborted)) ∨ (∃ r, k.step = .failedOpen ∧ k.failure = some r ∧ o = .failed r) →
    owner t = closeBy l a o t

theorem changeDone_closer (l : Link) (a : Arm) : Closer l a .done (changeDone l a) where
  none t none := by simp only [changeDone, none]
  shut t k change shut := by
    have step : k.step ≠ .awaitDrop ∧ k.step ≠ .awaitPick := by
      rcases shut with step | ⟨-, closed⟩
      · rw [step]; exact ⟨nofun, nofun⟩
      · exact ⟨fun is => closed (.inl is), fun is => closed (.inr (.inl is))⟩
    simp only [changeDone, change]
    split
    · next is => exact absurd is step.1
    · next is => exact absurd is step.2
    · rfl
  bars t k change may bars := by
    have checks : t.checked l [(t.inRack a, .wrongState), (!k.confirmed, .wrongState)] (closeBy l a .done) = t.respond l .wrongState := by
      cases inside : t.inRack a with
      | true => exact checked_first rfl
      | false => exact (checked_next rfl).trans (checked_first (by simpa [inside] using bars))
    rcases may with step | step | ⟨not_done, -⟩
    · simpa only [changeDone, change, step] using checks
    · simpa only [changeDone, change, step] using checks
    · exact absurd rfl not_done
  takes t k change may outside sure _ := by
    have checks : t.checked l [(t.inRack a, .wrongState), (!k.confirmed, .wrongState)] (closeBy l a .done) = closeBy l a .done t :=
      (checked_next outside).trans ((checked_next (by rw [sure rfl]; rfl)).trans rfl)
    rcases may with step | step | ⟨not_done, -⟩
    · simpa only [changeDone, change, step] using checks
    · simpa only [changeDone, change, step] using checks
    · exact absurd rfl not_done

theorem abortChange_closer (l : Link) (a : Arm) {o : ChangeOutcome} (undone : o ≠ .done) : Closer l a o (abortChange l a) where
  none t none := by simp only [abortChange, none]
  shut t k change shut := by
    have step : k.step = .closing := shut.resolve_right fun h => undone h.1
    simp only [abortChange, change, step]
  bars t k change may bars := by
    have inside := bars.resolve_right fun h => undone h.1
    have checks : ∀ f, t.checked l [(t.inRack a, .wrongState)] f = t.respond l .wrongState := fun f => checked_first inside
    rcases may with step | step | ⟨-, step⟩ <;> simp only [abortChange, change, step, checks]
  takes t k change may outside _ fits := by
    have checks : ∀ f, t.checked l [(t.inRack a, .wrongState)] f = f t := fun f => (checked_next outside).trans rfl
    rcases fits with ⟨early, is⟩ | ⟨r, step, failure, rfl⟩
    · obtain rfl := is.resolve_left undone
      rcases may with step | step | ⟨-, step⟩
      · simp only [abortChange, change, step, checks]
      · simp only [abortChange, change, step, checks]
      · exact absurd step early
    · simp only [abortChange, change, step, checks, failure, Option.getD_some]

/-! ### Entry into CLOSING -/

/-- Context k in CLOSING with an outcome (R156). -/
def State.closes (s : State) (a : Arm) (k : Context) (o : ChangeOutcome) (length : Nat) : State :=
  { s with
    change := s.change.set a (some { k with step := .closing, closing := some o })
    readers := s.readers.set a ((s.readers.get a).discard fun q => decide (q = .drop) || decide (q = .pick))
    rack := { s.rack with
      dropTimer := none, req := false, stepTimer := none
      rackTimer := some ⟨length, 0⟩ } }

/-- Context k brought to CLOSING with an outcome, and told (R156). -/
def State.closingDown (s : State) (a : Arm) (k : Context) (o : ChangeOutcome) : State := (s.closes a k o (s.settings.rackTimeout * 1000000)).raise a.link .changeStep

theorem enterClosing_eq {s : State} {a : Arm} {k : Context} (change : s.change.get a = some k) (o : ChangeOutcome) :
    enterClosing a o s = (s.closingDown a k o, [.closedCheck a]) := by
  have timed : ∀ (u : State) n, u.settings.rackTimeout * 1000000 = n →
      u.startRackTimer = u.modRack fun r => { r with rackTimer := some ⟨n, 0⟩ } := by
    rintro u n rfl
    rfl
  rw [enterClosing, State.closingDown]
  rw [timed _ (s.settings.rackTimeout * 1000000) ?_]
  · generalize s.settings.rackTimeout * 1000000 = n
    refine congrArg (fun u : State => (u.raise a.link .changeStep, [Task.closedCheck a])) ?_
    simp only [State.modContext, change, Option.map_some, State.setContext, State.dropReads, State.modReader, State.modRack, State.closes]
  · refine congrArg (fun e : Settings => e.rackTimeout * 1000000) ?_
    rfl

theorem closes_answered (s : State) (a : Arm) (k : Context) (o : ChangeOutcome) (length : Nat) (l : Link) (c : Code)
    (p : Payload) : (answered s l c p).closes a k o length = answered (s.closes a k o length) l c p := rfl

theorem closingDown_answered (s : State) (a : Arm) (k : Context) (o : ChangeOutcome) (l : Link) (c : Code) (p : Payload) :
    (answered s l c p).closingDown a k o = answered (s.closingDown a k o) l c p := by
  have same : (answered s l c p).settings = s.settings := rfl
  rw [State.closingDown, closes_answered, raise_answered, State.closingDown, same]

theorem runs_closedCheck_open {s : State} {a : Arm} (not_closed : s.rack.isClosed = false) : Runs 1 [.closedCheck a] s s := by
  refine Runs.piece (e := (s, [])) ?_ (Runs.nil s)
  simp only [perform, closedCheck, not_closed, Bool.and_false, Bool.false_eq_true, if_false]
  split <;> rfl

theorem closedCheck_ends {s : State} {a : Arm} {k : Context} {o : ChangeOutcome} (closed : s.rack.isClosed = true)
    (change : s.change.get a = some k) (step : k.step = .closing) (outcome : k.closing = some o) :
    perform (.closedCheck a) s = (s, [.endChange a o]) := by
  simp only [perform, closedCheck, change, step, closed, outcome, decide_true, Bool.and_self, if_true, Option.getD_some]

/-- The end of a change told of a state that differs only in what the end does not speak of. -/
theorem Ended_of {s r t : State} {a : Arm} {k c : Context} {o : ChangeOutcome} (ended : Ended r t a c o)
    (change : r.change.set a none = s.change.set a none) (last : r.lastChange = s.lastChange) (still : steady r = steady s)
    (probes : r.probes = s.probes) (pockets : r.pockets = s.pockets) (drop : c.drop = k.drop) (take : c.take = k.take)
    (sure : c.dropConfirmed = k.dropConfirmed) (step : k.step ≠ .waitRack → c.step ≠ .waitRack) : Ended s t a k o := by
  obtain ⟨gone, noted, unheld, left, same, rack, restored⟩ := ended
  refine ⟨gone.trans change, by rw [noted, last], unheld, left, same.trans still, fun past => rack (step past), fun undone => ?_⟩
  rw [← probes, ← pockets, ← drop, ← take, ← sure]
  exact restored undone

/-- A close on a closed rack ends the change at once (R158). -/
theorem settle_enterClosing_closed {s : State} {a : Arm} {k : Context} {o : ChangeOutcome} (change : s.change.get a = some k)
    (closed : s.rack.isClosed = true) (unawaited : s.waiters = []) :
    ∃ t c, settle (enterClosing a o s) = t ∧ Over a c o (s.closingDown a k o) t ∧ c = { k with step := .closing, closing := some o } := by
  have context : (s.closingDown a k o).change.get a = some { k with step := .closing, closing := some o } := PerArm.get_set _ _ _
  obtain ⟨t, run, ends⟩ := runs_endChange_past context nofun unawaited o
  refine ⟨t, _, ?_, ends, rfl⟩
  rw [enterClosing_eq change]
  exact (Runs.piece (closedCheck_ends (s := s.closingDown a k o) closed context rfl rfl) run).settle (by decide)

/-! ### What bars a close -/

theorem State.meetsRack_box (s : State) (b : Box) :
    s.meetsRack b = true ↔ ∃ z, (s.zones.get z).kind = .rack ∧ boxMeets b (s.zones.get z).box = true := by
  simp only [State.meetsRack, State.zonesMet, Bool.not_eq_true', List.isEmpty_eq_false_iff_exists_mem, List.mem_filter, mem_allZones,
    true_and, Bool.and_eq_true, decide_eq_true_eq]

/-- Whether a box of the arm meets the RACK zone (R156). -/
def State.InRackBox (s : State) (a : Arm) : Prop :=
  (∃ z, (s.zones.get z).kind = .rack ∧ boxMeets (s.standingBox a) (s.zones.get z).box = true)
    ∨ ∃ w g, (s.motion.get a).active = some w ∧ w.geometry = some g
      ∧ ∃ z, (s.zones.get z).kind = .rack ∧ boxMeets (expand g.finish (s.reach a)) (s.zones.get z).box = true

theorem State.inRack_iff (s : State) (a : Arm) : s.inRack a = true ↔ s.InRackBox a := by
  simp only [State.inRack, State.InRackBox, Bool.or_eq_true, Option.any_eq_true, State.meetsRack_box]
  refine or_congr Iff.rfl ⟨?_, ?_⟩
  · rintro ⟨w, active, g, geometry, meets⟩
    exact ⟨w, g, active, geometry, meets⟩
  · rintro ⟨w, g, active, geometry, meets⟩
    exact ⟨w, active, g, geometry, meets⟩

/-- Whether a context has a drop or a pick that is not confirmed (R156). -/
def Context.Unsure (k : Context) : Prop := (k.drop ≠ none ∧ k.dropConfirmed = false) ∨ (k.take ≠ none ∧ k.pickConfirmed = false)

theorem Context.confirmed_eq_false {k : Context} : k.confirmed = false ↔ k.Unsure := by
  simp only [Context.confirmed, Context.Unsure, Bool.and_eq_false_iff, Bool.or_eq_false_iff, Option.isNone_eq_false_iff,
    Option.isSome_iff_ne_none]

/-! ### The requests that close a change -/

/-- A request that closes a change, its link, the arm, and the outcome it closes with. -/
def Closes (c : Instr) (l : Link) (x : Option (Option Arm)) (a : Arm) (o : ChangeOutcome) : Prop :=
  (c = .changeDone l ∧ l = a.link ∧ o = .done) ∨ (c = .abortChange l x ∧ Names l x a ∧ o ≠ .done)

theorem Closes.served {c : Instr} {l : Link} {x : Option (Option Arm)} {a : Arm} {o : ChangeOutcome} (closes : Closes c l x a o) :
    ∃ owner, Closer l a o owner ∧ linkCheck l c = none ∧ ∀ s, exec c s = .next (serve l c owner s) := by
  rcases closes with ⟨rfl, rfl, rfl⟩ | ⟨rfl, names, undone⟩
  · refine ⟨_, changeDone_closer a.link a, ?_, fun s => ?_⟩
    · cases a <;> rfl
    · have owner : ownArm a.link (changeDone a.link) = changeDone a.link a := funext fun u => ownArm_link a _ u
      rw [← owner]
      rfl
  · refine ⟨_, abortChange_closer l a undone, linkCheck_abortChange names, fun s => ?_⟩
    have owner : namedArm l x (abortChange l) = abortChange l a := funext fun u => namedArm_names names _ u
    rw [← owner]
    rfl

/-- A request that closes a change, taken: its owner works on the state with the link's request taken. -/
theorem Closes.goes {c : Instr} {l : Link} {x : Option (Option Arm)} {a : Arm} {o : ChangeOutcome} {s : State}
    (closes : Closes c l x a o) (taken : Takes s l c) :
    (s.change.get a = none → Refuses c l s .wrongState)
    ∧ ∀ k, s.change.get a = some k →
      (k.step = .closing ∨ (o = .done ∧ ¬ k.mayClose o) → Refuses c l s .wrongState)
      ∧ (k.mayClose o → s.InRackBox a ∨ (o = .done ∧ k.Unsure) → Refuses c l s .wrongState)
      ∧ (k.mayClose o → ¬ s.InRackBox a → ¬ (o = .done ∧ k.Unsure) →
          (k.step ≠ .failedOpen ∧ (o = .done ∨ o = .aborted)) ∨ (∃ r, k.step = .failedOpen ∧ k.failure = some r ∧ o = .failed r) →
          Goes c s (settle (enterClosing a o (answered s l .ok .none)))) := by
  obtain ⟨owner, closer, checked, does⟩ := closes.served
  obtain ⟨g, served, answers, -⟩ := serve_through taken checked owner
  have goes : ∀ {t}, owner (s.modLink l g) = t → Goes c s t := fun same => (does s).trans (congrArg _ (served.trans same))
  have refuses : owner (s.modLink l g) = (s.modLink l g).respond l .wrongState → Refuses c l s .wrongState :=
    fun same => goes (same.trans (answers s _ _ rfl))
  have box : (s.modLink l g).inRack a = s.inRack a := rfl
  refine ⟨fun none => refuses (closer.none _ none), fun k change => ⟨fun shut => refuses (closer.shut _ k change shut),
    fun may bars => refuses (closer.bars _ k change may ?_), fun may outside sure fits => ?_⟩⟩
  · rw [box, State.inRack_iff, Context.confirmed_eq_false]
    exact bars
  · have clear : s.inRack a = false := Bool.eq_false_iff.2 fun inside => outside ((State.inRack_iff s a).1 inside)
    have confirmed : o = .done → k.confirmed = true := fun is => by
      refine Classical.byContradiction fun unsure => ?_
      exact sure ⟨is, Context.confirmed_eq_false.1 (Bool.eq_false_iff.2 unsure)⟩
    refine goes ((closer.takes (s.modLink l g) k change may (box.trans clear) confirmed fits).trans ?_)
    rw [closeBy, answers s .ok .none rfl]

/-! ### The three requests -/

theorem Noticed_trans {x y z : LinkState} (h : Noticed x y) (h' : Noticed y z) : Noticed x z := by
  obtain ⟨_, _, rfl⟩ := h
  obtain ⟨fs, attn, rfl⟩ := h'
  exact ⟨fs, attn, rfl⟩

theorem Noticed_response {s : State} {l : Link} {k : Code} {p : Payload} {y : LinkState}
    (h : Noticed ((answered s l k p).links.get l) y) : y.response = some ⟨k, p⟩ := by
  obtain ⟨_, _, rfl⟩ := h
  simp [answered, State.modLink]

/-- What stands after a close on a closed rack (R155, R158). -/
theorem closes_ended {s : State} {l : Link} {a : Arm} {k : Context} {o : ChangeOutcome} (change : s.change.get a = some k)
    (closed : s.rack.isClosed = true) (unawaited : s.waiters = []) (tables : Tables s) (may : k.mayClose o) :
    ∃ t, settle (enterClosing a o (answered s l .ok .none)) = t ∧ Ended s t a k o ∧ .changeStep ∈ (t.links.get a.link).flags
      ∧ .changeEnded ∈ (t.links.get a.link).flags ∧ (t.links.get l).response = some ⟨.ok, .none⟩
      ∧ t.motion = s.motion ∧ t.axes = s.axes ∧ t.capture = s.capture
      ∧ (o = .done → t.inventory = s.inventory ∧ t.probes = s.probes ∧ t.pockets = s.pockets) := by
  obtain ⟨t, c, settles, ends, rfl⟩ := settle_enterClosing_closed (s := answered s l .ok .none) (o := o) change closed unawaited
  have changed : ((answered s l .ok .none).closingDown a k o).change = s.change.set a (some { k with step := .closing, closing := some o }) := rfl
  have past : k.step ≠ .waitRack := by rcases may with is | is | ⟨-, is⟩ <;> rw [is] <;> nofun
  refine ⟨t, settles, Ended_of (ends.ended ?_) ?_ rfl rfl rfl rfl rfl rfl rfl fun _ => nofun, ends.told.2 _ _ ?_, ends.told.1, ?_,
    ends.frame.1, ends.frame.2.1, ends.frame.2.2.1, fun is => ?_⟩
  · exact Tables_same tables rfl rfl
  · rw [changed]
    cases a <;> rfl
  · exact State.raise_raised _ _ _
  · have told : Noticed ((answered s l .ok .none).links.get l) (((answered s l .ok .none).closingDown a k o).links.get l) :=
      State.raise_noticed (s := (answered s l .ok .none).closes a k o ((answered s l .ok .none).settings.rackTimeout * 1000000))
        ⟨_, _, rfl⟩ _ _
    exact Noticed_response (Noticed_trans told (ends.noticed l))
  · obtain ⟨probes, pockets, inventory⟩ := ends.done is
    exact ⟨inventory, probes, pockets⟩

/-- A piece performed, then all it sets off. -/
theorem Runs.performed {w : Nat} {x : Task} {s t : State} (run : Runs w [x] s t) (h : w ≤ cascadeBound) : Machine.settle (perform x s) = t := by
  obtain ⟨k, within, does⟩ := run
  have all := does (cascadeBound + 1 - k) []
  rw [Nat.sub_add_cancel (by omega), runTasks_nil, List.append_nil, runTasks_cons, List.append_nil] at all
  exact all

/-- What an ABORT CHANGE in WAIT_RACK or OPENING does (R157). -/
theorem abortChange_goes {s : State} {l : Link} {x : Option (Option Arm)} {a : Arm} {k : Context} (taken : Takes s l (.abortChange l x))
    (names : Names l x a) (change : s.change.get a = some k) (early : k.step = .waitRack ∨ k.step = .opening) :
    Goes (.abortChange l x) s (settle (endChange a .aborted (answered s l .ok .none))) := by
  obtain ⟨g, served, answers, -⟩ := serve_through taken (linkCheck_abortChange names) (namedArm l x (abortChange l))
  refine congrArg _ (served.trans ((namedArm_names names _ _).trans ?_))
  have context : (s.modLink l g).change.get a = some k := change
  rw [← answers s .ok .none rfl]
  rcases early with step | step <;> simp only [abortChange, context, step]

/-- An early abort ends the change (R155, R157). -/
theorem abortChange_over {s : State} {l : Link} {x : Option (Option Arm)} {a : Arm} {k : Context} (taken : Takes s l (.abortChange l x))
    (names : Names l x a) (change : s.change.get a = some k) (early : k.step = .waitRack ∨ k.step = .opening) (lonely : Lonely s a k) :
    ∃ t, Goes (.abortChange l x) s t ∧ Over a k .aborted (answered s l .ok .none) t := by
  obtain ⟨t, run, ends⟩ := runs_endChange (s := answered s l .ok .none) change lonely .aborted
  refine ⟨t, ?_, ends⟩
  exact run.performed (by decide) ▸ abortChange_goes taken names change early

/-- Settles O52: a close by `Closes.goes`, its end on a closed rack by `closes_ended`, an early abort by `abortChange_over`. -/
theorem changeClosed : Obligations.ChangeClosed := by
  unfold Obligations.ChangeClosed
  refine ⟨?_, ?_, ?_, ?_⟩
  · intro l x a o c s taken closes closed meets inside
    obtain ⟨refused, goes⟩ := Closes.goes closes taken
    refine ⟨refused, fun k change => ?_⟩
    intro open_ unsure
    obtain ⟨shut, bars, takes⟩ := goes k change
    have closed_eq : closed k = s.closingDown a k o := by
      refine congrArg (fun u : State => u.raise a.link .changeStep) ?_
      generalize s.settings.rackTimeout * 1000000 = n
      simp only [State.setContext, State.modReader, State.modRack, State.closes]
    have unsure_iff : unsure ↔ o = .done ∧ k.Unsure := Iff.rfl
    have inside_iff : inside ↔ s.InRackBox a := Iff.rfl
    have sets : open_ → ¬ inside → ¬ unsure → s.rack.isClosed = false → (k.step ≠ .failedOpen ∧ (o = .done ∨ o = .aborted))
        ∨ (∃ r, k.step = .failedOpen ∧ k.failure = some r ∧ o = .failed r) → Answers c l s (closed k) := by
      intro may outside sure not_closed fits
      have done : settle (enterClosing a o (answered s l .ok .none)) = answered (closed k) l .ok .none := by
        rw [enterClosing_eq (s := answered s l .ok .none) change, closed_eq, ← closingDown_answered]
        exact (runs_closedCheck_open (s := (answered s l .ok .none).closingDown a k o) not_closed).settle (by decide)
      show Goes c s (answered (closed k) l .ok .none)
      rw [← done]
      exact takes may outside sure fits
    refine ⟨shut, bars, fun may outside sure not_closed => ⟨fun step is => ?_, fun r step failure is => ?_⟩, ?_⟩
    · exact sets may outside sure not_closed (.inl ⟨step, is⟩)
    · exact sets may outside sure not_closed (.inr ⟨r, step, failure, is⟩)
    · intro may outside sure opened closed unawaited tables fits
      have is_closed : s.rack.isClosed = true := by rw [Rack.isClosed, closed, opened]; rfl
      obtain ⟨t, settles, ended⟩ := closes_ended (l := l) (o := o) change is_closed unawaited tables may
      exact ⟨t, settles ▸ takes may outside sure fits, ended⟩
  · intro l x a k p n r s taken names change step unawaited no_drop takes slot moves level seats
    obtain ⟨t, goes, ends⟩ := abortChange_over taken names change (.inr step) (.inl unawaited)
    have past : k.step ≠ .waitRack := by rw [step]; nofun
    obtain ⟨v, u, probes, pockets, restored, emptied, surveyed⟩ := ends.surveyed nofun
    obtain ⟨-, -, take, -, new_seats⟩ := State.restore_restored (s := v) (a := a) (c := k)
    have v_probes : v.probes = s.probes := probes
    have v_pockets : v.pockets = s.pockets := pockets
    rw [← restored, ← emptied, v_probes, v_pockets] at take
    rw [← emptied, v_pockets] at new_seats
    obtain ⟨there, seat, same⟩ := take p n r takes (by rw [no_drop]; nofun) slot moves
    have here : ¬ u.absent n := fun gone => by
      obtain ⟨q, occupied, low⟩ := State.absent_iff.1 gone
      rcases new_seats no_drop q n occupied with before | is
      · exact seats q before
      · rw [takes] at is
        obtain rfl : p = q := congrArg Prod.fst (Option.some.inj is)
        rw [same, level] at low
        cases low
    refine ⟨t, goes, by rw [ends.shape]; exact PerArm.get_set _ _ _, by rw [ends.shape]; exact PerArm.get_set _ _ _,
      by rw [ends.past past], by rw [ends.past past], ends.told.1, surveyed.runs, (surveyed.stays n here).trans there,
      surveyed.seated p n seat here, ends.parted.2, Noticed_response (ends.noticed l), ends.frame.1, ends.frame.2.1, ends.frame.2.2.1, ?_⟩
    rw [ends.shape]
    rfl
  · intro l x a k s taken names change early lonely tables
    obtain ⟨t, goes, ends⟩ := abortChange_over taken names change early lonely
    refine ⟨t, goes, ends.ended (Tables_same tables rfl rfl), ends.told.1, Noticed_response (ends.noticed l), ends.frame.1, ends.frame.2.1,
      ends.frame.2.2.1⟩
  · intro s taken
    obtain ⟨g, served, answers, -⟩ := serve_through taken (by rfl) (clearRackFault .S)
    refine ⟨fun opened closed => ?_, fun apart => ?_⟩
    · have both : ((s.modLink .S g).rack.opened && (s.modLink .S g).rack.closed) = true := by
        show (s.rack.opened && s.rack.closed) = true
        rw [opened, closed]
        rfl
      exact congrArg _ (served.trans ((checked_first both).trans (answers s _ _ rfl)))
    · have one : ((s.modLink .S g).rack.opened && (s.modLink .S g).rack.closed) = false :=
        Bool.eq_false_iff.2 fun both => apart (Bool.and_eq_true_iff.1 both)
      exact congrArg _ (served.trans ((checked_next one).trans (answers { s with rack := { s.rack with fault := false } } _ _ rfl)))

end Sys2Proof.Machine
end
section
/-! PROOFS. The rack's sensors and the sequencer's timers (O53). -/
namespace Sys2Proof.Machine
open Sys2Proof.Safety

/-! ### The conditions looked at for each arm -/

/-- A piece for each arm of which only one has anything to do. -/
theorem runs_pair {X : Arm → Task} {a : Arm} {w : Nat} {s t : State} (before : perform (X a.other) s = (s, []))
    (acts : Runs w [X a] s t) (after : perform (X a.other) t = (t, [])) : Runs (w + 1) [X .A, X .B] s t := by
  have first : Runs 1 [X a.other] s s := Runs.piece before (Runs.nil s)
  have last : Runs 1 [X a.other] t t := Runs.piece after (Runs.nil t)
  cases a with
  | A => exact acts.cons last
  | B => exact (first.cons acts).mono (by omega)

theorem runs_neither {X : Arm → Task} {s : State} (idle : ∀ b, perform (X b) s = (s, [])) : Runs 2 [X .A, X .B] s s :=
  (Runs.piece (idle .A) (Runs.nil s)).cons (Runs.piece (idle .B) (Runs.nil s))

theorem openCheck_idle {s : State} {b : Arm} (apart : s.stepOf b ≠ some .opening) : perform (.openCheck b) s = (s, []) := by
  simp only [perform, openCheck, apart, decide_false, Bool.false_and, Bool.false_eq_true, if_false]

theorem closedCheck_idle {s : State} {b : Arm} (apart : s.stepOf b ≠ some .closing) : perform (.closedCheck b) s = (s, []) := by
  simp only [perform, closedCheck]
  cases change : s.change.get b with
  | none => rfl
  | some k =>
    have step : k.step ≠ .closing := fun is => apart (by rw [State.stepOf, change, ← is]; rfl)
    simp only [step, decide_false, Bool.false_and, Bool.false_eq_true, if_false]

/-- A context on an open rack goes on to its next step (R150). -/
def State.opensUp (s : State) (a : Arm) (k : Context) (timer : Timer) : State :=
  State.raise { s with
    change := s.change.set a (some { k with step := if k.drop = none then .awaitPick else .awaitDrop })
    rack := { s.rack with rackTimer := none, stepTimer := some timer } } a.link .changeStep

theorem State.opensUp_other (s : State) (a : Arm) (k : Context) (timer : Timer) :
    (s.opensUp a k timer).stepOf a.other = s.stepOf a.other :=
  congrArg (Option.map Context.step) (PerArm.get_set_ne _ _ (Arm.other_ne a))

theorem openCheck_opens {s : State} {a : Arm} {k : Context} (change : s.change.get a = some k) (step : k.step = .opening)
    (is_open : s.rack.isOpen = true) :
    perform (.openCheck a) s = (s.opensUp a k ⟨s.settings.stepTimeout * 10000000, 0⟩, []) := by
  have opening : s.stepOf a = some .opening := by rw [State.stepOf, change, ← step]; rfl
  have timed : ∀ (u : State) n, u.settings.stepTimeout * 10000000 = n →
      u.startStepTimer = u.modRack fun r => { r with stepTimer := some ⟨n, 0⟩ } := by
    rintro u n rfl
    rfl
  have next : (if k.drop.isSome then Step.awaitDrop else .awaitPick) = if k.drop = none then .awaitPick else .awaitDrop := by
    cases k.drop <;> rfl
  simp only [perform, openCheck, opening, is_open, decide_true, Bool.and_self, if_true]
  rw [timed _ (s.settings.stepTimeout * 10000000) ?_, State.opensUp]
  · generalize s.settings.stepTimeout * 10000000 = n
    refine congrArg (fun u : State => (u.raise a.link .changeStep, ([] : List Task))) ?_
    simp only [State.modContext, change, Option.map_some, State.setContext, State.modRack, next]
  · refine congrArg (fun e : Settings => e.stepTimeout * 10000000) ?_
    rfl

/-! ### The levels -/

/-- The rack's levels recorded. -/
def State.sensed (s : State) (o c : Bool) : State := { s with rack := { s.rack with opened := o, closed := c } }

theorem rackLevels_unready {s : State} (unready : s.startup ≠ .ready) (o c : Bool) : settle (rackLevels o c s) = s.sensed o c := by
  have : s.ready = false := decide_eq_false unready
  simp only [rackLevels, this, Bool.not_false, if_true]
  exact settle_nil _

theorem rackLevels_conflict {s : State} {o c : Bool} (ready : s.startup = .ready) (both : o = true ∧ c = true)
    (one : s.rack.opened = false ∨ s.rack.closed = false) : rackLevels o c s = (s.sensed true true, [.sensorConflict]) := by
  have is : s.ready = true := decide_eq_true ready
  obtain ⟨rfl, rfl⟩ := both
  have old : (s.rack.opened && s.rack.closed) = false := Bool.and_eq_false_iff.2 one
  simp only [rackLevels, is, old, Bool.not_true, Bool.false_eq_true, if_false, Bool.and_self, Bool.not_false, if_true]
  rfl

theorem rackLevels_open {s : State} (ready : s.startup = .ready) (not_open : s.rack.isOpen = false) :
    rackLevels true false s = (s.sensed true false, [.openCheck .A, .openCheck .B]) := by
  have is : s.ready = true := decide_eq_true ready
  simp only [rackLevels, is, Bool.not_true, Bool.false_eq_true, if_false, Bool.and_false, Bool.false_and, not_open]
  rfl

theorem rackLevels_closed {s : State} (ready : s.startup = .ready) (not_closed : s.rack.isClosed = false) :
    rackLevels false true s = (s.sensed false true, [.closedCheck .A, .closedCheck .B]) := by
  have is : s.ready = true := decide_eq_true ready
  simp only [rackLevels, is, Bool.not_true, Bool.false_eq_true, if_false, Bool.false_and, not_closed]
  rfl

theorem rackLevels_neither {s : State} (ready : s.startup = .ready) : rackLevels false false s = (s.sensed false false, []) := by
  have is : s.ready = true := decide_eq_true ready
  simp only [rackLevels, is, Bool.not_true, Bool.false_eq_true, if_false, Bool.false_and]
  rfl

theorem rackLevels_still {s : State} {o c : Bool} (ready : s.startup = .ready) (opened : s.rack.opened = o) (closed : s.rack.closed = c) :
    rackLevels o c s = (s.sensed o c, []) := by
  have is : s.ready = true := decide_eq_true ready
  cases o <;> cases c <;> simp [rackLevels, is, opened, closed, State.modRack, State.sensed, Rack.isOpen, Rack.isClosed]

/-- A level that begins no condition a change waits for is recorded alone. -/
theorem rackLevels_quiet {s : State} {o c : Bool} (ready : s.startup = .ready) (apart : o = false ∨ c = false)
    (unopened : o = true → ∀ b, s.stepOf b ≠ some .opening) (unclosed : c = true → ∀ b, s.stepOf b ≠ some .closing) :
    settle (rackLevels o c s) = s.sensed o c := by
  cases o with
  | true =>
    obtain rfl : c = false := apart.resolve_left nofun
    cases old : s.rack.isOpen with
    | true =>
      simp only [Rack.isOpen, Bool.and_eq_true, Bool.not_eq_true'] at old
      rw [rackLevels_still ready old.1 old.2, settle_nil]
    | false =>
      rw [rackLevels_open ready old]
      exact (runs_neither fun b => openCheck_idle (s := s.sensed true false) (unopened rfl b)).settle (by decide)
  | false =>
    cases c with
    | false => rw [rackLevels_neither ready, settle_nil]
    | true =>
      cases old : s.rack.isClosed with
      | true =>
        simp only [Rack.isClosed, Bool.and_eq_true, Bool.not_eq_true'] at old
        rw [rackLevels_still ready old.2 old.1, settle_nil]
      | false =>
        rw [rackLevels_closed ready old]
        exact (runs_neither fun b => closedCheck_idle (s := s.sensed false true) (unclosed rfl b)).settle (by decide)

/-! ### The open and the closed condition begin -/

theorem rackLevels_opens {s : State} {a : Arm} {k : Context} (ready : s.startup = .ready) (not_open : s.rack.isOpen = false)
    (change : s.change.get a = some k) (step : k.step = .opening) (other : s.stepOf a.other ≠ some .opening) :
    settle (rackLevels true false s) = (s.sensed true false).opensUp a k ⟨s.settings.stepTimeout * 10000000, 0⟩ := by
  rw [rackLevels_open ready not_open]
  refine (runs_pair (X := .openCheck) (openCheck_idle (s := s.sensed true false) other)
    (Runs.piece (openCheck_opens (s := s.sensed true false) change step rfl) (Runs.nil _)) (openCheck_idle ?_)).settle (by decide)
  exact fun is => other ((State.opensUp_other (s.sensed true false) a k _).symm.trans is)

theorem rackLevels_closes {s : State} {a : Arm} {k : Context} {o : ChangeOutcome} (ready : s.startup = .ready)
    (not_closed : s.rack.isClosed = false) (change : s.change.get a = some k) (step : k.step = .closing) (outcome : k.closing = some o)
    (other : s.stepOf a.other ≠ some .closing) (unawaited : s.waiters = []) :
    ∃ t, settle (rackLevels false true s) = t ∧ Over a k o (s.sensed false true) t := by
  have past : k.step ≠ .waitRack := by rw [step]; nofun
  obtain ⟨t, run, ends⟩ := runs_endChange_past (s := s.sensed false true) change past unawaited o
  refine ⟨t, ?_, ends⟩
  rw [rackLevels_closed ready not_closed]
  refine (runs_pair (X := .closedCheck) (closedCheck_idle (s := s.sensed false true) other)
    (Runs.piece (closedCheck_ends (s := s.sensed false true) rfl change step outcome) run) (closedCheck_idle ?_)).settle (by decide)
  have still : t.change.get a.other = s.change.get a.other := by
    rw [ends.shape]
    exact PerArm.get_set_ne _ _ (Arm.other_ne a)
  rw [State.stepOf, still]
  exact other

/-! ### Both sensors active -/

theorem State.rackArm_past {s : State} {a : Arm} {k : Context} (change : s.change.get a = some k) (past : k.step ≠ .waitRack)
    (other : s.change.get a.other = none) : s.rackArm = some a := by
  cases a with
  | A =>
    have at_a : s.change.get .A = some k := change
    simp [State.rackArm, at_a, past]
  | B =>
    have at_b : s.change.get .B = some k := change
    have at_a : s.change.get .A = none := other
    simp [State.rackArm, at_a, at_b, past]

theorem State.rackArm_waiting {s : State} {a : Arm} {k : Context} (change : s.change.get a = some k) (wait : k.step = .waitRack)
    (other : s.change.get a.other = none) : s.rackArm = none := by
  cases a with
  | A =>
    have at_a : s.change.get .A = some k := change
    have at_b : s.change.get .B = none := other
    simp [State.rackArm, at_a, at_b, wait]
  | B =>
    have at_b : s.change.get .B = some k := change
    have at_a : s.change.get .A = none := other
    simp [State.rackArm, at_a, at_b, wait]

/-- The rack fault flag set and told (R161). -/
def State.rackFaulted (s : State) : State := (s.modRack fun r => { r with fault := true }).raise .S .rackFault

/-- The pieces that end what waits for the rack at a rack fault (R161). -/
def State.rackWaits (s : State) (b : Arm) (o : ChangeOutcome) : List Task := if s.stepOf b = some .waitRack then [.endChange b o] else []

theorem setRackFault_eq (s : State) :
    setRackFault s = (s.rackFaulted, s.rackWaits .A (.failed .rackFault) ++ s.rackWaits .B (.failed .rackFault)) := rfl

theorem State.rackWaits_none {s : State} {b : Arm} (apart : s.stepOf b ≠ some .waitRack) (o : ChangeOutcome) : s.rackWaits b o = [] :=
  if_neg apart

theorem setRackFault_one {s : State} {a : Arm} (other : s.stepOf a.other ≠ some .waitRack) :
    setRackFault s = (s.rackFaulted, s.rackWaits a (.failed .rackFault)) := by
  rw [setRackFault_eq]
  cases a with
  | A => rw [State.rackWaits_none (b := .B) other, List.append_nil]
  | B => rw [State.rackWaits_none (b := .A) other, List.nil_append]

/-- The state after a fault report with the rack fault flag set (R161, R198). -/
def State.rackAlarm (s : State) (r : FaultReport) : State := (s.report r).rackFaulted

theorem State.rackAlarm_shape (s : State) (r : FaultReport) : ∃ trap links, s.rackAlarm r = { s with
    trap := trap, faultCount := min (s.faultCount + 1) 65535, links := links, rack := { s.rack with fault := true } } := by
  obtain ⟨count, trap, links, shape⟩ : ∃ count trap links, s.report r = { s with faultCount := count, trap := trap, links := links } :=
    ⟨_, _, _, s.report_shape r⟩
  have counted := s.report_faultCount r
  rw [shape] at counted
  obtain rfl : count = min (s.faultCount + 1) 65535 := counted
  rw [State.rackAlarm, shape]
  exact ⟨_, _, rfl⟩

theorem State.rackAlarm_told (s : State) (r : FaultReport) : .rackFault ∈ ((s.rackAlarm r).links.get .S).flags :=
  State.raise_raised _ _ _

theorem State.stepOf_eq {s : State} {a : Arm} {k : Context} (change : s.change.get a = some k) : s.stepOf a = some k.step := by
  rw [State.stepOf, change]
  rfl

section
variable {s : State} {a : Arm} {k : Context} (change : s.change.get a = some k) (other : s.change.get a.other = none)
include change other

theorem setRackFault_report (r : FaultReport) : setRackFault (s.report r)
    = (s.rackAlarm r, if k.step = .waitRack then [.endChange a (.failed .rackFault)] else []) := by
  have steps : ∀ b, (s.report r).stepOf b = s.stepOf b := fun b => by rw [State.stepOf, State.report_change]; rfl
  have apart : (s.report r).stepOf a.other ≠ some .waitRack := by
    rw [steps, State.stepOf, other]
    nofun
  rw [setRackFault_one apart, State.rackWaits, steps, State.stepOf_eq change]
  simp only [Option.some.injEq]
  rfl

theorem sensorConflict_waiting (wait : k.step = .waitRack) :
    sensorConflict s = (s.rackAlarm s.sensorReport, [.endChange a (.failed .rackFault)]) := by
  simp only [sensorConflict, setRackFault_report change other, wait, if_true, State.rackArm_waiting change wait other, List.append_nil]

theorem sensorConflict_past (past : k.step ≠ .waitRack) : sensorConflict s
    = (s.rackAlarm (s.armReport .rackSensor a), if k.step = .opening then [.endChange a (.failed .rackSensor)] else []) := by
  have holds := State.rackArm_past change past other
  simp only [sensorConflict, State.sensorReport, holds, setRackFault_report change other, past, if_false, List.nil_append,
    State.stepOf_eq change, Option.some.injEq]

end

/-- What stands after a change ended at a rack fault. -/
theorem rackAlarm_over {s t : State} {a : Arm} {k : Context} {o : ChangeOutcome} {r : FaultReport}
    (ends : Over a k o (s.rackAlarm r) t) : .changeEnded ∈ (t.links.get a.link).flags ∧ .rackFault ∈ (t.links.get .S).flags
    ∧ t.rack.fault = true ∧ t.faultCount = min (s.faultCount + 1) 65535 ∧ t.motion = s.motion ∧ t.axes = s.axes := by
  have raised := ends.told.2 _ _ (s.rackAlarm_told r)
  have told := ends.told.1
  obtain ⟨motion, axes, -, -, count, -⟩ := ends.frame
  have waited := ends.waited
  have past := ends.past
  obtain ⟨trap, links, shape⟩ := s.rackAlarm_shape r
  rw [shape] at motion axes count waited past
  refine ⟨told, raised, ?_, count, motion, axes⟩
  by_cases wait : k.step = .waitRack
  · rw [waited wait]
  · rw [past wait]

theorem rackAlarm_ended {s t : State} {a : Arm} {k : Context} {o : ChangeOutcome} {r : FaultReport}
    (ends : Over a k o (s.rackAlarm r) t) (tables : Tables s) : Ended s t a k o := by
  obtain ⟨trap, links, shape⟩ := s.rackAlarm_shape r
  have whole : Tables (s.rackAlarm r) := Tables_same tables (by rw [shape]) (by rw [shape])
  refine Ended_of (ends.ended whole) ?_ ?_ ?_ ?_ ?_ rfl rfl rfl fun past => past
  all_goals rw [shape]
  rfl

/-- Both sensors become active while the other arm is in no change (R161). -/
theorem rackLevels_both {s : State} {a : Arm} {k : Context} (ready : s.startup = .ready)
    (one : s.rack.opened = false ∨ s.rack.closed = false) (change : s.change.get a = some k) (other : s.change.get a.other = none)
    (tables : Tables s) :
    (∀ o, (k.step = .waitRack ∧ o = .failed .rackFault ∧ Lonely s a k) ∨ (k.step = .opening ∧ o = .failed .rackSensor ∧ s.waiters = []) →
        ∃ t, settle (rackLevels true true s) = t ∧ Ended s t a k o ∧ .changeEnded ∈ (t.links.get a.link).flags
          ∧ .rackFault ∈ (t.links.get .S).flags ∧ t.rack.fault = true ∧ t.faultCount = min (s.faultCount + 1) 65535
          ∧ t.motion = s.motion ∧ t.axes = s.axes)
    ∧ (k.step ≠ .waitRack → k.step ≠ .opening →
        settle (rackLevels true true s) = (s.sensed true true).rackAlarm (s.armReport .rackSensor a)) := by
  rw [rackLevels_conflict ready ⟨rfl, rfl⟩ one]
  have change' : (s.sensed true true).change.get a = some k := change
  have other' : (s.sensed true true).change.get a.other = none := other
  have tables' : Tables (s.sensed true true) := Tables_same tables rfl rfl
  refine ⟨fun o may => ?_, fun past not_opening => ?_⟩
  · obtain ⟨r, lonely, does⟩ : ∃ r, Lonely ((s.sensed true true).rackAlarm r) a k
        ∧ sensorConflict (s.sensed true true) = ((s.sensed true true).rackAlarm r, [.endChange a o]) := by
      have alone : Lonely s a k → ∀ r, Lonely ((s.sensed true true).rackAlarm r) a k := fun lonely r => by
        obtain ⟨trap, links, shape⟩ := (s.sensed true true).rackAlarm_shape r
        rw [shape]
        exact lonely
      rcases may with ⟨wait, rfl, lonely⟩ | ⟨opening, rfl, unawaited⟩
      · exact ⟨_, alone lonely _, sensorConflict_waiting change' other' wait⟩
      · have does := sensorConflict_past change' other' (by rw [opening]; nofun)
        rw [if_pos opening] at does
        exact ⟨_, alone (.inl unawaited) _, does⟩
    have context : ((s.sensed true true).rackAlarm r).change.get a = some k := by
      obtain ⟨trap, links, shape⟩ := (s.sensed true true).rackAlarm_shape r
      rw [shape]
      exact change
    obtain ⟨t, run, ends⟩ := runs_endChange context lonely o
    have ended := rackAlarm_ended ends tables'
    exact ⟨t, (Runs.piece (x := .sensorConflict) does run).settle (by decide), Ended_of ended rfl rfl rfl rfl rfl rfl rfl rfl fun past => past,
      rackAlarm_over (s := s.sensed true true) ends⟩
  · refine (Runs.piece (x := .sensorConflict) (e := (_, [])) ((sensorConflict_past change' other' past).trans ?_) (Runs.nil _)).settle (by decide)
    rw [if_neg not_opening]
    rfl

/-! ### The timers -/

theorem State.leftOpen_armReport (s : State) (a : Arm) (k : Context) (why : FailReason) (kind : FaultKind) :
    (s.leftOpen a k why).armReport kind a = s.armReport kind a := rfl

/-- The step timer expires in AWAIT_DROP or AWAIT_PICK (R159). -/
theorem stepTimeout_fails {s : State} {a : Arm} {k : Context} {q : Timer} (timer : s.rack.stepTimer = some q) (holds : s.rackArm = some a)
    (change : s.change.get a = some k) (step : k.step = .awaitDrop ∨ k.step = .awaitPick) :
    settle (stepTimeout s) = (s.leftOpen a k .stepTimeout).report (s.armReport .stepTimeout a) := by
  have awaits : (decide (s.stepOf a = some .awaitDrop) || decide (s.stepOf a = some .awaitPick)) = true := by
    rw [State.stepOf_eq change]
    rcases step with is | is <;> rw [is] <;> rfl
  simp only [stepTimeout, timer, holds, awaits, if_true, State.failOpen_eq change, State.leftOpen_armReport]
  exact settle_nil _

/-- What stands when the rack timer of an OPENING context has expired: it is told of (R160). -/
def State.openingLate (s : State) (a : Arm) : State :=
  State.report { s with rack := { s.rack with rackTimer := none, req := false } } (s.armReport .rackTimeout a)

/-- What stands when the rack timer of a CLOSING context has expired: it is told of, a rack fault with it (R160). -/
def State.closingLate (s : State) (a : Arm) : State :=
  State.report (State.rackFaulted { s with rack := { s.rack with rackTimer := none } }) (s.armReport .rackTimeout a)

theorem rackTimeout_opening {s : State} {a : Arm} {k : Context} {q : Timer} (timer : s.rack.rackTimer = some q)
    (holds : s.rackArm = some a) (change : s.change.get a = some k) (step : k.step = .opening) :
    rackTimeout s = (s.openingLate a, [.endChange a (.failed .rackTimeout)]) := by
  simp only [rackTimeout, timer, holds, State.stepOf_eq change, step, if_true]
  rfl

theorem rackTimeout_closing {s : State} {a : Arm} {k : Context} {q : Timer} (timer : s.rack.rackTimer = some q)
    (holds : s.rackArm = some a) (change : s.change.get a = some k) (step : k.step = .closing) :
    rackTimeout s = (s.closingLate a, s.rackWaits a.other (.failed .rackFault) ++ [.endChange a (.failed .rackTimeout)]) := by
  have own : State.stepOf { s with rack := { s.rack with rackTimer := none } } a.other.other ≠ some .waitRack := by
    rw [Arm.other_other]
    show s.stepOf a ≠ _
    rw [State.stepOf_eq change, step]
    nofun
  have fault := setRackFault_one own
  simp only [rackTimeout, timer, holds, State.stepOf_eq change, step, if_true, reduceCtorEq, Option.some.injEq, if_false]
  rw [State.modRack, fault]
  rfl

theorem State.modRack_same {s : State} {f : Rack → Rack} (same : f s.rack = s.rack) : s.modRack f = s := by rw [State.modRack, same]

theorem State.report_counted (s : State) (r : FaultReport) : ∃ trap links, s.report r = { s with
    trap := trap, faultCount := min (s.faultCount + 1) 65535, links := links } := by
  obtain ⟨count, trap, links, shape⟩ : ∃ count trap links, s.report r = { s with faultCount := count, trap := trap, links := links } :=
    ⟨_, _, _, s.report_shape r⟩
  have counted := s.report_faultCount r
  rw [shape] at counted
  obtain rfl : count = min (s.faultCount + 1) 65535 := counted
  exact ⟨trap, links, shape⟩

theorem State.openingLate_shape (s : State) (a : Arm) : ∃ trap links, s.openingLate a = { s with
    trap := trap, faultCount := min (s.faultCount + 1) 65535, links := links
    rack := { s.rack with rackTimer := none, req := false } } :=
  State.report_counted { s with rack := { s.rack with rackTimer := none, req := false } } _

theorem State.closingLate_shape (s : State) (a : Arm) : ∃ trap links, s.closingLate a = { s with
    trap := trap, faultCount := min (s.faultCount + 1) 65535, links := links
    rack := { s.rack with rackTimer := none, fault := true } } := by
  obtain ⟨trap, links, shape⟩ := State.report_counted (State.rackFaulted { s with rack := { s.rack with rackTimer := none } })
    (s.armReport .rackTimeout a)
  exact ⟨trap, links, shape⟩

theorem State.closingLate_told (s : State) (a : Arm) : .rackFault ∈ ((s.closingLate a).links.get .S).flags :=
  State.report_kept _ (State.raise_raised _ _ _)

/-- The rack timer of a CLOSING context expires while the other arm is in no change (R160). -/
theorem rackTimeout_alone {s : State} {a : Arm} {k : Context} {q : Timer} (timer : s.rack.rackTimer = some q)
    (holds : s.rackArm = some a) (change : s.change.get a = some k) (step : k.step = .closing) (other : s.change.get a.other = none)
    (unawaited : s.waiters = []) : ∃ t, settle (rackTimeout s) = t ∧ Over a k (.failed .rackTimeout) (s.closingLate a) t := by
  obtain ⟨trap, links, shape⟩ := s.closingLate_shape a
  have past : k.step ≠ .waitRack := by rw [step]; nofun
  obtain ⟨t, run, ends⟩ := runs_endChange_past (s := s.closingLate a) (by rw [shape]; exact change) past (by rw [shape]; exact unawaited)
    (.failed .rackTimeout)
  refine ⟨t, ?_, ends⟩
  have none_waits : s.stepOf a.other ≠ some .waitRack := by
    rw [State.stepOf, other]
    nofun
  rw [rackTimeout_closing timer holds change step, State.rackWaits_none none_waits, List.nil_append]
  exact run.settle (by decide)

/-- The rack timer of a CLOSING context expires while the other arm's change waits for the rack (R160, R161). -/
theorem rackTimeout_waited {s : State} {a : Arm} {k d : Context} {q : Timer} {zs : List ZoneId} (timer : s.rack.rackTimer = some q)
    (holds : s.rackArm = some a) (change : s.change.get a = some k) (step : k.step = .closing) (other : s.change.get a.other = some d)
    (wait : d.step = .waitRack) (entry : s.waiters = [⟨a.other, .change, zs⟩]) (settled : (s.motion.get a.other).phase ≠ .waiting .zone) :
    ∃ u t, settle (rackTimeout s) = t ∧ Over a.other d (.failed .rackFault) (s.closingLate a) u
      ∧ Over a k (.failed .rackTimeout) u t ∧ Parted a.other t := by
  obtain ⟨trap, links, shape⟩ := s.closingLate_shape a
  have past : k.step ≠ .waitRack := by rw [step]; nofun
  obtain ⟨u, first, ended⟩ := runs_endChange_wait (s := s.closingLate a) (by rw [shape]; exact other) wait
    (.inr ⟨by rw [shape]; exact settled, zs, by rw [shape]; exact entry⟩) (.failed .rackFault)
  have stands : u.change.get a = some k := by
    rw [ended.shape, shape]
    exact (PerArm.get_set_ne _ _ (Arm.other_ne a).symm).trans change
  obtain ⟨t, last, ends⟩ := runs_endChange_past stands past ended.frame.2.2.2.2.2.1 (.failed .rackTimeout)
  refine ⟨u, t, ?_, ended, ends, last.keeps (Parted_keeps a.other) ended.parted⟩
  have waits : s.stepOf a.other = some .waitRack := (State.stepOf_eq other).trans (congrArg some wait)
  rw [rackTimeout_closing timer holds change step, State.rackWaits, if_pos waits]
  exact (first.append last).settle (by decide)

/-! ### The repeat of a drop read -/

theorem dropRepeat_asks {s : State} {a : Arm} {k : Context} {d : PocketId × Dropped} (timer : s.rack.dropTimer ≠ none)
    (holds : s.rackArm = some a) (change : s.change.get a = some k) (drop : k.drop = some d) (step : k.step = .awaitDrop)
    (unsure : k.dropConfirmed = false) :
    dropRepeat s = if (s.pockets.get d.1).level then s.askDropRead a else s.modRack fun r => { r with dropTimer := none } := by
  obtain ⟨q, timer⟩ := Option.ne_none_iff_exists'.1 timer
  have awaits : s.awaitsDrop a = (s.pockets.get d.1).level := by
    simp only [State.awaitsDrop, change, step, unsure, drop, Option.any_some, decide_true, Bool.not_false, Bool.true_and]
  simp only [dropRepeat, timer, holds, awaits]

/-! ### Settling O53 -/

/-- Settles O53: the levels by `rackLevels_quiet`, `rackLevels_opens`, `rackLevels_closes` and `rackLevels_both`, the timers by what
their expiry does in each step. -/
theorem rackEvents : Obligations.RackEvents := by
  unfold Obligations.RackEvents
  intro a v s stopped none_ opens closes
  have open_row : ∀ w, exec (.rackOpenChange w) s = .next (settle (rackLevels w s.rack.closed s)) := fun _ => rfl
  have closed_row : ∀ w, exec (.rackClosedChange w) s = .next (settle (rackLevels s.rack.opened w s)) := fun _ => rfl
  have begins_open : ∀ c, opens c → s.rack.isOpen = false ∧ exec c s = .next (settle (rackLevels true false s)) := by
    rintro c (⟨rfl, opened, closed⟩ | ⟨rfl, opened, closed⟩)
    · exact ⟨by rw [Rack.isOpen, opened]; rfl, by rw [open_row, closed]⟩
    · exact ⟨by rw [Rack.isOpen, opened, closed]; rfl, by rw [closed_row, opened]⟩
  have begins_closed : ∀ c, closes c → s.rack.isClosed = false ∧ exec c s = .next (settle (rackLevels false true s)) := by
    rintro c (⟨rfl, opened, closed⟩ | ⟨rfl, opened, closed⟩)
    · exact ⟨by rw [Rack.isClosed, closed]; rfl, by rw [closed_row, opened]⟩
    · exact ⟨by rw [Rack.isClosed, opened, closed]; rfl, by rw [open_row, closed]⟩
  refine ⟨fun unready => ⟨?_, ?_⟩, fun ready quiet => ?_, fun ready quiet => ?_, ?_, ?_, ?_, ?_, ?_, ?_, ?_, ?_, ?_, ?_, ?_, ?_⟩
  · exact congrArg _ (rackLevels_unready unready v s.rack.closed)
  · exact congrArg _ (rackLevels_unready unready s.rack.opened v)
  · refine congrArg _ (rackLevels_quiet ready ?_ ?_ ?_)
    · exact quiet.symm.imp And.left fun h => h.2.1
    · rintro rfl
      exact (quiet.resolve_right nofun).2.2
    · intro closed
      rcases quiet with ⟨-, low, -⟩ | ⟨-, low | apart⟩
      · exact absurd closed (by rw [low]; nofun)
      · exact absurd closed (by rw [low]; nofun)
      · exact apart
  · refine congrArg _ (rackLevels_quiet ready ?_ ?_ ?_)
    · exact quiet.imp (fun h => h.2.1) And.left
    · intro opened
      rcases quiet with ⟨-, low, -⟩ | ⟨-, low | apart⟩
      · exact absurd opened (by rw [low]; nofun)
      · exact absurd opened (by rw [low]; nofun)
      · exact apart
    · rintro rfl
      exact (quiet.resolve_right nofun).2.2
  · intro c k ready begins change step other
    obtain ⟨not_open, row⟩ := begins_open c begins
    exact row.trans (congrArg _ (rackLevels_opens ready not_open change step other))
  · intro c k ready begins change step outcome other unawaited
    obtain ⟨not_closed, row⟩ := begins_closed c begins
    obtain ⟨t, settles, ends⟩ := rackLevels_closes ready not_closed change step outcome other unawaited
    have past : k.step ≠ .waitRack := by rw [step]; nofun
    obtain ⟨probes, pockets, inventory⟩ := ends.done rfl
    obtain ⟨unknown, readers⟩ := ends.quiet rfl
    refine ⟨t, row.trans (congrArg _ settles), ends.parted.2, ends.shape.trans ?_⟩
    rw [ends.past past, probes, pockets, inventory, unknown, readers past, ← unawaited]
    rfl
  · intro c k o ready begins change step outcome other unawaited tables
    obtain ⟨not_closed, row⟩ := begins_closed c begins
    obtain ⟨t, settles, ends⟩ := rackLevels_closes ready not_closed change step outcome other unawaited
    have past : k.step ≠ .waitRack := by rw [step]; nofun
    have ended := ends.ended (Tables_same tables rfl rfl)
    exact ⟨t, row.trans (congrArg _ settles), Ended_of ended rfl rfl rfl rfl rfl rfl rfl rfl fun is => is, ends.told.1,
      by rw [ends.past past]; rfl, by rw [ends.past past]; rfl, ends.frame.1, ends.frame.2.1, ends.frame.2.2.2.2.1⟩
  · intro c k ready rises change other tables both ends
    have one : s.rack.opened = false ∨ s.rack.closed = false := rises.imp (fun h => h.2.1) fun h => h.2.2
    have row : exec c s = .next (settle (rackLevels true true s)) := by
      rcases rises with ⟨rfl, -, high⟩ | ⟨rfl, high, -⟩
      · rw [open_row, high]
      · rw [closed_row, high]
    obtain ⟨ended, stays⟩ := rackLevels_both ready one change other tables
    refine ⟨fun wait lonely => ?_, fun opening unawaited => ?_, fun past not_opening => row.trans (congrArg _ (stays past not_opening))⟩
    · obtain ⟨t, settles, rest⟩ := ended _ (.inl ⟨wait, rfl, lonely⟩)
      exact ⟨t, row.trans (congrArg _ settles), rest⟩
    · obtain ⟨t, settles, rest⟩ := ended _ (.inr ⟨opening, rfl, unawaited⟩)
      exact ⟨t, row.trans (congrArg _ settles), rest⟩
  · intro ready opened closed free
    refine (open_row true).trans (congrArg _ ?_)
    rw [closed, rackLevels_conflict ready ⟨rfl, rfl⟩ (.inl opened)]
    refine ((Runs.piece (x := .sensorConflict) (e := (_, [])) (sensorConflict_free (s := s.sensed true true) free)
      (Runs.nil _)).settle (by decide)).trans ?_
    have nobody : (s.sensed true true).rackArm = none := State.rackArm_none free
    rw [State.sensorReport, nobody, ← closed]
    rfl
  · intro timer
    show Host.Outcome.next (settle (stepTimeout s)) = .next s
    simp only [stepTimeout, timer, settle_nil]
    rw [State.modRack_same (by rw [← timer])]
  · intro k q timer holds change step
    refine congrArg _ ((stepTimeout_fails timer holds change step).trans ?_)
    refine congrArg (fun u : State => (u.raise a.link .changeStep).report (s.armReport .stepTimeout a)) ?_
    simp only [stopped, State.setContext, State.modReader, State.modRack]
  · intro timer
    show Host.Outcome.next (settle (rackTimeout s)) = .next s
    simp only [rackTimeout, timer, settle_nil]
    rw [State.modRack_same (by rw [← timer])]
  · intro k q timer holds change step unawaited
    have past : k.step ≠ .waitRack := by rw [step]; nofun
    obtain ⟨trap, links, shape⟩ := s.openingLate_shape a
    obtain ⟨t, run, gone⟩ := runs_endChange_past (s := s.openingLate a) (by rw [shape]; exact change) past (by rw [shape]; exact unawaited)
      (.failed .rackTimeout)
    obtain ⟨motion, axes, -, -, count, -, still⟩ := gone.frame
    refine ⟨t, congrArg _ ((congrArg settle (rackTimeout_opening timer holds change step)).trans (run.settle (by decide))),
      gone.parted.1, by rw [gone.shape]; exact PerArm.get_set _ _ _, by rw [gone.past past], by rw [gone.past past],
      count.trans (by rw [shape]), gone.told.1, gone.parted.2, motion.trans (by rw [shape]), axes.trans (by rw [shape]),
      still.trans (by rw [shape]; rfl)⟩
  · intro k q timer holds change step tables ends
    have past : k.step ≠ .waitRack := by rw [step]; nofun
    obtain ⟨trap, links, shape⟩ := s.closingLate_shape a
    refine ⟨fun other unawaited => ?_, fun d zs other wait entry settled => ?_⟩
    · obtain ⟨t, settles, gone⟩ := rackTimeout_alone timer holds change step other unawaited
      have told := gone.told.2 _ _ (s.closingLate_told a)
      have ended := gone.ended (Tables_same tables (by rw [shape]) (by rw [shape]))
      obtain ⟨motion, axes, -, -, count, -⟩ := gone.frame
      refine ⟨t, congrArg _ settles, ⟨gone.parted.1, by rw [gone.shape]; exact PerArm.get_set _ _ _,
        by rw [gone.past past, shape], told, gone.told.1, count.trans (by rw [shape]), motion.trans (by rw [shape]),
        axes.trans (by rw [shape])⟩, Ended_of ended ?_ ?_ ?_ ?_ ?_ rfl rfl rfl fun is => is⟩
      all_goals rw [shape]
      rfl
    · obtain ⟨u, t, settles, first, last, apart⟩ := rackTimeout_waited timer holds change step other wait entry settled
      have told := last.told.2 _ _ (first.told.2 _ _ (s.closingLate_told a))
      obtain ⟨motion, axes, -, -, count, -⟩ := first.frame
      obtain ⟨motion', axes', -, -, count', unawaited, -⟩ := last.frame
      refine ⟨t, congrArg _ settles, ⟨last.parted.1, by rw [last.shape]; exact PerArm.get_set _ _ _,
        by rw [last.past past, first.waited wait, shape], told, last.told.1, (count'.trans count).trans (by rw [shape]),
        (motion'.trans motion).trans (by rw [shape]), (axes'.trans axes).trans (by rw [shape])⟩, apart.1, unawaited, ?_,
        last.told.2 _ _ first.told.1, by rw [last.past past], by rw [last.past past], fun z b held => ?_⟩
      · have noted : u.lastChange.get a.other = some (.failed .rackFault) := by
          rw [first.shape]
          exact PerArm.get_set _ _ _
        rw [last.shape]
        exact (PerArm.get_set_ne _ _ (Arm.other_ne a)).trans noted
      · rcases Arm.eq_or_other a b with rfl | rfl
        · exact last.parted.2 z held
        · exact apart.2 z held
  · intro timer
    show Host.Outcome.next (dropRepeat s) = .next s
    simp only [dropRepeat, timer]
    rw [State.modRack_same (by rw [← timer])]
  · intro k d timer holds change drop step unsure
    have repeats := dropRepeat_asks timer holds change drop step unsure
    refine ⟨fun level reader => congrArg _ (repeats.trans ?_), fun level => congrArg _ (repeats.trans ?_)⟩
    · rw [if_pos level, State.askDropRead, State.askRead, State.modReader, reader]
      rfl
    · rw [level]
      rfl

end Sys2Proof.Machine
end
section
/-! PROOFS. The presence lines of the pockets (O50). -/
namespace Sys2Proof.Machine
open Sys2Proof.Safety

/-! ### A presence level -/

/-- A pocket's presence level recorded. -/
def State.levelled (s : State) (p : PocketId) (v : Bool) : State := s.modPocket p fun x => { x with level := v }

theorem State.levelled_get (s : State) (p : PocketId) (v : Bool) :
    (s.levelled p v).pockets.get p = { s.pockets.get p with level := v } := Table.get_put_same _ _ _

theorem State.levelled_tables {s : State} (tables : Tables s) (p : PocketId) (v : Bool) : Tables (s.levelled p v) :=
  Tables_pocket (fun _ => Iff.rfl) tables

theorem pocketLevel_same {s : State} {p : PocketId} {v : Bool} (same : (s.pockets.get p).level = v) : pocketLevel p v s = (s, []) :=
  if_pos same

theorem pocketLevel_unready {s : State} {p : PocketId} {v : Bool} (other : (s.pockets.get p).level ≠ v) (unready : s.startup ≠ .ready) :
    pocketLevel p v s = (s.levelled p v, []) := by
  have : s.ready = false := decide_eq_false unready
  simp only [pocketLevel, other, this, Bool.false_eq_true, if_false]
  rfl

theorem pocketLevel_ready {s : State} {p : PocketId} {v : Bool} (other : (s.pockets.get p).level ≠ v) (ready : s.startup = .ready) :
    pocketLevel p v s = watch p v (s.levelled p v) := by
  have : s.ready = true := decide_eq_true ready
  simp only [pocketLevel, other, this, if_false, if_true]
  rfl

/-! ### A record lost -/

/-- A record STORED in a pocket becomes LOST, and leaves its pocket (R126). -/
theorem State.lose_stored {s : State} {n : Slot} {r : Probe} {p : PocketId} (slot : s.probes.get n = some r) (place : r.place = .stored p)
    (occupied : (s.pockets.get p).state = .occupied n) :
    s.place n .lost = (s.vacate p).setProbe n (some { r with place := .lost }) := by
  simp only [State.place, slot, place, State.leave, occupied, if_true, State.displace, Place.single, Bool.false_eq_true, if_false]

/-- A record in transit becomes LOST. -/
theorem State.lose_moving {s : State} {n : Slot} {r : Probe} {a : Arm} (slot : s.probes.get n = some r) (place : r.place = .inTransit a) :
    s.place n .lost = s.setProbe n (some { r with place := .lost }) := by
  simp only [State.place, slot, place, State.leave, State.displace, Place.single, Bool.false_eq_true, if_false]

/-- A context left open, its operations spelled out. -/
theorem State.leftOpen_read {s : State} {readers : PerArm Reader} (same : s.readers = readers) (a : Arm) (k : Context) (why : FailReason) :
    s.leftOpen a k why = ((State.setContext { s with
        readers := readers.set a ((readers.get a).discard fun q => decide (q = .drop) || decide (q = .pick)) } a
      (some { k with step := .failedOpen, failure := some why })).modRack fun r =>
        { r with dropTimer := none, stepTimer := none }).raise a.link .changeStep := by
  subst same
  refine congrArg (fun u : State => u.raise a.link .changeStep) ?_
  simp only [State.setContext, State.modRack]

/-! ### The pocket watch by the pocket's state -/

section
variable {s : State} {p : PocketId}

theorem watch_occupied_rises {n : Slot} (state : (s.pockets.get p).state = .occupied n) : watch p true s = (s, []) := by
  simp only [watch, state, if_true]

theorem watch_occupied_falls {n : Slot} (state : (s.pockets.get p).state = .occupied n) :
    watch p false s = (((s.place n .lost).raise .S .pocketChanged).report s.lostReport, []) := by
  simp only [watch, state, Bool.false_eq_true, if_false]

theorem watch_disabled (v : Bool) (state : (s.pockets.get p).state = .disabled) : watch p v s = (s, []) := by
  simp only [watch, state]

theorem watch_empty_same {v : Bool} (state : (s.pockets.get p).state = .empty) (same : (s.pockets.get p).unexpected = v) :
    watch p v s = (s, []) := by
  simp only [watch, state, same, if_true]

theorem watch_empty_other {v : Bool} (state : (s.pockets.get p).state = .empty) (other : (s.pockets.get p).unexpected ≠ v) :
    watch p v s = ((s.modPocket p fun k => { k with unexpected := v }).raise .S .pocketChanged, []) := by
  simp only [watch, state, other, if_false]

/-- The one context that reserves a pocket. -/
theorem State.reserver_eq {a : Arm} {c : Context} (change : s.change.get a = some c) (reserves : c.reserves p = true)
    (alone : ∀ d, s.change.get a.other = some d → d.reserves p = false) : s.reserver p = some (a, c) := by
  cases a with
  | A => simp only [State.reserver, change, reserves, if_true]
  | B =>
    simp only [State.reserver, change, reserves, if_true]
    cases other : s.change.get .A with
    | none => rfl
    | some d => simp only [alone d other, Bool.false_eq_true, if_false]

theorem watch_reserved {a : Arm} {c : Context} (v : Bool) (state : (s.pockets.get p).state = .reserved)
    (change : s.change.get a = some c) (reserves : c.reserves p = true)
    (alone : ∀ d, s.change.get a.other = some d → d.reserves p = false) : watch p v s = reservedChange a c p v s := by
  simp only [watch, state, State.reserver_eq change reserves alone]

end

theorem Context.reserves_eq_false {d : Context} {p : PocketId} (drop : d.drop.map (·.1) ≠ some p ∨ d.dropConfirmed = true)
    (take : d.take.map (·.1) ≠ some p ∨ d.pickConfirmed = true) : d.reserves p = false := by
  simp only [Context.reserves, Bool.or_eq_false_iff, Bool.and_eq_false_iff, decide_eq_false_iff_not, Bool.not_eq_false']
  exact ⟨drop, take⟩

/-! ### A change at the drop pocket, and at the take pocket -/

section
variable {s : State} {p : PocketId} {a : Arm} {c : Context}

section
variable (drop : c.drop.map (·.1) = some p) (unsure : c.dropConfirmed = false)
include drop unsure

theorem Context.reserves_drop : c.reserves p = true := by simp [Context.reserves, drop, unsure]

theorem dropChange_early (early : c.step = .waitRack ∨ c.step = .opening) :
    reservedChange a c p true s = (s, [.endChange a (.failed .pocketBlocked)]) := by
  rcases early with step | step <;> simp [reservedChange, drop, unsure, step]

theorem dropChange_quiet {v : Bool} (quiet : ((c.step = .waitRack ∨ c.step = .opening) ∧ v = false) ∨ c.step = .failedOpen ∨ c.step = .closing) :
    reservedChange a c p v s = (s, []) := by
  rcases quiet with ⟨step | step, rfl⟩ | step | step <;> simp [reservedChange, drop, unsure, step]

theorem dropChange_awaited (v : Bool) (step : c.step = .awaitDrop) : reservedChange a c p v s = (dropLevel a v s, []) := by
  simp [reservedChange, drop, unsure, step]

end

section
variable {n : Slot} (apart : c.drop.map (·.1) ≠ some p) (take : c.take = some (p, n)) (unsure : c.pickConfirmed = false)
include take unsure

theorem Context.reserves_take : c.reserves p = true := by simp [Context.reserves, take, unsure]

include apart

theorem takeChange_quiet {v : Bool} (quiet : v = true ∨ c.step = .failedOpen ∨ c.step = .closing) :
    reservedChange a c p v s = (s, []) := by
  rcases quiet with rfl | step | step
  · simp [reservedChange, apart, take]
  · cases v <;> simp [reservedChange, apart, take, unsure, step]
  · cases v <;> simp [reservedChange, apart, take, unsure, step]

theorem takeChange_early (early : c.step = .waitRack ∨ c.step = .opening) :
    reservedChange a c p false s = (loseTake a n s, [.endChange a (.failed .probeLost)]) := by
  rcases early with step | step <;> simp [reservedChange, apart, take, unsure, step]

theorem takeChange_drop (step : c.step = .awaitDrop) :
    reservedChange a c p false s = ((loseTake a n s).failOpen a .probeLost, []) := by
  simp [reservedChange, apart, take, unsure, step]

theorem takeChange_pick (step : c.step = .awaitPick) :
    reservedChange a c p false s = (if (s.readers.get a).awaits .pick then s else s.askRead a .pick, []) := by
  simp [reservedChange, apart, take, unsure, step]

end
end

/-- Settles O50: the watch by the pocket's state, a RESERVED pocket by the step of the context that reserves it. -/
theorem pocketWatch : Obligations.PocketWatch := by
  unfold Obligations.PocketWatch
  intro p v s k on
  have row : exec (.pocketChange p v) s = .next (settle (pocketLevel p v s)) := rfl
  have goes : ∀ {e : Eff} {t : State}, pocketLevel p v s = e → settle e = t → Goes (.pocketChange p v) s t :=
    fun does settles => row.trans (congrArg _ ((congrArg settle does).trans settles))
  have is : on.pockets.get p = { k with level := v } := s.levelled_get p v
  refine ⟨fun same => goes (pocketLevel_same same) (settle_nil s), fun other unready => goes (pocketLevel_unready other unready) (settle_nil _),
    fun other ready => ?_⟩
  have watches : pocketLevel p v s = watch p v on := pocketLevel_ready other ready
  have records : watch p v on = (on, []) → Goes (.pocketChange p v) s on := fun does => goes (watches.trans does) (settle_nil _)
  refine ⟨fun n r falls occupied slot place => ?_, fun quiet => records ?_, fun empty same => records ?_, fun empty differs => ?_,
    fun a c reserved change alone => ?_⟩
  · subst falls
    have seat : (on.pockets.get p).state = .occupied n := (congrArg Pocket.state is).trans occupied
    have slot' : on.probes.get n = some r := slot
    refine goes (watches.trans (watch_occupied_falls seat)) ((settle_nil _).trans ?_)
    have leaves : on.vacate p = on.modPocket p fun x => { x with state := .empty, unexpected := false } := by
      simp only [State.vacate, State.modPocket, is]
    rw [State.lose_stored slot' place seat, leaves]
    rfl
  · rcases quiet with disabled | ⟨rfl, n, occupied⟩
    · exact watch_disabled v ((congrArg Pocket.state is).trans disabled)
    · exact watch_occupied_rises ((congrArg Pocket.state is).trans occupied)
  · exact watch_empty_same ((congrArg Pocket.state is).trans empty) ((congrArg Pocket.unexpected is).trans same)
  · exact goes (watches.trans (watch_empty_other ((congrArg Pocket.state is).trans empty) fun same =>
      differs ((congrArg Pocket.unexpected is).symm.trans same))) (settle_nil _)
  · have alone' : ∀ d, on.change.get a.other = some d → d.reserves p = false := fun d at_d =>
      Context.reserves_eq_false (alone d at_d).1 (alone d at_d).2
    have state : (on.pockets.get p).state = .reserved := (congrArg Pocket.state is).trans reserved
    have context : on.change.get a = some c := change
    have tables_on : Tables s → Tables on := fun tables => State.levelled_tables tables p v
    intro early late reader untold
    refine ⟨fun drop unsure => ?_, fun n r apart take unsure slot place => ?_⟩
    · have does := watches.trans (watch_reserved (s := on) v state context (Context.reserves_drop drop unsure) alone')
      refine ⟨fun is_early high lonely tables => ?_, fun quiet => ?_, fun step high free => ?_, fun step low => ?_⟩
      · subst high
        obtain ⟨t, run, ends⟩ := runs_endChange (s := on) context lonely (.failed .pocketBlocked)
        exact ⟨t, goes (does.trans (dropChange_early drop unsure is_early)) (run.settle (by decide)), ends.ended (tables_on tables),
          ends.told.1, ends.frame.1, ends.frame.2.1, ends.frame.2.2.2.1⟩
      · exact goes (does.trans (dropChange_quiet drop unsure quiet)) (settle_nil _)
      · subst high
        refine goes (does.trans (dropChange_awaited drop unsure true step)) ((settle_nil _).trans ?_)
        have free' : on.readers.get a = ⟨none, none⟩ := free
        rw [dropLevel, if_pos rfl, State.askDropRead, State.askRead, State.modReader, free']
        rfl
      · subst low
        exact goes (does.trans (dropChange_awaited drop unsure false step)) (settle_nil _)
    · have does := watches.trans (watch_reserved (s := on) v state context (Context.reserves_take take unsure) alone')
      intro lost
      have loses : loseTake a n on = lost := by
        rw [loseTake, State.lose_moving (s := on) slot place]
        rfl
      obtain ⟨trap, links, shape⟩ := State.report_counted ((on.setProbe n (some { r with place := .lost })).raise .S .pocketChanged)
        (s.armReport .probeLost a)
      refine ⟨fun quiet => ?_, fun is_early low lonely tables => ?_, fun step low => ?_, fun step low free => ?_⟩
      · exact goes (does.trans (takeChange_quiet apart take unsure quiet)) (settle_nil _)
      · subst low
        have early_does := does.trans (takeChange_early apart take unsure is_early)
        rw [loses] at early_does
        have lonely' : Lonely lost a c := by
          show Lonely (State.report _ _) a c
          rw [shape]
          exact lonely
        have context' : lost.change.get a = some c := by
          show (State.report _ _).change.get a = some c
          rw [shape]
          exact change
        have tables' : Tables lost := loses ▸ Tables_keeps.loseTake (tables_on tables) a n
        obtain ⟨t, run, ends⟩ := runs_endChange context' lonely' (.failed .probeLost)
        have left : lost.probes.get n = some { r with place := .lost } := by
          show (State.report _ _).probes.get n = _
          rw [shape]
          exact Table.get_put_same _ _ _
        obtain ⟨motion, axes, -, same_trap, count, -⟩ := ends.frame
        refine ⟨t, goes early_does (run.settle (by decide)), ends.ended tables', ends.told.1, (ends.lost left rfl).trans left.symm,
          ends.told.2 _ _ (State.report_kept _ (State.raise_raised _ _ _)), motion.trans ?_, axes.trans ?_, same_trap, count⟩
        · exact State.report_motion _ _
        · exact State.report_axes _ _
      · subst low
        refine goes (does.trans (takeChange_drop apart take unsure step)) ((settle_nil _).trans ?_)
        rw [loses]
        have context' : lost.change.get a = some c := by
          show (State.report _ _).change.get a = some c
          rw [shape]
          exact change
        exact (State.failOpen_eq context' _).trans (State.leftOpen_read (State.report_readers _ _) a c .probeLost)
      · subst low
        refine goes (does.trans (takeChange_pick apart take unsure step)) ((settle_nil _).trans ?_)
        have free' : on.readers.get a = ⟨none, none⟩ := free
        rw [free', State.askRead, State.modReader, free']
        rfl

end Sys2Proof.Machine
end
section
/-! PROOFS. HALT by the arm's state, with what it does to a change (O39). -/
namespace Sys2Proof.Machine
open Sys2Proof.Safety

/-! ### What a stop of the arm does to its change -/

/-- No change of the arm is in a step that a stop of the arm ends (R162). -/
def State.Unearly (s : State) (a : Arm) : Prop := ∀ k, s.change.get a = some k → k.step ≠ .waitRack ∧ k.step ≠ .opening

theorem armStopped_spared {s : State} {a : Arm} (unearly : s.Unearly a) {e : ArmEvent} (mild : e = .halt ∨ e = .collision) :
    perform (.armStopped a e) s = (s, []) := by
  have gentle : (decide (e = .fault) || decide (e = .reset)) = false := by rcases mild with rfl | rfl <;> rfl
  simp only [perform, armStopped, State.stepOf]
  cases change : s.change.get a with
  | none => rfl
  | some k =>
    obtain ⟨not_wait, not_opening⟩ := unearly k change
    cases step : k.step with
    | waitRack => exact absurd step not_wait
    | opening => exact absurd step not_opening
    | awaitDrop => simp only [Option.map_some, step, gentle, Bool.false_eq_true, if_false]
    | awaitPick => simp only [Option.map_some, step, gentle, Bool.false_eq_true, if_false]
    | closing => simp only [Option.map_some, step]
    | failedOpen => simp only [Option.map_some, step]

theorem armStopped_early {s : State} {a : Arm} {k : Context} (change : s.change.get a = some k)
    (early : k.step = .waitRack ∨ k.step = .opening) (e : ArmEvent) :
    perform (.armStopped a e) s = (s, [.endChange a (if e = .halt then .aborted else .failed .arm)]) := by
  rcases early with step | step <;> simp only [perform, armStopped, State.stepOf_eq change, step]

theorem runs_armStopped_early {s : State} {a : Arm} {k : Context} (change : s.change.get a = some k)
    (early : k.step = .waitRack ∨ k.step = .opening) (lonely : Lonely s a k) (e : ArmEvent) :
    ∃ t, Runs 14 [.armStopped a e] s t ∧ Over a k (if e = .halt then .aborted else .failed .arm) s t := by
  obtain ⟨t, run, ends⟩ := runs_endChange change lonely (if e = .halt then .aborted else .failed .arm)
  exact ⟨t, Runs.piece (armStopped_early change early e) run, ends⟩

/-! ### HALT by the arm's state -/

section
variable {s : State} {a : Arm}

theorem haltArm_rests (rests : (s.motion.get a).phase = .off ∨ (s.motion.get a).phase = .idle ∨ (s.motion.get a).phase = .collision
    ∨ ∃ r, (s.motion.get a).phase = .fault r) : haltArm a s = (s, [.armStopped a .halt]) := by
  rcases rests with phase | phase | phase | ⟨r, phase⟩ <;> simp only [haltArm, phase, List.nil_append]

theorem haltArm_moving (phase : (s.motion.get a).phase = .moving) : haltArm a s
    = ((enterStop a .halted (flush a s).1).1, (enterStop a .halted (flush a s).1).2 ++ [.armStopped a .halt]) := by
  have quiet := flush_pieces (s := s) (a := a) (by rw [phase]; nofun)
  simp only [haltArm, phase, quiet, List.nil_append]

theorem haltArm_stopping (phase : (s.motion.get a).phase = .stopping) : haltArm a s = ((flush a s).1, [.armStopped a .halt]) := by
  have quiet := flush_pieces (s := s) (a := a) (by rw [phase]; nofun)
  simp only [haltArm, phase, quiet, List.nil_append]

theorem haltArm_pauses (pauses : (∃ r, (s.motion.get a).phase = .waiting r) ∨ ∃ r, (s.motion.get a).phase = .held r) :
    haltArm a s = ((flush a s).1.setPhase a .idle, (flush a s).2 ++ [.armStopped a .halt]) := by
  rcases pauses with ⟨r, phase⟩ | ⟨r, phase⟩ <;> simp only [haltArm, phase]

end

/-- An arm that stops begins its ramp with a pending outcome (R88). -/
def State.ramps (s : State) (a : Arm) (w : Working) (o : Outcome) : State :=
  (s.modMotion a fun m => { m with active := some { w with status := .stopping o } }).setPhase a .stopping

theorem ramps_answered (s : State) (a : Arm) (w : Working) (o : Outcome) (l : Link) (c : Code) (p : Payload) :
    (answered s l c p).ramps a w o = answered (s.ramps a w o) l c p := rfl

theorem haltArm_ramps {s : State} {a : Arm} {w : Working} (phase : (s.motion.get a).phase = .moving)
    (active : (s.motion.get a).active = some w) (running : w.status = .active) (moves : 0 < w.v) :
    haltArm a s = ((flush a s).1.ramps a w .halted, [.armStopped a .halt]) := by
  have still : ((flush a s).1.motion.get a).active = some w := (flush_motion a s).2.2.1.trans active
  rw [haltArm_moving phase, enterStop_ramp still running moves]
  rfl

theorem State.ramps_shape (s : State) (a : Arm) (w : Working) (o : Outcome) : s.ramps a w o = { s with
    motion := s.motion.set a { s.motion.get a with active := some { w with status := .stopping o }, phase := .stopping }
    axes := s.axes.set a { s.axes.get a with den := true } } := by
  rw [State.ramps, State.setPhase_enabled _ a (p := .stopping) rfl]
  simp only [State.modMotion, PerArm.get_set, PerArm.set_set]

/-- HALT reaches the arm that it names. -/
theorem halt_goes {s t : State} {l : Link} {x : Option (Option Arm)} {a : Arm} (names : Names l x a) (taken : Takes s l (.halt l x))
    (settles : settle (haltArm a (answered s l .ok .none)) = t) : Goes (.halt l x) s t := by
  have checked : linkCheck l (.halt l x) = none := by
    rcases names with ⟨own, rfl⟩ | ⟨rfl, rfl⟩
    · cases l with
      | A => rfl
      | B => rfl
      | S => cases own
    · rfl
  obtain ⟨g, served, answers, -⟩ := serve_through taken checked (namedArm l x (halt l))
  refine congrArg _ (served.trans ((namedArm_names names _ _).trans ?_))
  rw [halt, answers s .ok .none rfl]
  exact settles

/-- What a flush of an arm that does not wait for zones leaves. -/
theorem flush_settled {s : State} {a : Arm} (settled : (s.motion.get a).phase ≠ .waiting .zone) : ∃ m links, flush a s = ({ s with
    motion := s.motion.set a m, links := links }, [])
    ∧ m = { s.motion.get a with queue := [], geometry := m.geometry, results := m.results, resultCount := m.resultCount } := by
  have kept : (flush a s).1.waiters = s.waiters ∧ (flush a s).1.handover = s.handover := by
    cases queue : (s.motion.get a).queue with
    | nil => rw [flush_nil queue]; exact ⟨rfl, rfl⟩
    | cons h rest => rw [flush_cons queue settled]; exact ⟨rfl, rfl⟩
  obtain ⟨m, links, waiters, handover, shape, fields⟩ := flush_shape a s
  rw [shape] at kept
  obtain ⟨rfl, rfl⟩ : waiters = s.waiters ∧ handover = s.handover := kept
  exact ⟨m, links, Prod.ext shape (flush_pieces settled), fields⟩

/-- A flush changes a link in its notices alone. -/
theorem flush_noticed (a : Arm) (s : State) (l : Link) : Noticed (s.links.get l) ((flush a s).1.links.get l) := by
  cases queue : (s.motion.get a).queue with
  | nil =>
    rw [flush_nil queue]
    exact ⟨_, _, rfl⟩
  | cons h rest =>
    have cut : Noticed (s.links.get l) ((s.cutQueue a h rest).links.get l) := State.raise_noticed ⟨_, _, rfl⟩ _ _
    by_cases waits : (s.motion.get a).phase = .waiting .zone
    · rw [flush_waiting queue waits, withdraw]
      cases (s.cutQueue a h rest).entry a with
      | none => exact cut
      | some w =>
        dsimp only
        split
        · exact cut
        · exact cut
    · rw [flush_cons queue waits]
      exact cut

/-- HALT of a moving arm ends its change in WAIT_RACK or OPENING (R90, R162). -/
theorem haltArm_ends {s : State} {a : Arm} {k : Context} {w : Working} (phase : (s.motion.get a).phase = .moving)
    (active : (s.motion.get a).active = some w) (running : w.status = .active) (moves : 0 < w.v) (change : s.change.get a = some k)
    (early : k.step = .waitRack ∨ k.step = .opening) (lonely : Lonely s a k) (tables : Tables s) :
    ∃ t, settle (haltArm a s) = t ∧ Ended s t a k .aborted ∧ .changeEnded ∈ (t.links.get a.link).flags
      ∧ (∀ l, (t.links.get l).response = (s.links.get l).response)
      ∧ (t.motion.get a).phase = .stopping ∧ (t.motion.get a).queue = []
      ∧ (t.motion.get a).active = some { w with status := .stopping .halted } := by
  obtain ⟨m, links, flushed, fields⟩ := flush_settled (s := s) (a := a) (by rw [phase]; nofun)
  have does := haltArm_ramps phase active running moves
  have noticed := flush_noticed a s
  rw [flushed] at does noticed
  have v_is : State.ramps { s with motion := s.motion.set a m, links := links } a w .halted = { s with
      motion := s.motion.set a { m with active := some { w with status := .stopping .halted }, phase := .stopping }
      axes := s.axes.set a { s.axes.get a with den := true }, links := links } := by
    rw [State.ramps_shape]
    simp only [PerArm.get_set, PerArm.set_set]
  rw [v_is] at does
  obtain ⟨v, v_eq⟩ : ∃ v : State, v = { s with
      motion := s.motion.set a { m with active := some { w with status := .stopping .halted }, phase := .stopping }
      axes := s.axes.set a { s.axes.get a with den := true }, links := links } := ⟨_, rfl⟩
  rw [← v_eq] at does
  have v_lonely : Lonely v a k := by
    rw [v_eq]
    refine lonely.imp_right fun ⟨wait, _, entry⟩ => ⟨wait, ?_, entry⟩
    rw [PerArm.get_set]
    nofun
  have v_change : v.change = s.change := by rw [v_eq]
  have v_tables : Tables v := Tables_same tables (by rw [v_eq]) (by rw [v_eq])
  have v_links : ∀ l, Noticed (s.links.get l) (v.links.get l) := by
    rw [v_eq]
    exact noticed
  obtain ⟨t, run, ends⟩ := runs_armStopped_early (v_change ▸ change) early v_lonely .halt
  have motion : t.motion.get a = { m with active := some { w with status := .stopping .halted }, phase := .stopping } := by
    rw [ends.frame.1, v_eq]
    exact PerArm.get_set _ _ _
  refine ⟨t, ?_, Ended_of (ends.ended v_tables) (by rw [v_change]) (by rw [v_eq]) (by rw [v_eq]; rfl) (by rw [v_eq]) (by rw [v_eq])
    rfl rfl rfl fun past => past, ends.told.1, fun l => ?_, by rw [motion], ?_, by rw [motion]⟩
  · rw [does]
    exact run.settle (by decide)
  · obtain ⟨_, _, same⟩ := Noticed_trans (v_links l) (ends.noticed l)
    rw [same]
  · rw [motion, fields]

/-- A stop of an active segment that stands, with an empty queue and while no arm waits (R88). -/
theorem runs_stands {s : State} {a : Arm} {w : Working} {o : Outcome} (active : (s.motion.get a).active = some w)
    (running : w.status = .active) (stands : w.v = 0) (empty : (s.motion.get a).queue = [])
    (unreset : (s.motion.get a).resetPending = false) (unheld : (s.motion.get a).holdPending = false) (unawaited : s.waiters = [])
    (not_missed : o ≠ .missed) (not_failed : o ≠ .homeFailed) (not_contact : o ≠ .contact) :
    ∃ t, Runs 12 (enterStop a o s).2 (enterStop a o s).1 t
      ∧ ExceptZones ((((s.setStanding a w.setpoints).modMotion a fun m => { m with active := none }).addResult a w.seg.tag o).setPhase
          a .idle) t
      ∧ t.change = s.change := by
  rw [enterStop_stands active running stands,
    ← State.stopped_rested (x := { w with status := .stopping o }) unheld not_missed not_failed rfl]
  have motion : ((((s.modMotion a fun m => { m with active := some { w with status := .stopping o } }).setPhase a
      .stopping).setStanding a w.setpoints).motion.get a)
      = { s.motion.get a with phase := .stopping, active := some { w with status := .stopping o } } := by
    simp [State.setStanding, State.setPhase]
  have clear : (((s.modMotion a fun m => { m with active := some { w with status := .stopping o } }).setPhase a
      .stopping).setStanding a w.setpoints).waiters = [] := by
    simp [State.setStanding, State.setPhase, unawaited]
  have change : (((s.modMotion a fun m => { m with active := some { w with status := .stopping o } }).setPhase a
      .stopping).setStanding a w.setpoints).change = s.change := rfl
  generalize (((s.modMotion a fun m => { m with active := some { w with status := .stopping o } }).setPhase a
      .stopping).setStanding a w.setpoints) = v at motion clear change ⊢
  obtain ⟨t, ends, rested, -⟩ := runs_segmentEnd (s := v) (a := a) (w := { w with status := .stopping o }) not_contact
    (by rw [motion]) (by rw [motion]; exact unreset) (by rw [motion]; exact empty) clear
  refine ⟨t, ends, rested, ?_⟩
  obtain ⟨p, links, shape, -⟩ := (v.finish a { w with status := .stopping o } o).rested_shape a o
  rw [rested, shape]
  exact change

theorem setPhase_answered (s : State) (a : Arm) (ph : Phase) (l : Link) (c : Code) (p : Payload) :
    (answered s l c p).setPhase a ph = answered (s.setPhase a ph) l c p := rfl

theorem unwaited_answered (s : State) (l : Link) (c : Code) (p : Payload) :
    unwaited (answered s l c p) = answered (unwaited s) l c p := rfl

/-- A flush with the head's entry leaves no hand-over count that the entry started (R114, R118). -/
theorem flush_counts {s : State} {a : Arm} (alone : Alone s a) (waited : s.waiters ≠ []) :
    ∀ h ∈ (flush a s).1.handover, h.holder ≠ a.other := by
  obtain ⟨waits, filled, zs, own⟩ := alone.resolve_left waited
  obtain ⟨h, rest, queue⟩ := List.exists_cons_of_ne_nil filled
  rw [flush_waiting queue waits, withdraw_own (s := s.cutQueue a h rest) own]
  intro x mem
  simpa using (List.mem_filter.1 mem).2

/-- HALT of an arm that waits or is held (R90). -/
theorem haltArm_frees {s : State} {a : Arm} (pauses : (∃ r, (s.motion.get a).phase = .waiting r) ∨ ∃ r, (s.motion.get a).phase = .held r)
    (alone : Alone s a) (spared : ∀ u : State, u.change = s.change → Runs 1 [.armStopped a .halt] u u) :
    ∃ t, settle (haltArm a s) = t ∧ ExceptZones ((unwaited (flush a s).1).setPhase a .idle) t
      ∧ (s.waiters ≠ [] → ∀ h ∈ t.handover, h.holder ≠ a.other) := by
  obtain ⟨unawaited, pieces⟩ := flush_alone alone
  have counts := flush_counts alone
  have change : (flush a s).1.change = s.change := by
    obtain ⟨_, _, _, _, shape, -⟩ := flush_shape a s
    rw [shape]
  rw [haltArm_pauses pauses, unwaited_of_unawaited unawaited]
  generalize (flush a s).1 = u at *
  obtain ⟨t, run, retains⟩ : ∃ t, Runs 4 (flush a s).2 (u.setPhase a .idle) t
      ∧ Retains a ((u.setPhase a .idle).activeNeeds a) (u.setPhase a .idle) t := by
    rcases pieces with none | owed
    · exact ⟨_, none ▸ (Runs.nil _).mono (by decide), Retains.refl _ _ _⟩
    · rw [owed]
      exact runs_recomputeOwed_retains (s := u.setPhase a .idle) unawaited (by simp [State.setPhase, denOf])
  have same : t.change = s.change := by rw [retains.kept, ← change]; rfl
  exact ⟨t, (run.append (spared t same)).settle (by decide), retains.kept, fun waited h mem => counts waited h (retains.counts h mem)⟩

/-- Settles O39: by the arm's state, what `haltArm` does and what the stop does to the arm's change. -/
theorem haltByState : Obligations.HaltByState := by
  unfold Obligations.HaltByState
  intro l x a s names taken m
  have goes : ∀ {t : State}, settle (haltArm a (answered s l .ok .none)) = t → Goes (.halt l x) s t := halt_goes names taken
  have told : ∀ {t : State}, (∀ j, (t.links.get j).response = ((answered s l .ok .none).links.get j).response) →
      (t.links.get l).response = some ⟨.ok, .none⟩ := fun same => by
    rw [same]
    simp [answered, State.modLink]
  refine ⟨fun k change early lonely tables => ?_, fun unearly => ?_⟩
  · intro ends
    refine ⟨fun rests => ?_, fun w phase active running moves => ?_⟩
    · obtain ⟨t, run, gone⟩ := runs_armStopped_early (s := answered s l .ok .none) change early lonely .halt
      refine ⟨t, goes ?_, ⟨gone.ended (Tables_same tables rfl rfl), gone.told.1, ?_⟩, gone.frame.1, gone.frame.2.1⟩
      · rw [haltArm_rests (s := answered s l .ok .none) rests]
        exact run.settle (by decide)
      · exact Noticed_response (gone.noticed l)
    · obtain ⟨t, settles, ended, raised, same, rest⟩ := haltArm_ends (s := answered s l .ok .none) phase active running moves change early
        lonely (Tables_same tables rfl rfl)
      exact ⟨t, goes settles, ⟨ended, raised, told same⟩, rest⟩
  · have spared : ∀ u : State, u.change = s.change → Runs 1 [.armStopped a .halt] u u := fun u same =>
      Runs.piece (e := (u, [])) (armStopped_spared (by rw [State.Unearly, same]; exact unearly) (.inl rfl)) (Runs.nil u)
    have flushed : (flush a s).1.change = s.change := by
      obtain ⟨_, _, _, _, shape, -⟩ := flush_shape a s
      rw [shape]
    refine ⟨fun rests => goes ?_, fun w phase active running moves => goes ?_,
      fun w phase active running stands unreset unheld unawaited => ?_, fun phase => goes ?_, fun pauses alone => ?_⟩
    · rw [haltArm_rests (s := answered s l .ok .none) rests]
      exact (spared (answered s l .ok .none) rfl).settle (by decide)
    · rw [haltArm_ramps (s := answered s l .ok .none) phase active running moves, flush_answered, ramps_answered]
      have still : ∀ u : State, (answered (u.ramps a w .halted) l .ok .none).change = u.change := fun _ => rfl
      exact (spared (answered ((flush a s).1.ramps a w .halted) l .ok .none) ((still _).trans flushed)).settle (by decide)
    · have moving : ((answered s l .ok .none).motion.get a).phase = .moving := phase
      obtain ⟨empty, -, still, reset, held⟩ := flush_motion a (answered s l .ok .none)
      obtain ⟨m', links, settled, -⟩ := flush_settled (s := answered s l .ok .none) (a := a) (by rw [moving]; nofun)
      have clear : (flush a (answered s l .ok .none)).1.waiters = [] := by
        rw [settled]
        exact unawaited
      have change : (flush a (answered s l .ok .none)).1.change = s.change := by
        rw [settled]
        rfl
      have does := haltArm_moving moving
      generalize (flush a (answered s l .ok .none)).1 = u at *
      obtain ⟨t, run, kept, same⟩ := runs_stands (still.trans active) running stands empty (reset.trans unreset) (held.trans unheld) clear
        (o := .halted) nofun nofun nofun
      exact ⟨t, goes ((congrArg settle does).trans ((run.append (spared t (same.trans change))).settle (by decide))), kept⟩
    · rw [haltArm_stopping (s := answered s l .ok .none) phase, flush_answered]
      have still : ∀ u : State, (answered u l .ok .none).change = u.change := fun _ => rfl
      exact (spared (answered (flush a s).1 l .ok .none) ((still _).trans flushed)).settle (by decide)
    · obtain ⟨t, settles, kept, counts⟩ := haltArm_frees (s := answered s l .ok .none) pauses alone spared
      have flat : (unwaited (flush a (answered s l .ok .none)).1).setPhase a .idle
          = answered ((unwaited (flush a s).1).setPhase a .idle) l .ok .none := by
        rw [flush_answered, unwaited_answered, setPhase_answered]
      exact ⟨t, goes settles, flat ▸ kept, counts⟩

end Sys2Proof.Machine
end
section
/-! PROOFS. The trigger edges (O55): the class of an edge, what it captures, and how it stops the arm. -/
namespace Sys2Proof.Machine
open Sys2Proof.Safety

/-! ### The class of an edge -/

section
variable {s : State} {a : Arm}

theorem arming_unpowered (unpowered : denOf (s.motion.get a).phase ≠ true) : s.arming a = .ignored := by
  rw [arming_eq, if_pos unpowered]

theorem arming_masked (powered : denOf (s.motion.get a).phase = true) (masked : Masked s a) : s.arming a = .masked := by
  rw [arming_eq, if_neg (Classical.not_not.2 powered), if_pos masked]

theorem arming_settled (powered : denOf (s.motion.get a).phase = true) (clear : ¬ Masked s a) (settled : Settled s a) :
    s.arming a = .ignored := by
  rw [arming_eq, if_neg (Classical.not_not.2 powered), if_neg clear, if_pos settled]

theorem arming_touch (powered : denOf (s.motion.get a).phase = true) (clear : ¬ Masked s a) (unsettled : ¬ Settled s a)
    (probing : Probing s a) : s.arming a = .touch := by
  rw [arming_eq, if_neg (Classical.not_not.2 powered), if_neg clear, if_neg unsettled, if_pos probing]

theorem arming_contact (powered : denOf (s.motion.get a).phase = true) (clear : ¬ Masked s a) (unsettled : ¬ Settled s a)
    (other : ¬ Probing s a) : s.arming a = .contact := by
  rw [arming_eq, if_neg (Classical.not_not.2 powered), if_neg clear, if_neg unsettled, if_neg other]

/-- An edge that is IGNORED or MASKED (R168). -/
theorem arming_spared (spared : denOf (s.motion.get a).phase ≠ true ∨ Masked s a ∨ Settled s a) :
    s.arming a = .ignored ∨ s.arming a = .masked := by
  by_cases powered : denOf (s.motion.get a).phase = true
  · by_cases masked : Masked s a
    · exact .inr (arming_masked powered masked)
    · exact .inl (arming_settled powered masked ((spared.resolve_left (Classical.not_not.2 powered)).resolve_left masked))
  · exact .inl (arming_unpowered powered)

/-- The class of an edge at an arm that is neither masked nor in COLLISION and has no active segment. -/
theorem arming_rests (powered : denOf (s.motion.get a).phase = true) (clear : ¬ Masked s a)
    (free : (s.motion.get a).phase ≠ .collision) (rests : (s.motion.get a).active = none) : s.arming a = .contact := by
  refine arming_contact powered clear ?_ ?_
  · rintro (collision | ⟨w, o, active, -⟩)
    · exact free collision
    · rw [rests] at active; cases active
  · rintro ⟨w, active, -⟩
    rw [rests] at active; cases active

theorem unsettled_of_running {w : Working} (free : (s.motion.get a).phase ≠ .collision) (active : (s.motion.get a).active = some w)
    (running : w.status = .active) : ¬ Settled s a := by
  rintro (collision | ⟨x, o, other, ramp, -⟩)
  · exact free collision
  · obtain rfl : w = x := Option.some.inj (active.symm.trans other)
    rw [running] at ramp; cases ramp

end

/-! ### An edge -/

/-- The trigger level recorded. -/
def State.triggered (s : State) (a : Arm) (v : Bool) : State := s.modCapture a fun k => { k with trig := v }

section
variable {s : State} {a : Arm}

theorem triggerEdge_high (high : (s.capture.get a).trig = true) : triggerEdge a s = s := if_pos high

theorem triggerEdge_spared (low : (s.capture.get a).trig = false) (spared : s.arming a = .ignored ∨ s.arming a = .masked) :
    triggerEdge a s = s.triggered a true := by
  rcases spared with class_ | class_ <;> simp only [triggerEdge, low, Bool.false_eq_true, if_false, class_] <;> rfl

/-- The capture unit after an edge of a class, with the next sequence number (R171, R177, R182). -/
def State.latched (s : State) (a : Arm) (x : PointKind) : State := s.modCapture a fun k =>
  { trig := true, latch := some (s.takeLatch a x), seq := (k.seq + 1) % 65536
    points := if k.points.length < 32 then k.points ++ [(s.takeLatch a x).point a (((s.capture.get a).seq + 1) % 65536)] else k.points
    notQueued := k.notQueued || decide (32 ≤ k.points.length) }

theorem capturePoint_eq (x : PointKind) (room : x = .touch → (s.capture.get a).points.length < 32) :
    ((s.triggered a true).capturePoint a x).1 = s.latched a x := by
  have once : ((s.triggered a true).capturePoint a x).1 = s.modCapture a fun k =>
      Capture.take { k with trig := true } (s.takeLatch a x) ((s.takeLatch a x).point a (((s.capture.get a).seq + 1) % 65536)) := by
    have seq : (s.triggered a true).nextSeq a = ((s.capture.get a).seq + 1) % 65536 := by
      simp [State.nextSeq, State.triggered]
    have latch : (s.triggered a true).takeLatch a x = s.takeLatch a x := rfl
    simp only [State.capturePoint, latch, seq]
    simp only [State.triggered, State.modCapture, PerArm.get_set, PerArm.set_set]
  rw [once, State.latched]
  refine congrArg (fun k => ({ s with capture := s.capture.set a k } : State)) ?_
  by_cases fits : (s.capture.get a).points.length < 32
  · simp [Capture.take, fits, Latch.point, Nat.not_le.2 fits]
  · have contact : x = .contact := by
      cases x with
      | touch => exact absurd (room rfl) fits
      | contact => rfl
    subst contact
    simp [Capture.take, fits, Latch.point, Nat.not_lt.1 fits, State.takeLatch]

theorem triggerEdge_touch (low : (s.capture.get a).trig = false) (class_ : s.arming a = .touch)
    (room : (s.capture.get a).points.length < 32) :
    triggerEdge a s = (settle (enterStop a .touched (s.latched a .touch))).raise a.link .touch := by
  simp only [triggerEdge, low, Bool.false_eq_true, if_false, class_, touchEdge, touchStop]
  rw [← capturePoint_eq (s := s) (a := a) .touch fun _ => room]
  rfl

/-- The state after a contact's record and report (R182). -/
def State.contacted (s : State) (a : Arm) : State := (s.latched a .contact).report
  { kind := .contact, arm := some a, tag := (s.motion.get a).active.map (·.seg.tag)
    coords := some ((s.takeLatch a .contact).point a (((s.capture.get a).seq + 1) % 65536)).q, epoch := s.snapshot.epoch }

theorem triggerEdge_contact (low : (s.capture.get a).trig = false) (class_ : s.arming a = .contact) :
    triggerEdge a s = (settle (contactStop a (s.contacted a))).raise a.link .contact := by
  have point : ((s.triggered a true).capturePoint a .contact).2
      = (s.takeLatch a .contact).point a (((s.capture.get a).seq + 1) % 65536) := by
    have seq : (s.triggered a true).nextSeq a = ((s.capture.get a).seq + 1) % 65536 := by
      simp [State.nextSeq, State.triggered]
    have latch : (s.triggered a true).takeLatch a .contact = s.takeLatch a .contact := rfl
    simp only [State.capturePoint, latch, seq]
  have tag : ((s.takeLatch a .contact).point a (((s.capture.get a).seq + 1) % 65536)).tag = (s.motion.get a).active.map (·.seg.tag) := by
    simp only [Latch.point, State.takeLatch, Option.map_map]
    rfl
  have edge : triggerEdge a s = contactEdge a (s.triggered a true) := by
    simp only [triggerEdge, low, Bool.false_eq_true, if_false, class_]
    rfl
  rw [edge, contactEdge]
  rw [point, tag, capturePoint_eq (s := s) (a := a) .contact nofun]
  rfl

end

/-! ### A contact stops the arm -/

/-- A flush withdraws no entry: the queue is empty, or the arm does not wait for zones, or no arm waits (R114). -/
def State.Lasting (s : State) (a : Arm) : Prop :=
  (s.motion.get a).queue = [] ∨ (s.motion.get a).phase ≠ .waiting .zone ∨ s.waiters = []

theorem flush_lasting {s : State} {a : Arm} (lasting : s.Lasting a) : ∃ m links, flush a s = ({ s with
    motion := s.motion.set a m, links := links }, [])
    ∧ m = { s.motion.get a with queue := [], geometry := m.geometry, results := m.results, resultCount := m.resultCount } := by
  by_cases settled : (s.motion.get a).phase ≠ .waiting .zone
  · exact flush_settled settled
  · cases queue : (s.motion.get a).queue with
    | nil =>
      rw [flush_nil queue]
      exact ⟨s.motion.get a, s.links, by rw [PerArm.set_get], by rw [← queue]⟩
    | cons h rest =>
      have unawaited : s.waiters = [] := (lasting.resolve_left (by rw [queue]; nofun)).resolve_left settled
      have pieces : flush a s = ((flush a s).1, []) := by
        rw [flush_waiting queue (Classical.not_not.1 settled), withdraw_unawaited (s := s.cutQueue a h rest) unawaited]
      have kept : (flush a s).1.waiters = s.waiters ∧ (flush a s).1.handover = s.handover := by
        rw [flush_waiting queue (Classical.not_not.1 settled), withdraw_unawaited (s := s.cutQueue a h rest) unawaited]
        exact ⟨rfl, rfl⟩
      obtain ⟨m, links, waiters, handover, shape, fields⟩ := flush_shape a s
      rw [shape] at kept
      obtain ⟨rfl, rfl⟩ : waiters = s.waiters ∧ handover = s.handover := kept
      exact ⟨m, links, pieces.trans (Prod.ext shape rfl), fields⟩

theorem contactStop_rests {s : State} {a : Arm} (rests : (s.motion.get a).active = none) :
    contactStop a s = ((flush a s).1.setPhase a .collision, (flush a s).2 ++ [.armStopped a .collision]) := by
  have none_active : (flush a s).1.hasActive a = false := by
    rw [State.hasActive, (flush_motion a s).2.2.1, rests]
    rfl
  simp only [contactStop, none_active, Bool.false_eq_true, if_false]

theorem contactStop_active {s : State} {a : Arm} {w : Working} (active : (s.motion.get a).active = some w) (lasting : s.Lasting a) :
    contactStop a s = enterStop a .contact (flush a s).1 := by
  have some_active : (flush a s).1.hasActive a = true := by
    rw [State.hasActive, (flush_motion a s).2.2.1, active]
    rfl
  have quiet : (flush a s).2 = [] := by
    obtain ⟨_, _, flushed, -⟩ := flush_lasting lasting
    rw [flushed]
  simp only [contactStop, some_active, if_true, quiet, List.nil_append]

/-- The state of an arm that comes to COLLISION at the end of its ramp (R91, R96). -/
def State.crashes (s : State) (a : Arm) : State :=
  (flush a (s.modMotion a fun m => { m with holdPending := false })).1.setPhase a .collision

theorem State.crashes_shape {s : State} {a : Arm} (lasting : s.Lasting a) : ∃ m links, s.crashes a = { s with
      motion := s.motion.set a m, axes := s.axes.set a { s.axes.get a with den := true }, links := links }
    ∧ m = { s.motion.get a with
      queue := [], holdPending := false, phase := .collision, geometry := m.geometry, results := m.results, resultCount := m.resultCount } := by
  have lasting' : (s.modMotion a fun m => { m with holdPending := false }).Lasting a := by
    simpa [State.Lasting] using lasting
  obtain ⟨m, links, flushed, fields⟩ := flush_lasting lasting'
  rw [State.crashes, flushed, State.setPhase_enabled _ a (p := .collision) rfl]
  refine ⟨{ m with phase := .collision }, links, ?_, ?_⟩
  · simp only [State.modMotion, PerArm.get_set, PerArm.set_set]
  · rw [fields]
    simp

theorem runs_afterEnd_contact {s : State} {a : Arm} (lasting : s.Lasting a) :
    ∀ {w : Nat} {t : State}, Runs w [.armStopped a .collision] (s.crashes a) t → Runs (w + 1) [.afterEnd a .contact] s t := by
  intro w t run
  have lasting' : (s.modMotion a fun m => { m with holdPending := false }).Lasting a := by
    simpa [State.Lasting] using lasting
  obtain ⟨m, links, flushed, -⟩ := flush_lasting lasting'
  have quiet : (flush a (s.modMotion a fun m => { m with holdPending := false })).2 = [] := by rw [flushed]
  refine Runs.piece (x := .afterEnd a .contact) (e := (s.crashes a, [.armStopped a .collision])) ?_ run
  simp only [perform, afterEnd, if_true, quiet, List.nil_append]
  rfl

/-- A state that differs in its zones alone flushes alike. -/
theorem ExceptZones_crashes {s t : State} {a : Arm} (kept : ExceptZones s t) (unawaited : s.waiters = []) :
    ExceptZones (s.crashes a) (t.crashes a) := by
  obtain ⟨_, _, _, _, _, rfl⟩ := ExceptZones_update kept
  have quiet : ∀ u : State, u.waiters = [] → ∀ h rest, (u.motion.get a).queue = h :: rest → (flush a u).1 = u.cutQueue a h rest := by
    intro u clear h rest queue
    by_cases waits : (u.motion.get a).phase = .waiting .zone
    · rw [flush_waiting queue waits, withdraw_unawaited (s := u.cutQueue a h rest) clear]
    · rw [flush_cons queue waits]
      rfl
  cases queue : ((s.modMotion a fun m => { m with holdPending := false }).motion.get a).queue with
  | nil =>
    rw [State.crashes, State.crashes, flush_nil queue, flush_nil (by exact queue)]
    rfl
  | cons h rest =>
    rw [State.crashes, State.crashes, quiet _ (by exact unawaited) h rest queue, quiet _ (by exact unawaited) h rest (by exact queue)]
    rfl

/-- An arm comes to COLLISION, and the zones of its ended segment are settled. -/
theorem runs_crash {s u : State} {a : Arm} (kept : ExceptZones s u) (ended : (s.motion.get a).active = none) (unawaited : s.waiters = [])
    (unearly : s.Unearly a) : ∃ t, Runs 6 [.afterEnd a .contact, .settleZones a] u t ∧ ExceptZones (s.crashes a) t
      ∧ (∀ z, t.holders.get z ≠ some (a, .segment))
      ∧ ∀ r, Lingered a r u → u.settings = r.settings → u.unreferenced a.other = r.unreferenced a.other → Loosened a r t := by
  have motion : u.motion = s.motion := by rw [kept]
  have waiters : u.waiters = [] := (ExceptZones_waiters kept).trans unawaited
  have change : u.change = s.change := by rw [kept]
  obtain ⟨m, links, shape, fields⟩ := State.crashes_shape (s := u) (a := a) (.inr (.inr waiters))
  have crashed := ExceptZones_crashes (a := a) kept unawaited
  have spared : Runs 1 [.armStopped a .collision] (u.crashes a) (u.crashes a) := by
    refine Runs.piece (e := (u.crashes a, [])) (armStopped_spared ?_ (.inr rfl)) (Runs.nil _)
    rw [State.Unearly, shape]
    show ∀ k, u.change.get a = some k → _
    rw [change]
    exact unearly
  have after := runs_afterEnd_contact (s := u) (a := a) (.inr (.inr waiters)) spared
  have at_rest : ((u.crashes a).motion.get a).active = none ∧ ((u.crashes a).motion.get a).phase = .collision := by
    rw [shape, PerArm.get_set, fields]
    exact ⟨by rw [motion]; exact ended, rfl⟩
  obtain ⟨t, run, settled, no_segment, loosens⟩ := runs_settle at_rest.1 (by rw [at_rest.2]; nofun) (by rw [at_rest.2]; rfl)
    (by rw [shape]; exact waiters)
  refine ⟨t, after.append run, ExceptZones_trans crashed settled, no_segment, fun r lingered settings unref => ?_⟩
  refine loosens r u lingered (by rw [shape]) (by rw [shape]) (by rw [shape]) (by rw [shape]; exact settings) ?_
  rw [shape, State.unreferenced_enabled]
  exact unref

/-- The end of a contact ramp, while no arm waits and no change of the arm ends with it (R96). -/
theorem runs_segmentEnd_contact {s : State} {a : Arm} {w : Working} (active : (s.motion.get a).active = some w)
    (unreset : (s.motion.get a).resetPending = false) (unawaited : s.waiters = []) (unearly : s.Unearly a) :
    ∃ t, Runs 12 [.segmentEnd a .contact] s t ∧ ExceptZones ((s.finish a w .contact).crashes a) t
      ∧ (∀ z, t.holders.get z ≠ some (a, .segment))
      ∧ (s.startup ≠ .loading → denOf (s.motion.get a).phase = true → Rests (s.finish a w .contact) t a) := by
  have acts : perform (.segmentEnd a .contact) s
      = (s.finish a w .contact, [.recomputeEnd a w.needed, .afterEnd a .contact, .settleZones a]) := by
    simp only [perform, segmentEnd, active, unreset, Bool.false_eq_true, if_false, State.finish]
  have finished : ((s.finish a w .contact).motion.get a).active = none
      ∧ ((s.finish a w .contact).motion.get a).phase = (s.motion.get a).phase := by
    simp [State.finish, State.addResult]
  obtain ⟨ended, phase⟩ := finished
  have clear : (s.finish a w .contact).waiters = [] := unawaited
  have spared : (s.finish a w .contact).Unearly a := unearly
  by_cases known : s.startup ≠ .loading ∧ denOf (s.motion.get a).phase = true
  · have reformed := recomputeCore_reformed a w.needed (s.finish a w .contact)
    obtain ⟨u, run, kept, lingered⟩ := runs_recompute_enabled (s := s.finish a w .contact) (a := a) (x := .recomputeEnd a w.needed) rfl
      known.1 clear (by rw [phase]; exact known.2)
    obtain ⟨t, next, rested, no_segment, loosens⟩ := runs_crash kept ended clear spared
    refine ⟨t, (Runs.piece (x := .segmentEnd a .contact) acts (Runs.append (v := 4) (w := 6) run next)).mono (by decide), rested,
      no_segment, fun _ _ => rests_of_loosened reformed (by rw [phase]; exact known.2) (loosens _ lingered ?_ ?_)⟩
    · rw [lingered.kept]
    · rw [lingered.kept]; rfl
  · obtain ⟨u, run, kept⟩ := Runs.of_contained (recomputeEnd_contained a w.needed) clear
    obtain ⟨t, next, rested, no_segment, -⟩ := runs_crash kept ended clear spared
    exact ⟨t, (Runs.piece (x := .segmentEnd a .contact) acts (Runs.append (v := 4) (w := 6) run next)).mono (by decide), rested, no_segment,
      fun loaded enabled => absurd ⟨loaded, enabled⟩ known⟩

/-! ### A stop at v = 0 -/

/-- An arm whose segment has ended at once by a contact, with an empty queue. -/
theorem State.stopped_crashed {s : State} {a : Arm} {w x : Working} {o : Outcome} (unheld : (s.motion.get a).holdPending = false)
    (empty : (s.motion.get a).queue = []) (same : x.seg = w.seg) (sp : Vec3) :
    ((((s.modMotion a fun m => { m with active := some x }).setPhase a .stopping).setStanding a sp).finish a x o).crashes a
      = (((s.setStanding a sp).modMotion a fun m => { m with active := none }).addResult a w.seg.tag o).setPhase a .collision := by
  have no_queue : ((((((s.modMotion a fun m => { m with active := some x }).setPhase a .stopping).setStanding a sp).finish a x
      o).modMotion a fun m => { m with holdPending := false }).motion.get a).queue = [] := by
    simp [State.finish, State.addResult, State.setPhase, State.setStanding, empty]
  rw [State.crashes, flush_nil no_queue]
  simp only [State.finish, State.addResult, State.setPhase, denOf, AxisUnit.drive_true, State.setStanding, same]
  simp only [State.modMotion, State.modAxes, State.raise, State.modLink, PerArm.get_set, PerArm.set_set, unheld]

/-- A contact stops an active segment that stands, while no arm waits (R88, R91). -/
theorem runs_stands_contact {s : State} {a : Arm} {w : Working} (active : (s.motion.get a).active = some w)
    (running : w.status = .active) (stands : w.v = 0) (empty : (s.motion.get a).queue = [])
    (unreset : (s.motion.get a).resetPending = false) (unheld : (s.motion.get a).holdPending = false) (unawaited : s.waiters = [])
    (unearly : s.Unearly a) : ∃ t, Runs 12 (enterStop a .contact s).2 (enterStop a .contact s).1 t
      ∧ ExceptZones ((((s.setStanding a w.setpoints).modMotion a fun m => { m with active := none }).addResult a w.seg.tag
          .contact).setPhase a .collision) t := by
  rw [enterStop_stands active running stands, ← State.stopped_crashed (x := { w with status := .stopping .contact }) unheld empty rfl]
  have motion : ((((s.modMotion a fun m => { m with active := some { w with status := .stopping .contact } }).setPhase a
      .stopping).setStanding a w.setpoints).motion.get a)
      = { s.motion.get a with phase := .stopping, active := some { w with status := .stopping .contact } } := by
    simp [State.setStanding, State.setPhase]
  have clear : (((s.modMotion a fun m => { m with active := some { w with status := .stopping .contact } }).setPhase a
      .stopping).setStanding a w.setpoints).waiters = [] := by
    simp [State.setStanding, State.setPhase, unawaited]
  have spared : (((s.modMotion a fun m => { m with active := some { w with status := .stopping .contact } }).setPhase a
      .stopping).setStanding a w.setpoints).Unearly a := unearly
  generalize (((s.modMotion a fun m => { m with active := some { w with status := .stopping .contact } }).setPhase a
      .stopping).setStanding a w.setpoints) = v at motion clear spared ⊢
  obtain ⟨t, ends, crashed, -⟩ := runs_segmentEnd_contact (s := v) (a := a) (w := { w with status := .stopping .contact })
    (by rw [motion]) (by rw [motion]; exact unreset) clear spared
  exact ⟨t, ends, crashed⟩

theorem ExceptZones_raise {s t : State} (kept : ExceptZones s t) (l : Link) (k : Notice) : ExceptZones (s.raise l k) (t.raise l k) := by
  obtain ⟨_, _, _, _, _, rfl⟩ := ExceptZones_update kept
  rfl

/-! ### What a contact's record and report leave -/

theorem State.contacted_shape (s : State) (a : Arm) : ∃ trap count links, s.contacted a = { s with
    trap := trap, faultCount := count, links := links, capture := (s.latched a .contact).capture } := by
  have shape := (s.latched a .contact).report_shape
    { kind := .contact, arm := some a, tag := (s.motion.get a).active.map (·.seg.tag)
      coords := some ((s.takeLatch a .contact).point a (((s.capture.get a).seq + 1) % 65536)).q, epoch := s.snapshot.epoch }
  exact ⟨_, _, _, shape⟩

/-- What a latch holds (R170). -/
theorem State.takeLatch_spec (s : State) (a : Arm) (x : PointKind) : (s.takeLatch a x).kind = x
    ∧ (∀ i, (s.takeLatch a x).counts.get i = ((s.axes.get a).axis.get i).count)
    ∧ (s.takeLatch a x).v = (((s.motion.get a).active.map (·.v)).getD 0)
    ∧ (s.takeLatch a x).path = (s.motion.get a).active.map (fun w => ⟨w.seg.tag, w.d, w.len⟩)
    ∧ (s.takeLatch a x).snapshot = s.snapshot ∧ (s.takeLatch a x).cal = (s.cal.get a).axis
    ∧ (s.takeLatch a x).calFault = s.loadFaults.calibration ∧ (s.takeLatch a x).mount = s.mount a
    ∧ (s.takeLatch a x).n = (s.timers.get a).n ∧ (s.takeLatch a x).d = (s.timers.get a).d
    ∧ (∀ n p, s.mount a = .record n → s.probes.get n = some p →
        (s.takeLatch a x).probe = some ⟨p.tau, p.qual.get a, s.qualStatus a p⟩)
    ∧ ((∀ n, s.mount a ≠ .record n) → (s.takeLatch a x).probe = none) := by
  refine ⟨rfl, fun i => by cases i <;> rfl, ?_, rfl, rfl, rfl, rfl, rfl, rfl, rfl, fun n p mount slot => ?_, fun apart => ?_⟩
  · cases active : (s.motion.get a).active <;> simp [State.takeLatch, active]
  · simp only [State.takeLatch, State.latchProbe, mount, slot, Option.map_some]
  · simp only [State.takeLatch, State.latchProbe]

/-! ### A contact by what the arm does -/

section
variable {s : State} {a : Arm}

theorem contact_rests (rests : (s.motion.get a).active = none) (lasting : s.Lasting a) (unearly : s.Unearly a) :
    settle (contactStop a s) = (flush a s).1.setPhase a .collision := by
  obtain ⟨m, links, flushed, -⟩ := flush_lasting lasting
  rw [contactStop_rests rests, flushed]
  refine (Runs.piece (armStopped_spared ?_ (.inr rfl)) (Runs.nil _)).settle (by decide)
  exact unearly

/-- A contact of an arm whose head waits for zones (R182). -/
theorem contact_waits (rests : (s.motion.get a).active = none) (alone : Alone s a) (unearly : s.Unearly a) :
    ∃ t, settle (contactStop a s) = t ∧ ExceptZones ((unwaited (flush a s).1).setPhase a .collision) t
      ∧ (s.waiters ≠ [] → ∀ x ∈ t.handover, x.holder ≠ a.other) := by
  obtain ⟨unawaited, pieces⟩ := flush_alone alone
  have counts := flush_counts alone
  have change : (flush a s).1.change = s.change := by
    obtain ⟨_, _, _, _, shape, -⟩ := flush_shape a s
    rw [shape]
  rw [contactStop_rests rests, unwaited_of_unawaited unawaited]
  generalize (flush a s).1 = u at *
  obtain ⟨t, run, retains⟩ : ∃ t, Runs 4 (flush a s).2 (u.setPhase a .collision) t
      ∧ Retains a ((u.setPhase a .collision).activeNeeds a) (u.setPhase a .collision) t := by
    rcases pieces with none | owed
    · exact ⟨_, none ▸ (Runs.nil _).mono (by decide), Retains.refl _ _ _⟩
    · rw [owed]
      exact runs_recomputeOwed_retains (s := u.setPhase a .collision) unawaited (by simp [State.setPhase, denOf])
  have same : t.change = s.change := by rw [retains.kept, ← change]; rfl
  have spared : t.Unearly a := by
    rw [State.Unearly, same]
    exact unearly
  exact ⟨t, (run.append (Runs.piece (armStopped_spared spared (.inr rfl)) (Runs.nil t))).settle (by decide), retains.kept,
    fun waited h mem => counts waited h (retains.counts h mem)⟩

theorem contact_moves {w : Working} (active : (s.motion.get a).active = some w) (running : w.status = .active) (moves : 0 < w.v)
    (lasting : s.Lasting a) : settle (contactStop a s) = ((flush a s).1.modMotion a fun m =>
      { m with active := some { w with status := .stopping .contact } }).setPhase a .stopping := by
  rw [contactStop_active active lasting, enterStop_ramp ((flush_motion a s).2.2.1.trans active) running moves, settle_nil]

theorem contact_ramps {w : Working} {o : Outcome} (active : (s.motion.get a).active = some w) (ramp : w.status = .stopping o)
    (lasting : s.Lasting a) : settle (contactStop a s) = (flush a s).1.modMotion a fun m =>
      { m with active := some { w with status := .stopping .contact } } := by
  have still := (flush_motion a s).2.2.1.trans active
  rw [contactStop_active active lasting]
  simp only [enterStop, still, ramp, if_true, settle_nil]

theorem contact_stands {w : Working} (active : (s.motion.get a).active = some w) (running : w.status = .active) (stands : w.v = 0)
    (unreset : (s.motion.get a).resetPending = false) (unheld : (s.motion.get a).holdPending = false) (unawaited : s.waiters = [])
    (unearly : s.Unearly a) : ∃ t, settle (contactStop a s) = t
      ∧ ExceptZones (((((flush a s).1.setStanding a w.setpoints).modMotion a fun m => { m with active := none }).addResult a w.seg.tag
          .contact).setPhase a .collision) t := by
  obtain ⟨empty, -, still, reset, held⟩ := flush_motion a s
  obtain ⟨m, links, flushed, -⟩ := flush_lasting (s := s) (a := a) (.inr (.inr unawaited))
  have clear : (flush a s).1.waiters = [] := by rw [flushed]; exact unawaited
  have spared : (flush a s).1.Unearly a := by rw [flushed]; exact unearly
  rw [contactStop_active active (.inr (.inr unawaited))]
  generalize (flush a s).1 = u at *
  obtain ⟨t, run, kept⟩ := runs_stands_contact (still.trans active) running stands empty (reset.trans unreset) (held.trans unheld) clear
    spared
  exact ⟨t, run.settle (by decide), kept⟩

/-- A contact of an arm without an active segment ends its change in WAIT_RACK or OPENING (R162). -/
theorem contact_ends {c : Context} (rests : (s.motion.get a).active = none) (lasting : s.Lasting a) (change : s.change.get a = some c)
    (early : c.step = .waitRack ∨ c.step = .opening) (lonely : Lonely s a c) (tables : Tables s) :
    ∃ t, settle (contactStop a s) = t ∧ Ended s t a c (.failed .arm) ∧ (t.motion.get a).phase = .collision
      ∧ (t.motion.get a).queue = [] ∧ t.capture = s.capture ∧ t.trap = s.trap ∧ t.faultCount = s.faultCount
      ∧ .changeEnded ∈ (t.links.get a.link).flags := by
  obtain ⟨m, links, flushed, fields⟩ := flush_lasting lasting
  have phase : State.setPhase { s with motion := s.motion.set a m, links := links } a .collision = { s with
      motion := s.motion.set a { m with phase := .collision }, axes := s.axes.set a { s.axes.get a with den := true }
      links := links } := by
    rw [State.setPhase_enabled _ a (p := .collision) rfl]
    simp only [PerArm.get_set, PerArm.set_set]
  rw [contactStop_rests rests, flushed, phase]
  obtain ⟨v, v_eq⟩ : ∃ v : State, v = { s with
      motion := s.motion.set a { m with phase := .collision }, axes := s.axes.set a { s.axes.get a with den := true }
      links := links } := ⟨_, rfl⟩
  rw [← v_eq]
  have v_lonely : Lonely v a c := by
    rw [v_eq]
    refine lonely.imp_right fun ⟨wait, _, entry⟩ => ⟨wait, ?_, entry⟩
    rw [PerArm.get_set]
    nofun
  have v_change : v.change = s.change := by rw [v_eq]
  have v_tables : Tables v := Tables_same tables (by rw [v_eq]) (by rw [v_eq])
  obtain ⟨t, run, ends⟩ := runs_armStopped_early (v_change ▸ change) early v_lonely .collision
  obtain ⟨motion, -, capture, trap, count, -⟩ := ends.frame
  have at_rest : t.motion.get a = { m with phase := .collision } := by
    rw [motion, v_eq]
    exact PerArm.get_set _ _ _
  refine ⟨t, run.settle (by decide), Ended_of (ends.ended v_tables) (by rw [v_change]) (by rw [v_eq]) (by rw [v_eq]; rfl) (by rw [v_eq])
    (by rw [v_eq]) rfl rfl rfl fun past => past, by rw [at_rest], by rw [at_rest, fields], capture.trans (by rw [v_eq]),
    trap.trans (by rw [v_eq]), count.trans (by rw [v_eq]), ends.told.1⟩

end

/-- Settles O55: the class of the edge by `arming_eq`, then what a touch and a contact do to the arm. -/
theorem triggerEdges : Obligations.TriggerEdges := by
  unfold Obligations.TriggerEdges
  intro a s m k quiet powered open_ kindIs point latched reported flushed plain ended
  have goes : ∀ {t : State}, triggerEdge a s = t → Goes (.triggerEdge a) s t := fun same => congrArg Host.Outcome.next same
  have power : denOf m.phase = true ↔ powered := denOf_iff _
  have spared : k.trig = false → denOf m.phase ≠ true ∨ Masked s a ∨ Settled s a → quiet := fun low why =>
    goes (triggerEdge_spared low (arming_spared why))
  have clear : ¬ open_ → (∀ w, m.active = some w → w.seg.move.kind ≠ .rack) → ¬ Masked s a := by
    rintro closed unracked (opened | ⟨w, active, kind⟩)
    · exact closed opened
    · exact unracked w active kind
  have clear_none : ¬ open_ → m.active = none → ¬ Masked s a := fun closed rests => clear closed fun w active => by
    rw [rests] at active
    cases active
  have clear_one : ∀ w, ¬ open_ → m.active = some w → w.seg.move.kind ≠ .rack → ¬ Masked s a := fun w closed active unracked =>
    clear closed fun x other => Option.some.inj (active.symm.trans other) ▸ unracked
  have aims : ∀ w, powered → ¬ open_ → m.phase ≠ .collision → m.active = some w → w.status = .active →
      w.seg.move.kind = .position ∨ w.seg.move.kind = .home → s.arming a = .contact := by
    intro w on closed free active running kind
    refine arming_contact (power.2 on) (clear_one w closed active ?_) (unsettled_of_running free active running) ?_
    · rcases kind with is | is <;> rw [is] <;> nofun
    · rintro ⟨x, other, probe, -⟩
      obtain rfl : w = x := Option.some.inj (active.symm.trans other)
      rcases kind with is | is <;> rw [is] at probe <;> cases probe
  have contact : ∀ {t : State}, k.trig = false → s.arming a = .contact → settle (contactStop a (s.contacted a)) = t →
      Goes (.triggerEdge a) s (t.raise a.link .contact) := fun low class_ settles =>
    goes ((triggerEdge_contact low class_).trans (congrArg (fun u : State => u.raise a.link .contact) settles))
  have flushed_eq : flushed = (flush a (s.contacted a)).1 := rfl
  have captured : (s.contacted a).capture = (latched .contact).capture ∧ (s.contacted a).trap = reported.trap
      ∧ (s.contacted a).faultCount = reported.faultCount := ⟨State.report_capture _ _, rfl, rfl⟩
  have latched_touch : latched .touch = s.latched a .touch := rfl
  obtain ⟨motion, waiters, change, probes, pockets, kept⟩ : (s.contacted a).motion = s.motion ∧ (s.contacted a).waiters = s.waiters
      ∧ (s.contacted a).change = s.change ∧ (s.contacted a).probes = s.probes ∧ (s.contacted a).pockets = s.pockets
      ∧ (s.contacted a).lastChange = s.lastChange ∧ steady (s.contacted a) = steady s ∧ (s.contacted a).holders = s.holders := by
    obtain ⟨trap, count, links, shape⟩ := s.contacted_shape a
    rw [shape]
    exact ⟨rfl, rfl, rfl, rfl, rfl, rfl, rfl, rfl⟩
  clear_value flushed reported latched
  subst flushed_eq
  generalize s.contacted a = r at *
  have lasts : plain → r.Lasting a := fun lasting => by
    rw [State.Lasting, motion]
    exact lasting.imp_right .inl
  have untouched_change : s.change.get a = none → r.Unearly a := fun unchanged => by
    rw [State.Unearly, change, unchanged]
    exact fun _ same => by cases same
  have active_r : ∀ {w}, m.active = some w → (r.motion.get a).active = some w := fun active => by rw [motion]; exact active
  have rests_r : m.active = none → (r.motion.get a).active = none := fun rests => by rw [motion]; exact rests
  refine ⟨s.takeLatch_spec a, rfl, fun high => goes (triggerEdge_high high), fun low unpowered => spared low (.inl fun on => unpowered (power.1 on)),
    fun low why => ?_, fun w o low active ramp settled => spared low (.inr (.inr (.inr ⟨w, o, active, ramp, settled⟩))), ?_, ?_, ?_, ?_, ?_, ?_, ?_⟩
  · rcases why with opened | rack | collision
    · exact spared low (.inr (.inl (.inl opened)))
    · exact spared low (.inr (.inl (.inr rack)))
    · exact spared low (.inr (.inr (.inl collision)))
  · intro w low on closed free active running kind moves room
    have class_ := arming_touch (power.2 on) (clear_one w closed active (by rw [kind]; nofun)) (unsettled_of_running free active running)
      ⟨w, active, kind, running⟩
    refine goes ((triggerEdge_touch low class_ room).trans ?_)
    rw [latched_touch, enterStop_ramp (s := s.latched a .touch) active running moves, settle_nil]
  · intro low on closed free rests lasting unchanged
    exact contact low (arming_rests (power.2 on) (clear_none closed rests) free rests)
      (contact_rests (rests_r rests) (lasts lasting) (untouched_change unchanged))
  · intro low closed phase rests unchanged alone
    have on : denOf m.phase = true := by rw [phase]; rfl
    have alone_r : Alone r a := by rw [Alone, motion, waiters]; exact alone
    obtain ⟨t, settles, zones, counts⟩ := contact_waits (rests_r rests) alone_r (untouched_change unchanged)
    refine ⟨_, contact low (arming_rests on (clear_none closed rests) (by rw [phase]; nofun) rests) settles, ExceptZones_raise zones _ _,
      fun waited => counts (by rw [waiters]; exact waited)⟩
  · intro w low on closed free active running kind moves lasting
    exact contact low (aims w on closed free active running kind) (contact_moves (active_r active) running moves (lasts lasting))
  · intro w o low on closed free active ramp untouched uncontacted unracked lasting
    refine contact low (arming_contact (power.2 on) (clear_one w closed active unracked) ?_ ?_)
      (contact_ramps (active_r active) ramp (lasts lasting))
    · rintro (collision | ⟨x, e, other, ramps, is⟩)
      · exact free collision
      · obtain rfl : w = x := Option.some.inj (active.symm.trans other)
        obtain rfl : o = e := SegStatus.stopping.inj (ramp.symm.trans ramps)
        exact is.elim untouched uncontacted
    · rintro ⟨x, other, -, running⟩
      obtain rfl : w = x := Option.some.inj (active.symm.trans other)
      rw [ramp] at running
      cases running
  · intro w low on closed free active running stands unreset unheld unawaited
    refine ⟨fun kind room empty => ?_, fun kind unchanged _ => ?_⟩
    · have class_ := arming_touch (power.2 on) (clear_one w closed active (by rw [kind]; nofun)) (unsettled_of_running free active running)
        ⟨w, active, kind, running⟩
      obtain ⟨t, run, zones, -⟩ := runs_stands (s := s.latched a .touch) (o := .touched) active running stands empty unreset unheld unawaited
        nofun nofun nofun
      refine ⟨_, goes ((triggerEdge_touch low class_ room).trans (congrArg (fun u : State => u.raise a.link .touch)
        (run.settle (by decide)))), ?_⟩
      rw [latched_touch]
      exact ExceptZones_raise zones _ _
    · obtain ⟨t, settles, zones⟩ := contact_stands (active_r active) running stands (by rw [motion]; exact unreset)
        (by rw [motion]; exact unheld) (by rw [waiters]; exact unawaited) (untouched_change unchanged)
      exact ⟨_, contact low (aims w on closed free active running kind) settles, ExceptZones_raise zones _ _⟩
  · intro c low on free rests lasting is_change early lonely tables
    have closed : ¬ open_ := by
      rintro ⟨d, other, late⟩
      obtain rfl : c = d := Option.some.inj (is_change.symm.trans other)
      rcases early with step | step <;> rw [step] at late <;> simp at late
    have lonely_r : Lonely r a c := by
      rw [Lonely, waiters, motion, kept.2.2]
      exact lonely
    obtain ⟨t, settles, ended, phase, empty, capture, trap, count, told⟩ := contact_ends (rests_r rests) (lasts lasting)
      (by rw [change]; exact is_change) early lonely_r (Tables_same tables probes pockets)
    have ended_s : Ended s t a c (.failed .arm) := Ended_of ended (by rw [change]) kept.1 kept.2.1 probes pockets rfl rfl rfl fun past => past
    refine ⟨_, contact low (arming_rests (power.2 on) (clear_none closed rests) free rests) settles, ⟨fun _ => ended_s, fun late => ?_⟩,
      phase, empty, capture.trans captured.1, trap.trans captured.2.1, count.trans captured.2.2, State.raise_kept _ told,
      State.raise_raised _ _ _⟩
    rcases early with step | step <;> rw [step] at late <;> simp at late

end Sys2Proof.Machine
end
section
/-! PROOFS. What REQUEST CHANGE checks, and the context it forms (R147, R148). -/
namespace Sys2Proof.Machine
open Sys2Proof.Safety

/-! ### The checks -/

theorem index?_eq_some {n i : Nat} {x : Fin n} : index? n i = some x ↔ i = x.val := by
  unfold index?
  split
  · next below => exact ⟨fun same => by rw [← Option.some.inj same], fun same => congrArg some (Fin.ext same)⟩
  · next above => exact iff_of_false nofun fun same => above (same ▸ x.isLt)

/-- The drop pocket of a request (R147). -/
def State.Given (s : State) (a : Arm) (e : ChangeEntry) (p : PocketId) : Prop := e.dropPocket = some p.val
  ∨ (e.dropPocket = none ∧ ∃ n r, s.mount a = .record n ∧ s.probes.get n = some r ∧ r.home = some p)

section
variable {s : State} {a : Arm} {e : ChangeEntry}

theorem dropPocket_iff {p : PocketId} : s.dropPocket a e = some p ↔ s.Given a e p := by
  unfold State.dropPocket State.Given
  cases e.dropPocket with
  | some q => simp only [index?_eq_some, Option.some.injEq, reduceCtorEq, false_and, or_false]
  | none =>
    simp only [reduceCtorEq, false_or, true_and]
    cases s.mount a with
    | record n => simp only [Option.bind_eq_some_iff, Mount.record.injEq, exists_and_left, exists_eq_left']
    | unknown => simp
    | none => simp

theorem takeOf_iff {k : PocketId} {n : Slot} :
    s.takeOf e = some (k, n) ↔ n.val = e.takeSlot ∧ ∃ r, s.probes.get n = some r ∧ r.place = .stored k := by
  simp only [State.takeOf, Option.bind_eq_some_iff, index?_eq_some]
  constructor
  · rintro ⟨m, slot, found⟩
    cases record : s.probes.get m with
    | none => rw [record] at found; cases found
    | some r =>
      simp only [record] at found
      cases place : r.place with
      | stored j =>
        simp only [place, Option.some.injEq, Prod.mk.injEq] at found
        obtain ⟨rfl, rfl⟩ := found
        exact ⟨slot.symm, r, record, place⟩
      | _ => simp [place] at found
  · rintro ⟨slot, r, record, place⟩
    exact ⟨n, slot.symm, by simp only [record, place]⟩

theorem badChange_iff : s.badChange a e = true ↔ (e.drop = false ∧ e.take = false) ∨ (∃ p, e.dropPocket = some p ∧ 11 < p)
    ∨ 31 < e.takeSlot ∨ (e.drop = true ∧ s.mount a = .none) ∨ (e.drop = true ∧ e.dropPocket = none ∧ ∀ p, ¬ s.Given a e p)
    ∨ (e.take = true ∧ e.drop = false ∧ s.mount a ≠ .none) := by
  have nowhere : s.dropPocket a e = none ↔ ∀ p, ¬ s.Given a e p := by
    simp only [← dropPocket_iff, Option.eq_none_iff_forall_ne_some, ne_eq]
  simp only [State.badChange, Bool.or_eq_true, Bool.and_eq_true, Bool.not_eq_true', Option.any_eq_true, decide_eq_true_eq,
    Option.isNone_iff_eq_none, nowhere, or_assoc, and_assoc]

theorem changeInUse_iff : s.changeInUse a e = true ↔ (e.drop = true ∧ ∃ p, s.Given a e p ∧ ((s.pockets.get p).state ≠ .empty
        ∨ (s.pockets.get p).unexpected = true ∨ (s.pockets.get p).level = true))
      ∨ (e.take = true ∧ ¬ ∃ n p k, n.val = e.takeSlot ∧ s.probes.get n = some p ∧ p.place = .stored k) := by
  have untaken : s.takeOf e = none ↔ ¬ ∃ n p k, n.val = e.takeSlot ∧ s.probes.get n = some p ∧ p.place = .stored k := by
    rw [Option.eq_none_iff_forall_ne_some]
    constructor
    · rintro none ⟨n, p, k, slot, record, place⟩
      exact none (k, n) (takeOf_iff.2 ⟨slot, p, record, place⟩)
    · rintro none ⟨k, n⟩ found
      obtain ⟨slot, p, record, place⟩ := takeOf_iff.1 found
      exact none ⟨n, p, k, slot, record, place⟩
  have shut : ∀ p : Pocket, (!p.open?) = true ↔ p.state ≠ .empty ∨ p.unexpected = true ∨ p.level = true := fun p => by
    simp only [Pocket.open?, Bool.not_eq_true', Bool.and_eq_false_iff, decide_eq_false_iff_not, Bool.not_eq_false', or_assoc, ne_eq]
  simp only [State.changeInUse, Bool.or_eq_true, Bool.and_eq_true, Option.any_eq_true, shut, Option.isNone_iff_eq_none, untaken,
    dropPocket_iff]

theorem rackZone_none : s.rackZone = none ↔ ∀ z, (s.zones.get z).kind ≠ .rack := by
  simp [State.rackZone, List.find?_eq_none, mem_allZones]

theorem rackZone_kind {z : ZoneId} (rack : s.rackZone = some z) : (s.zones.get z).kind = .rack := by
  simpa using List.find?_some rack

theorem mount_record {n : Slot} (unchanged : s.change.get a = none) (mount : s.mount a = .record n) :
    ∃ r, s.probes.get n = some r ∧ r.place = .mounted a := by
  unfold State.mount at mount
  split at mount
  · next m found =>
    obtain ⟨r, record, here⟩ := findProbe_some found
    cases mount
    exact ⟨r, record, by simpa using here⟩
  · have settled : s.transitOf a = none := by
      unfold State.transitOf
      rw [unchanged]
    rw [settled] at mount
    dsimp only at mount
    split at mount <;> cases mount

end

/-! ### The tables at the start of a change -/

theorem reserve_place {s : State} {p : PocketId} {n : Slot} {r : Probe} {b : Arm} (a : Arm) (slot : s.probes.get n = some r)
    (here : r.place = .stored p ∨ r.place = .mounted b) :
    (s.reserve p).place n (.inTransit a) = (s.reserve p).setProbe n (some { r with place := .inTransit a }) := by
  have slot' : (s.reserve p).probes.get n = some r := slot
  have reserved : ((s.reserve p).pockets.get p).state = .reserved := congrArg Pocket.state (Table.get_put_same _ _ _)
  rcases here with place | place
  · simp only [State.place, slot', place, State.leave, reserved, reduceCtorEq, State.displace, Place.single, Bool.false_eq_true, if_false]
  · simp only [State.place, slot', place, State.leave, State.displace, Place.single, Bool.false_eq_true, if_false]

/-- State t is s with the context k begun: its pockets RESERVED and its records in transit (R148). -/
structure Begun (a : Arm) (k : Context) (s t : State) : Prop where
  shape : t = { s with
    probes := t.probes, pockets := t.pockets, change := s.change.set a (some k), lastChange := s.lastChange.set a none }
  pockets : ∀ p, t.pockets.get p = if k.drop.map (·.1) = some p ∨ k.take.map (·.1) = some p then
    { s.pockets.get p with state := .reserved } else s.pockets.get p
  probes : ∀ n, t.probes.get n = if k.drop.map (·.2) = some (.slot n) ∨ k.take.map (·.2) = some n then
    (s.probes.get n).map fun r => { r with place := .inTransit a } else s.probes.get n

/-- State t is s with the pockets P RESERVED and the records N in transit for an arm. -/
structure Removed (a : Arm) (P : PocketId → Prop) (N : Slot → Prop) (s t : State) : Prop where
  shape : t = { s with probes := t.probes, pockets := t.pockets }
  reserved : ∀ p, P p → t.pockets.get p = { s.pockets.get p with state := .reserved }
  others : ∀ p, ¬ P p → t.pockets.get p = s.pockets.get p
  moved : ∀ n, N n → t.probes.get n = (s.probes.get n).map fun r => { r with place := .inTransit a }
  stay : ∀ n, ¬ N n → t.probes.get n = s.probes.get n

theorem Removed.refl (a : Arm) (s : State) : Removed a (fun _ => False) (fun _ => False) s s :=
  ⟨rfl, fun _ => False.elim, fun _ _ => rfl, fun _ => False.elim, fun _ _ => rfl⟩

theorem Removed.reserve {a : Arm} {P : PocketId → Prop} {N : Slot → Prop} {s t : State} (removed : Removed a P N s t) (p : PocketId) :
    Removed a (fun q => P q ∨ q = p) N s (t.reserve p) := by
  have get : ∀ q, (t.reserve p).pockets.get q = if q = p then { t.pockets.get p with state := .reserved } else t.pockets.get q :=
    fun q => Table.get_put _ _ _ _
  refine ⟨?_, fun q is => ?_, fun q isnt => ?_, removed.moved, removed.stay⟩
  · rw [State.reserve, State.modPocket, removed.shape]
  · rw [get]
    by_cases here : q = p
    · subst here
      rw [if_pos rfl]
      by_cases before : P q
      · rw [removed.reserved q before]
      · rw [removed.others q before]
    · rw [if_neg here, removed.reserved q (is.resolve_right here)]
  · rw [get, if_neg (not_or.1 isnt).2, removed.others q (not_or.1 isnt).1]

theorem Removed.take {a b : Arm} {P : PocketId → Prop} {N : Slot → Prop} {s t : State} (removed : Removed a P N s t) {p : PocketId}
    {n : Slot} {r : Probe} (slot : s.probes.get n = some r) (here : r.place = .stored p ∨ r.place = .mounted b) (fresh : ¬ N n) :
    Removed a (fun q => P q ∨ q = p) (fun m => N m ∨ m = n) s ((t.reserve p).place n (.inTransit a)) := by
  have kept := removed.reserve p
  have there : t.probes.get n = some r := (removed.stay n fresh).trans slot
  rw [reserve_place a there here]
  have get : ∀ m, ((t.reserve p).setProbe n (some { r with place := .inTransit a })).probes.get m
      = if m = n then some { r with place := .inTransit a } else t.probes.get m := fun m => Table.get_put _ _ _ _
  refine ⟨?_, kept.reserved, kept.others, fun m is => ?_, fun m isnt => ?_⟩
  · rw [State.setProbe, kept.shape]
  · rw [get]
    by_cases same : m = n
    · rw [if_pos same, same, slot]
      rfl
    · rw [if_neg same, removed.moved m (is.resolve_right same)]
  · rw [get, if_neg (not_or.1 isnt).2, removed.stay m (not_or.1 isnt).1]

/-- A context that stands, on tables whose change it asked. -/
theorem Removed.begun {a : Arm} {P : PocketId → Prop} {N : Slot → Prop} {s u : State} (removed : Removed a P N s u) {k : Context}
    (pockets : ∀ p, P p ↔ k.drop.map (·.1) = some p ∨ k.take.map (·.1) = some p)
    (slots : ∀ n, N n ↔ k.drop.map (·.2) = some (.slot n) ∨ k.take.map (·.2) = some n) :
    Begun a k s { u.setContext a (some k) with lastChange := u.lastChange.set a none } := by
  refine ⟨?_, fun p => ?_, fun n => ?_⟩
  · rw [removed.shape]
    rfl
  · split
    · next is => exact removed.reserved p ((pockets p).2 is)
    · next isnt => exact removed.others p (mt (pockets p).1 isnt)
  · split
    · next is => exact removed.moved n ((slots n).2 is)
    · next isnt => exact removed.stay n (mt (slots n).1 isnt)

theorem startChange_begun {s : State} {a : Arm} {k : Context}
    (drops : ∀ p n, k.drop = some (p, .slot n) → ∃ r, s.probes.get n = some r ∧ r.place = .mounted a)
    (takes : ∀ p n, k.take = some (p, n) → ∃ r, s.probes.get n = some r ∧ r.place = .stored p) : Begun a k s (s.startChange a k) := by
  have start := Removed.refl a s
  cases drop : k.drop with
  | none =>
    cases take : k.take with
    | none =>
      simp only [State.startChange, drop, take]
      exact start.begun (k := k) (by simp [drop, take]) (by simp [drop, take])
    | some y =>
      obtain ⟨q, m⟩ := y
      obtain ⟨x, record, place⟩ := takes q m take
      simp only [State.startChange, drop, take]
      exact (start.take record (b := a) (.inl place) id).begun (k := k) (by simp [drop, take, eq_comm]) (by simp [drop, take, eq_comm])
  | some d =>
    obtain ⟨p, d⟩ := d
    cases d with
    | unknown =>
      have first := start.reserve p
      cases take : k.take with
      | none =>
        simp only [State.startChange, drop, take]
        exact first.begun (k := k) (by simp [drop, take, eq_comm]) (by simp [drop, take])
      | some y =>
        obtain ⟨q, m⟩ := y
        obtain ⟨x, record, place⟩ := takes q m take
        simp only [State.startChange, drop, take]
        exact (first.take record (b := a) (.inl place) id).begun (k := k) (by simp [drop, take, eq_comm]) (by simp [drop, take, eq_comm])
    | slot n =>
      obtain ⟨r, slot, here⟩ := drops p n drop
      have first := start.take slot (p := p) (.inr here) id
      cases take : k.take with
      | none =>
        simp only [State.startChange, drop, take]
        exact first.begun (k := k) (by simp [drop, take, eq_comm]) (by simp [drop, take, eq_comm])
      | some y =>
        obtain ⟨q, m⟩ := y
        obtain ⟨x, record, place⟩ := takes q m take
        have apart : ¬ (False ∨ m = n) := by
          rintro (no | rfl)
          · exact no
          · rw [slot] at record
            cases record
            rw [here] at place
            cases place
        simp only [State.startChange, drop, take]
        exact (first.take record (b := a) (.inl place) apart).begun (k := k) (by simp [drop, take, eq_comm]) (by simp [drop, take, eq_comm])

end Sys2Proof.Machine
end
section
/-! PROOFS. What one arm's pieces do while a head of the other arm may wait: that head starts, or waits on (R117). -/
namespace Sys2Proof.Machine
open Sys2Proof.Safety

/-- The waiter list holds nothing but, it may be, the entry of arm b's head. -/
def HeadAlone (b : Arm) (s : State) : Prop := s.waiters = [] ∨ ∃ zs, s.waiters = [⟨b, .segment, zs⟩]

/-- State t is s but for zones, and for the head of arm b, which may have started (R83, R117). -/
structure Aside (b : Arm) (s t : State) : Prop where
  shape : t = { s with
    holders := t.holders, standing := t.standing, deferred := t.deferred, linger := t.linger, handover := t.handover
    waiters := t.waiters, motion := t.motion, axes := t.axes }
  motion : t.motion.get b.other = s.motion.get b.other
  axes : t.axes.get b.other = s.axes.get b.other
  waiters : t.waiters = s.waiters ∨ t.waiters = []

theorem Aside_of_kept {b : Arm} {s t : State} (kept : ExceptZones s t) : Aside b s t := by
  obtain ⟨_, _, _, _, _, rfl⟩ := ExceptZones_update kept
  exact ⟨rfl, rfl, rfl, .inl rfl⟩

theorem Aside.update {b : Arm} {s t : State} (aside : Aside b s t) :
    ∃ holders standing deferred linger handover waiters motion axes, t = { s with
      holders := holders, standing := standing, deferred := deferred, linger := linger, handover := handover
      waiters := waiters, motion := motion, axes := axes } := ⟨_, _, _, _, _, _, _, _, aside.shape⟩

theorem Aside.trans {b : Arm} {s t u : State} (first : Aside b s t) (next : Aside b t u) : Aside b s u := by
  refine ⟨?_, next.motion.trans first.motion, next.axes.trans first.axes, ?_⟩
  · rw [next.shape, first.shape]
  · rcases next.waiters with same | none
    · rw [same]
      exact first.waiters
    · exact .inr none

theorem Aside.tables {b : Arm} {s t : State} (aside : Aside b s t) : t.probes = s.probes ∧ t.pockets = s.pockets := by
  rw [aside.shape]
  exact ⟨rfl, rfl⟩

theorem Aside.alone {b : Arm} {s t : State} (aside : Aside b s t) (alone : HeadAlone b s) : HeadAlone b t := by
  unfold HeadAlone
  rcases aside.waiters with same | none
  · rw [same]
    exact alone
  · exact .inl none

/-- A piece that runs to its end and leaves all but zones and arm b's head. -/
def Sideways (b : Arm) (w : Nat) (x : Task) : Prop := ∀ s, HeadAlone b s → ∃ t, Runs w [x] s t ∧ Aside b s t

section
variable {b : Arm} {w : Nat} {x y : Task} {s u : State}

theorem sideways_last (does : perform x s = (u, [])) (kept : ExceptZones s u) : ∃ t, Runs (w + 1) [x] s t ∧ Aside b s t :=
  ⟨u, (Runs.piece does (Runs.nil u)).mono (by omega), Aside_of_kept kept⟩

theorem sideways_next (alone : HeadAlone b s) (does : perform x s = (u, [y])) (kept : ExceptZones s u) (next : Sideways b w y) :
    ∃ t, Runs (w + 1) [x] s t ∧ Aside b s t := by
  have aside : Aside b s u := Aside_of_kept kept
  obtain ⟨t, run, after⟩ := next u (aside.alone alone)
  exact ⟨t, Runs.piece does run, aside.trans after⟩

/-- The start of a head, with the zones it releases, while no arm waits. -/
theorem activate_aside (unawaited : s.waiters = []) : ∃ t, Runs 3 [.activate b] s t ∧ Aside b s t := by
  cases queue : (s.motion.get b).queue with
  | nil =>
    refine ⟨s, (Runs.piece (x := .activate b) (e := (s, [])) ?_ (Runs.nil s)).mono (by decide), Aside_of_kept rfl⟩
    simp only [perform, activate, queue]
  | cons h rest =>
    obtain ⟨t, run, kept⟩ := runs_activate (g := (s.motion.get b).geometry) queue rfl unawaited
    have begun : Aside b s (s.begins b h rest (s.motion.get b).geometry) :=
      ⟨rfl, by simp [State.begins, State.setPhase, PerArm.get_set_ne _ _ b.other_ne],
        PerArm.get_set_ne _ _ b.other_ne, .inl rfl⟩
    exact ⟨t, run, begun.trans (Aside_of_kept kept)⟩

theorem scan_sideways (b : Arm) : Sideways b 9 .scan := by
  intro s alone
  rcases alone with unawaited | ⟨zs, entry⟩
  · exact ⟨s, (runs_scan unawaited).mono (by decide), Aside_of_kept rfl⟩
  by_cases grantable : s.grantable ⟨b, .segment, zs⟩ = true
  · have acts : perform .scan s = ((s.dropEntry b).takeZones b zs, [.activate b, .recomputeOwed b, .scan]) := by
      simp only [perform, scan, entry, List.find?_cons, grantable]
    have unawaited : ((s.dropEntry b).takeZones b zs).waiters = [] := by simp [State.takeZones, State.dropEntry, entry]
    have taken : Aside b s ((s.dropEntry b).takeZones b zs) := ⟨rfl, rfl, rfl, .inr unawaited⟩
    obtain ⟨u, starts, begun⟩ := activate_aside (b := b) unawaited
    have u_waiters : u.waiters = [] := begun.waiters.elim (·.trans unawaited) id
    obtain ⟨t, owed, kept⟩ := Runs.of_contained (recomputeOwed_contained b) u_waiters
    exact ⟨t, Runs.piece acts (starts.cons (owed.cons (runs_scan ((ExceptZones_waiters kept).trans u_waiters)))),
      (taken.trans begun).trans (Aside_of_kept kept)⟩
  · refine ⟨s, (runs_scan_blocked fun w mem => ?_).mono (by decide), Aside_of_kept rfl⟩
    rw [entry, List.mem_singleton] at mem
    rw [mem]
    exact Bool.eq_false_iff.2 grantable

theorem release_sideways (b a : Arm) (zs : List ZoneId) : Sideways b 10 (.release a zs) := by
  intro s alone
  by_cases none : (zs.filter fun z => s.holds a z).isEmpty = true
  · exact sideways_last (u := s) (by simp only [perform, release, none, if_true]) rfl
  · refine sideways_next (u := (release a zs s).1) (y := .scan) alone ?_ ?_ (scan_sideways b)
    · simp only [perform, release, none, if_false, Bool.false_eq_true]
    · simp only [release, none, if_false, Bool.false_eq_true]
      exact ExceptZones_tidyLinger a rfl

theorem linger_sideways (b a : Arm) : Sideways b 11 (.linger a) := by
  intro s alone
  by_cases none : (s.heldFor a .linger).isEmpty = true
  · exact sideways_last (u := (startLinger a s).1) (by simp only [perform, startLinger, none, if_true])
      (by simp only [startLinger, none, if_true]; rfl)
  by_cases zero : s.settings.linger = 0
  · refine sideways_next (u := s) alone ?_ rfl (release_sideways b a (s.heldFor a .linger))
    simp only [perform, startLinger, none, zero, if_true, if_false, Bool.false_eq_true]
  · refine sideways_next (u := (startLinger a s).1) alone ?_ ?_ (release_sideways b a ((s.heldFor a .linger).filter fun z =>
      (((s.entry a.other).map (·.needed)).getD []).contains z))
    · simp only [perform, startLinger, none, zero, if_false, Bool.false_eq_true]
    · simp only [startLinger, none, zero, if_false, Bool.false_eq_true]
      rfl

theorem recompute_aside {a : Arm} {needed : List ZoneId} (does : perform x s = recompute a needed u) (kept : ExceptZones s u)
    (alone : HeadAlone b s) : ∃ t, Runs 12 [x] s t ∧ Aside b s t := by
  by_cases loading : u.startup = .loading
  · exact sideways_last (by rw [does]; simp only [recompute, loading, if_true]) kept
  by_cases waits : ((u.motion.get a).phase = .waiting .zone && (u.entry a).isSome) = true
  · exact sideways_last (u := { u with deferred := u.deferred.set a true })
      (by rw [does]; simp only [recompute, loading, waits, if_true, if_false]) (ExceptZones_trans kept rfl)
  have core : perform x s = recomputeCore a needed u := by
    rw [does]
    simp only [recompute, loading, waits, if_false, Bool.false_eq_true]
  have reformed : ExceptZones s (recomputeCore a needed u).1 := ExceptZones_trans kept (recomputeCore_reformed a needed u).kept
  cases enabled : denOf (u.motion.get a).phase with
  | true =>
    exact sideways_next alone (core.trans (by simp only [recomputeCore, enabled, if_true])) reformed (linger_sideways b a)
  | false =>
    obtain ⟨t, run, aside⟩ := sideways_next alone (core.trans (by simp only [recomputeCore, enabled, Bool.false_eq_true, if_false])) reformed
      (release_sideways b a ((u.heldFor a .standing ++ u.heldFor a .claim).filter fun z => !(u.standingSet a).contains z))
    exact ⟨t, run.mono (by decide), aside⟩

theorem recompute_sideways (b a : Arm) : Sideways b 12 (.recompute a) := fun _ alone => recompute_aside rfl rfl alone

theorem recomputeOwed_sideways (b a : Arm) : Sideways b 12 (.recomputeOwed a) := by
  intro s alone
  by_cases due : s.deferred.get a = true
  · exact recompute_aside (a := a) (u := { s with deferred := s.deferred.set a false }) (needed := s.activeNeeds a)
      (by simp only [perform, recomputeOwed, due, if_true]) rfl alone
  · exact sideways_last (u := s) (by simp only [perform, recomputeOwed, due, Bool.false_eq_true, if_false]) rfl

end

/-- State t is u after an arm's context has been removed while the other arm's head may wait (R155). -/
structure Removal (a : Arm) (o : ChangeOutcome) (u t : State) : Prop where
  parted : Parted a t
  alone : HeadAlone a.other t
  motion : t.motion.get a = u.motion.get a
  axes : t.axes.get a = u.axes.get a
  shape : t = { u with
    holders := t.holders, standing := t.standing, deferred := t.deferred, linger := t.linger, handover := t.handover
    waiters := t.waiters, motion := t.motion, axes := t.axes
    change := u.change.set a none, lastChange := u.lastChange.set a (some o)
    rack := { u.rack with req := u.rack.req && u.asksOpen a.other }, links := (u.raise a.link .changeEnded).links
    probes := t.probes, pockets := t.pockets, inventory := t.inventory, readers := t.readers }
  surveyed : ∃ v, v.probes = u.probes ∧ v.pockets = u.pockets ∧ Surveyed v t

theorem runs_removeChange_beside {u : State} {a : Arm} (alone : HeadAlone a.other u) {o : ChangeOutcome} (undone : o ≠ .done) :
    ∃ t, Runs 14 [.removeChange a o] u t ∧ Removal a o u t := by
  have does : perform (.removeChange a o) u = (u.parted a o, [.recompute a, .askInventory]) := by
    simp only [perform, removeChange, undone, if_false]
    rfl
  obtain ⟨holders, shape⟩ := u.parted_shape a o
  have gone := Parted_parted a u o
  generalize u.parted a o = p at does shape gone
  have p_alone : HeadAlone a.other p := by
    unfold HeadAlone
    rw [shape]
    exact alone
  obtain ⟨v, recompute, beside⟩ := recompute_sideways a.other a p p_alone
  have parted : Parted a v := recompute.keeps (Parted_keeps a) gone
  obtain ⟨t, survey, surveyed⟩ := runs_askInventory (s := v) parted.1
  obtain ⟨motion, axes, waiters⟩ : t.motion = v.motion ∧ t.axes = v.axes ∧ t.waiters = v.waiters := by
    rw [surveyed.shape]
    exact ⟨rfl, rfl, rfl⟩
  obtain ⟨p_motion, p_axes, p_probes, p_pockets⟩ : p.motion = u.motion ∧ p.axes = u.axes ∧ p.probes = u.probes ∧ p.pockets = u.pockets := by
    rw [shape]
    exact ⟨rfl, rfl, rfl, rfl⟩
  have aside := beside.motion
  have aside' := beside.axes
  rw [a.other_other] at aside aside'
  refine ⟨t, Runs.piece does (recompute.cons survey), survey.keeps (Parted_keeps a) parted, ?_, ?_, ?_, ?_, v, ?_, ?_, surveyed⟩
  · unfold HeadAlone
    rw [waiters]
    exact beside.alone p_alone
  · rw [motion, aside, p_motion]
  · rw [axes, aside', p_axes]
  · obtain ⟨_, _, _, _, surveyed_shape⟩ : ∃ ps ks inventory readers, t = { v with
      probes := ps, pockets := ks, inventory := inventory, readers := readers } := ⟨_, _, _, _, surveyed.shape⟩
    obtain ⟨_, _, _, _, _, _, _, _, beside_shape⟩ := beside.update
    rw [beside_shape, shape] at surveyed_shape
    dsimp only at surveyed_shape
    rw [surveyed_shape]
  · rw [beside.tables.1, p_probes]
  · rw [beside.tables.2, p_pockets]

/-- A change in WAIT_RACK ends while the other arm's head waits (R155). -/
theorem runs_endChange_beside {s : State} {a : Arm} {k : Context} {zs ys : List ZoneId} (change : s.change.get a = some k)
    (wait : k.step = .waitRack) (settled : (s.motion.get a).phase ≠ .waiting .zone)
    (entries : s.waiters = [⟨a.other, .segment, zs⟩, ⟨a, .change, ys⟩]) {o : ChangeOutcome} (undone : o ≠ .done) :
    ∃ t, Runs 40 [.endChange a o] s t ∧ HeadAlone a.other t ∧ t.motion.get a = s.motion.get a ∧ t.axes.get a = s.axes.get a
      ∧ Over a k o { s with waiters := [], motion := t.motion, axes := t.axes } { t with waiters := [] } := by
  obtain ⟨ps, ks, us, restored⟩ := (State.restore_restored (s := s) (a := a) (c := k)).tabled
  have restored_waiters : (s.restore a k).waiters = [⟨a.other, .segment, zs⟩, ⟨a, .change, ys⟩] := by rw [restored]; exact entries
  have does : perform (.endChange a o) s
      = ((s.restore a k).dropEntry a, [.recomputeOwed a, .request a false, .removeChange a o]) := by
    simp [perform, endChange, change, wait, undone, withdraw, State.entry, restored_waiters, a.other_ne]
  have left : HeadAlone a.other ((s.restore a k).dropEntry a) := .inr ⟨zs, by simp [State.dropEntry, restored_waiters, a.other_ne]⟩
  have still : ((s.restore a k).dropEntry a).motion = s.motion ∧ ((s.restore a k).dropEntry a).axes = s.axes := by
    rw [restored]
    exact ⟨rfl, rfl⟩
  obtain ⟨u, owed, aside⟩ := recomputeOwed_sideways a.other a ((s.restore a k).dropEntry a) left
  have motion : u.motion.get a = s.motion.get a := by
    rw [← a.other_other, aside.motion, still.1]
  have axes : u.axes.get a = s.axes.get a := by
    rw [← a.other_other, aside.axes, still.2]
  have asks : Runs 1 [.request a false] u u :=
    Runs.piece (x := .request a false) (e := (u, [])) (request_settled (by rw [motion]; exact settled)) (Runs.nil u)
  obtain ⟨t, removes, removal⟩ := runs_removeChange_beside (aside.alone left) undone
  obtain ⟨v, probes, pockets, surveyed⟩ := removal.surveyed
  have shape := removal.shape
  rw [aside.shape, restored] at shape
  refine ⟨t, (Runs.piece does (owed.cons (asks.cons removes))).mono (by decide), removal.alone, removal.motion.trans motion,
    removal.axes.trans axes, removal.parted, ?_, fun _ => ?_, fun past => absurd wait past, fun is => absurd is undone,
    fun is => absurd is undone, fun _ => ⟨s, { v with waiters := [] }, rfl, rfl, probes.trans aside.tables.1,
      pockets.trans aside.tables.2, ?_, surveyed.runs, surveyed.stays, surveyed.moved, surveyed.seated, surveyed.empty⟩⟩
  · rw [shape]
    rfl
  · rw [shape]
    rfl
  · rw [surveyed.shape]

end Sys2Proof.Machine
end
section
/-! PROOFS. REQUEST CHANGE (O51). -/
namespace Sys2Proof.Machine
open Sys2Proof.Safety

/-! ### The context formed -/

section
variable {s : State} {a : Arm} {e : ChangeEntry}

theorem Begun.tables {k : Context} {t u v : State} (one : Begun a k s t) (other : Begun a k u v) (probes : u.probes = s.probes)
    (pockets : u.pockets = s.pockets) : v.probes = t.probes ∧ v.pockets = t.pockets :=
  ⟨Table.ext_get fun n => by rw [one.probes, other.probes, probes], Table.ext_get fun p => by rw [one.pockets, other.pockets, pockets]⟩

theorem newContext_begun (free : s.change.get a = none) : Begun a (s.newContext a e) s (s.startChange a (s.newContext a e)) := by
  refine startChange_begun (fun p n drop => ?_) fun p n take => ?_
  · obtain ⟨-, -, dropped⟩ := newContext_drop drop
    exact mount_record free (droppedOf_slot dropped)
  · obtain ⟨-, r, slot, place⟩ := takeOf_iff.1 (newContext_take take)
    exact ⟨r, slot, place⟩

theorem startChange_modLink (free : s.change.get a = none) (l : Link) (g : LinkState → LinkState) :
    (s.modLink l g).startChange a (s.newContext a e) = (s.startChange a (s.newContext a e)).modLink l g := by
  have begun := newContext_begun (e := e) free
  have linked : Begun a (s.newContext a e) (s.modLink l g) ((s.modLink l g).startChange a (s.newContext a e)) :=
    newContext_begun (s := s.modLink l g) (e := e) free
  obtain ⟨probes, pockets⟩ := begun.tables linked rfl rfl
  rw [linked.shape, probes, pockets]
  exact congrArg (·.modLink l g) begun.shape.symm

/-- What the checks of a request look at first (R147). -/
theorem changeWrong_iff : (decide ((s.motion.get a).phase ≠ .idle) || !(s.motion.get a).queue.isEmpty || (s.change.get a).isSome
    || s.inventoryRuns) = true ↔ (s.motion.get a).phase ≠ .idle ∨ (s.motion.get a).queue ≠ [] ∨ s.change.get a ≠ none
      ∨ s.inventory ≠ .idle := by
  have runs : s.inventoryRuns = true ↔ s.inventory ≠ .idle := by
    unfold State.inventoryRuns
    cases s.inventory <;> simp
  simp only [Bool.or_eq_true, decide_eq_true_eq, Bool.not_eq_true', List.isEmpty_eq_false_iff, Option.isSome_iff_ne_none, runs, or_assoc]

/-- REQUEST CHANGE, taken: the checks in their order, and the change asked (R147, R148). -/
theorem requestChange_goes (taken : Takes s a.link (.requestChange a.link e)) :
    let c := Instr.requestChange a.link e
    let wrong := (s.motion.get a).phase ≠ .idle ∨ (s.motion.get a).queue ≠ [] ∨ s.change.get a ≠ none ∨ s.inventory ≠ .idle
    (wrong → Refuses c a.link s .wrongState)
    ∧ (¬ wrong → s.rackZone = none → Refuses c a.link s .noRack)
    ∧ (¬ wrong → s.rackZone ≠ none → s.rack.fault = true → Refuses c a.link s .rackFault)
    ∧ (¬ wrong → s.rackZone ≠ none → s.rack.fault = false → s.badChange a e = true → Refuses c a.link s .badArgument)
    ∧ (¬ wrong → s.rackZone ≠ none → s.rack.fault = false → ¬ s.badChange a e = true → s.changeInUse a e = true →
        Refuses c a.link s .inUse)
    ∧ (¬ wrong → s.rackZone ≠ none → s.rack.fault = false → ¬ s.badChange a e = true → ¬ s.changeInUse a e = true →
        Goes c s (settle (answered (s.startChange a (s.newContext a e)) a.link .ok .none, [.requestRack a]))) := by
  dsimp only
  obtain ⟨g, served, answers, -⟩ := serve_through taken (c := .requestChange a.link e) (by cases a <;> rfl)
    (ownArm a.link (requestChange a.link e))
  rw [ownArm_link, requestChange] at served
  have refuses : ∀ {k}, serve a.link (.requestChange a.link e) (ownArm a.link (requestChange a.link e)) s
      = (s.modLink a.link g).respond a.link k → Refuses (.requestChange a.link e) a.link s k :=
    fun same => congrArg Host.Outcome.next (same.trans (answers s _ _ rfl))
  rw [← changeWrong_iff]
  have first := fun right => served.trans (checked_next (s := s.modLink a.link g) (Bool.eq_false_iff.2 right))
  have second := fun right zone => (first right).trans
    (checked_next (s := s.modLink a.link g) (Option.isNone_eq_false_iff.2 (Option.isSome_iff_ne_none.2 zone)))
  have third := fun right zone fault => (second right zone).trans (checked_next (s := s.modLink a.link g) fault)
  have fourth := fun right zone fault good => (third right zone fault).trans
    (checked_next (s := s.modLink a.link g) (Bool.eq_false_iff.2 good))
  refine ⟨fun wrong => refuses (served.trans (checked_first (s := s.modLink a.link g) wrong)),
    fun right zone => refuses ((first right).trans (checked_first (s := s.modLink a.link g) (Option.isNone_iff_eq_none.2 zone))),
    fun right zone fault => refuses ((second right zone).trans (checked_first (s := s.modLink a.link g) fault)),
    fun right zone fault bad => refuses ((third right zone fault).trans (checked_first (s := s.modLink a.link g) bad)),
    fun right zone fault good used => refuses ((fourth right zone fault good).trans (checked_first (s := s.modLink a.link g) used)),
    fun right zone fault good unused => ?_⟩
  have free : s.change.get a = none := by
    rw [changeWrong_iff] at right
    refine Classical.byContradiction fun some => ?_
    exact right (.inr (.inr (.inl some)))
  have formed : ((s.modLink a.link g).startChange a ((s.modLink a.link g).newContext a e)).respond a.link .ok
      = answered (s.startChange a (s.newContext a e)) a.link .ok .none := by
    rw [← answers (s.startChange a (s.newContext a e)) .ok .none (by rw [(newContext_begun free).shape]), ← startChange_modLink free]
    rfl
  rw [← formed]
  exact congrArg Host.Outcome.next ((fourth right zone fault good).trans
    (checked_next (s := s.modLink a.link g) (Bool.eq_false_iff.2 unused)))

end

/-! ### The RACK zone granted -/

/-- A context to which the RACK zone z is granted (R149). -/
def State.rackGranted (s : State) (a : Arm) (k : Context) (z : ZoneId) (timer : Timer) : State :=
  { s with
    holders := s.holders.mapIdx fun y h => if [z].contains y then some (a, .change) else h
    change := s.change.set a (some { k with step := .opening })
    rack := { s.rack with req := true, rackTimer := some timer } }

section
variable {s : State} {a : Arm} {k : Context} {z : ZoneId}

theorem State.rackGranted_change (s : State) (a : Arm) (k : Context) (z : ZoneId) (timer : Timer) :
    (s.rackGranted a k z timer).change.get a = some { k with step := .opening } := PerArm.get_set _ _ _

theorem State.rackGranted_held (s : State) (a : Arm) (k : Context) (z : ZoneId) (timer : Timer) :
    (s.rackGranted a k z timer).holders.get z = some (a, .change) := by
  rw [rackGranted, Table.get_mapIdx]
  simp

theorem requestRack_granted (change : s.change.get a = some k) (wait : k.step = .waitRack) (zone : s.rackZone = some z)
    (free : s.holders.get z = none) : perform (.requestRack a) s
      = (s.rackGranted a k z ⟨s.settings.rackTimeout * 1000000, 0⟩, [.recompute a, .openCheck a]) := by
  have step : s.stepOf a = some .waitRack := by rw [State.stepOf, change, ← wait]; rfl
  have timed : ∀ (u : State) n, u.settings.rackTimeout * 1000000 = n →
      u.startRackTimer = u.modRack fun r => { r with rackTimer := some ⟨n, 0⟩ } := by
    rintro u n rfl
    rfl
  simp only [perform, requestRack, zone, free, grantRack, step, if_true]
  rw [timed _ (s.settings.rackTimeout * 1000000) ?_]
  · generalize s.settings.rackTimeout * 1000000 = n
    simp only [State.modContext, change, Option.map_some, State.setContext, State.modRack, State.rackGranted]
  · refine congrArg (fun e : Settings => e.rackTimeout * 1000000) ?_
    rfl

/-- A standing recompute of an enabled arm leaves the RACK zone with its holder (R109). -/
theorem runs_recompute_rack (unawaited : s.waiters = []) (enabled : denOf (s.motion.get a).phase = true)
    (kind : (s.zones.get z).kind = .rack) (held : s.holders.get z = some (a, .change)) :
    ∃ t, Runs 4 [.recompute a] s t ∧ ExceptZones s t ∧ t.holders.get z = some (a, .change) := by
  by_cases loading : s.startup = .loading
  · refine ⟨s, (Runs.piece (x := .recompute a) (e := (s, [])) ?_ (Runs.nil s)).mono (by decide), rfl, held⟩
    simp only [perform, recompute, loading, if_true]
  · obtain ⟨t, run, kept, lingered⟩ := runs_recompute_enabled (x := .recompute a) rfl loading unawaited enabled
    have same := (recomputeCore_reformed a (s.activeNeeds a) s).unshared z (by rw [kind]; decide)
    refine ⟨t, run, kept, ?_⟩
    rw [lingered.stays z (.inl (by rw [same, held]; simp)), same, held]

/-- A request for the RACK zone while it is free: the change is in OPENING, its zone held (R112, R149). -/
theorem runs_requestRack_granted (change : s.change.get a = some k) (wait : k.step = .waitRack) (zone : s.rackZone = some z)
    (unawaited : s.waiters = []) (enabled : denOf (s.motion.get a).phase = true) (free : s.holders.get z = none) :
    ∃ u, ExceptZones (s.rackGranted a k z ⟨s.settings.rackTimeout * 1000000, 0⟩) u ∧ u.holders.get z = some (a, .change)
      ∧ ∀ w t, Runs w [.openCheck a] u t → Runs (w + 5) [.requestRack a] s t := by
  have does := requestRack_granted change wait zone free
  have context := s.rackGranted_held a k z ⟨s.settings.rackTimeout * 1000000, 0⟩
  have same : (s.rackGranted a k z ⟨s.settings.rackTimeout * 1000000, 0⟩).motion = s.motion
    ∧ (s.rackGranted a k z ⟨s.settings.rackTimeout * 1000000, 0⟩).waiters = s.waiters
    ∧ (s.rackGranted a k z ⟨s.settings.rackTimeout * 1000000, 0⟩).zones = s.zones := ⟨rfl, rfl, rfl⟩
  generalize s.rackGranted a k z ⟨s.settings.rackTimeout * 1000000, 0⟩ = g at *
  obtain ⟨motion, waiters, zones⟩ := same
  obtain ⟨u, run, kept, held⟩ := runs_recompute_rack (s := g) (waiters.trans unawaited) (by rw [motion]; exact enabled)
    (by rw [zones]; exact rackZone_kind zone) context
  exact ⟨u, kept, held, fun w t opens => (Runs.piece does (run.cons opens)).mono (by omega)⟩

/-- The change opens and waits for the rack (R149). -/
theorem settle_requestRack_opening (change : s.change.get a = some k) (wait : k.step = .waitRack) (zone : s.rackZone = some z)
    (unawaited : s.waiters = []) (enabled : denOf (s.motion.get a).phase = true) (free : s.holders.get z = none)
    (shut : s.rack.isOpen = false) : ∃ t, settle (s, [.requestRack a]) = t ∧ t.holders.get z = some (a, .change)
      ∧ ExceptZones (s.rackGranted a k z ⟨s.settings.rackTimeout * 1000000, 0⟩) t := by
  obtain ⟨u, kept, held, goes⟩ := runs_requestRack_granted change wait zone unawaited enabled free
  have idle : perform (.openCheck a) u = (u, []) := by
    have still : u.rack.isOpen = false := by rw [kept]; exact shut
    simp only [perform, openCheck, still, Bool.and_false, Bool.false_eq_true, if_false]
  exact ⟨u, (goes 1 u (Runs.piece idle (Runs.nil u))).settle (by decide), held, kept⟩

/-- The change opens on an open rack and goes on to its next step at once (R150). -/
theorem settle_requestRack_opens (change : s.change.get a = some k) (wait : k.step = .waitRack) (zone : s.rackZone = some z)
    (unawaited : s.waiters = []) (enabled : denOf (s.motion.get a).phase = true) (free : s.holders.get z = none)
    (is_open : s.rack.isOpen = true) : ∃ t, settle (s, [.requestRack a]) = t ∧ t.holders.get z = some (a, .change)
      ∧ ExceptZones ((s.rackGranted a k z ⟨s.settings.rackTimeout * 1000000, 0⟩).opensUp a { k with step := .opening }
        ⟨s.settings.stepTimeout * 10000000, 0⟩) t := by
  obtain ⟨u, kept, held, goes⟩ := runs_requestRack_granted change wait zone unawaited enabled free
  have context := s.rackGranted_change a k z ⟨s.settings.rackTimeout * 1000000, 0⟩
  have same : (s.rackGranted a k z ⟨s.settings.rackTimeout * 1000000, 0⟩).settings = s.settings
    ∧ (s.rackGranted a k z ⟨s.settings.rackTimeout * 1000000, 0⟩).rack.isOpen = s.rack.isOpen := ⟨rfl, rfl⟩
  generalize s.rackGranted a k z ⟨s.settings.rackTimeout * 1000000, 0⟩ = g at *
  have opens := openCheck_opens (s := u) (a := a) (k := { k with step := .opening }) (by rw [kept]; exact context) rfl
    (by rw [kept]; exact same.2.trans is_open)
  have settings : u.settings = s.settings := by rw [kept]; exact same.1
  rw [settings] at opens
  generalize s.settings.stepTimeout * 10000000 = n at opens ⊢
  refine ⟨u.opensUp a { k with step := .opening } ⟨n, 0⟩, (goes 1 _ (Runs.piece opens (Runs.nil _))).settle (by decide), held, ?_⟩
  obtain ⟨_, _, _, _, _, rfl⟩ := ExceptZones_update kept
  rfl

end

/-! ### The RACK zone held -/

section
variable {s : State} {a : Arm} {k : Context} {z : ZoneId} {r : Arm × HoldWhy}

theorem requestRack_held (zone : s.rackZone = some z) (held : s.holders.get z = some r) :
    perform (.requestRack a) s = (s, [.releaseLoose a, .appendChange a]) := by
  simp only [perform, requestRack, zone, held]

theorem appendChange_joins (zone : s.rackZone = some z) (alone : ∀ w ∈ s.waiters, w.arm ≠ a) :
    perform (.appendChange a) s = ({ s with waiters := s.waiters ++ [⟨a, .change, [z]⟩] }, [.judge a]) := by
  have entry : s.entry a = none := by
    rw [State.entry, List.find?_eq_none]
    exact fun w mem is => alone w mem (by simpa using is)
  simp only [perform, appendChange, zone, State.appendEntry, entry, Option.isSome_none, Bool.false_eq_true, if_false]

theorem rackZone_of_zones {s t : State} (same : t.zones = s.zones) : t.rackZone = s.rackZone := by rw [State.rackZone, same, State.rackZone]

/-- A request for a held RACK zone waits (R112). -/
theorem settle_requestRack_waits (zone : s.rackZone = some z) (unawaited : s.waiters = []) (held : s.holders.get z = some r) :
    ∃ t, settle (s, [.requestRack a]) = t ∧ ExceptZones { s with waiters := [⟨a, .change, [z]⟩] } t := by
  obtain ⟨u, release, kept⟩ := Runs.of_contained (releaseLoose_contained a) unawaited
  have u_waiters : u.waiters = [] := (ExceptZones_waiters kept).trans unawaited
  have joins := appendChange_joins (s := u) (a := a) ((rackZone_of_zones (by rw [kept])).trans zone) (by rw [u_waiters]; nofun)
  rw [u_waiters, List.nil_append] at joins
  have judged : perform (.judge a) { u with waiters := [⟨a, .change, [z]⟩] } = ({ u with waiters := [⟨a, .change, [z]⟩] }, []) := by
    simp [perform, judge, State.entry, State.deadlocked, a.other_ne.symm]
  refine ⟨_, (Runs.piece (requestRack_held zone held) (release.cons (Runs.piece joins (Runs.piece judged (Runs.nil _))))).settle
    (by decide), ?_⟩
  obtain ⟨_, _, _, _, _, rfl⟩ := ExceptZones_update kept
  rfl

/-- A request for a RACK zone of the other arm, which waits in turn for a zone of this one, is refused (R121). -/
theorem settle_requestRack_refused {why w : HoldWhy} {zs : List ZoneId} {y : ZoneId} (change : s.change.get a = some k)
    (wait : k.step = .waitRack) (settled : (s.motion.get a).phase ≠ .waiting .zone) (zone : s.rackZone = some z)
    (entry : s.waiters = [⟨a.other, .segment, zs⟩]) (blocks : s.holders.get z = some (a.other, why)) (wanted : y ∈ zs)
    (keeps : s.holders.get y = some (a, w)) (tight : NoLoose s a) :
    ∃ t, settle (s, [.requestRack a]) = t ∧ HeadAlone a.other t ∧ t.motion.get a = s.motion.get a ∧ t.axes.get a = s.axes.get a
      ∧ Over a k (.failed .deadlock) { s.raiseAll .deadlock with waiters := [], motion := t.motion, axes := t.axes }
        { t with waiters := [] } := by
  have release : Runs 1 [.releaseLoose a] s s := by
    obtain ⟨-, ⟨-, idle⟩ | ⟨⟨x, mem, -⟩, -⟩⟩ := release_spec a (s.loose a) s
    · exact Runs.piece (x := .releaseLoose a) idle (Runs.nil s)
    · rcases State.mem_loose.1 mem with segment | linger
      · exact absurd rfl (tight x _ segment).1
      · exact absurd rfl (tight x _ linger).2
  have joins := appendChange_joins (s := s) (a := a) zone (by rw [entry]; simp [a.other_ne])
  rw [entry] at joins
  have judged : perform (.judge a) { s with waiters := [⟨a.other, .segment, zs⟩] ++ [⟨a, .change, [z]⟩] }
      = (State.raiseAll { s with waiters := [⟨a.other, .segment, zs⟩] ++ [⟨a, .change, [z]⟩] } .deadlock,
        [.endChange a (.failed .deadlock)]) := by
    generalize start : ({ s with waiters := [⟨a.other, .segment, zs⟩] ++ [⟨a, .change, [z]⟩] } : State) = v
    have waiters : v.waiters = [⟨a.other, .segment, zs⟩, ⟨a, .change, [z]⟩] := by rw [← start]; rfl
    have holders : v.holders = s.holders := by rw [← start]
    have own : v.entry a = some ⟨a, .change, [z]⟩ := by simp [State.entry, waiters, a.other_ne]
    have other : v.entry a.other = some ⟨a.other, .segment, zs⟩ := by simp [State.entry, waiters]
    have stuck : v.deadlocked ⟨a, .change, [z]⟩ = true := by
      simp only [State.deadlocked, other, Option.any_some, State.needsFrom, Bool.and_eq_true, List.any_eq_true, holds_iff, holders]
      exact ⟨⟨z, List.mem_singleton_self z, why, blocks⟩, y, wanted, w, keeps⟩
    simp only [perform, judge, own]
    exact if_pos stuck
  obtain ⟨t, ends, alone, motion, axes, ended⟩ := runs_endChange_beside
    (s := State.raiseAll { s with waiters := [⟨a.other, .segment, zs⟩] ++ [⟨a, .change, [z]⟩] } .deadlock) change wait settled rfl
    (o := .failed .deadlock) nofun
  exact ⟨t, (Runs.piece (requestRack_held zone blocks) (release.cons (Runs.piece joins (Runs.piece judged ends)))).settle (by decide),
    alone, motion, axes, ended⟩

end

/-! ### The obligation -/

section
variable {s : State} {a : Arm} {e : ChangeEntry}

theorem newContext_drops (good : ¬ s.badChange a e = true) (drops : e.drop = true) : ∃ p, s.Given a e p
    ∧ (s.newContext a e).drop = some (p, s.droppedOf a) := by
  cases pocket : s.dropPocket a e with
  | some p => exact ⟨p, dropPocket_iff.1 pocket, by simp [State.newContext, drops, pocket]⟩
  | none =>
    refine absurd (badChange_iff.2 ?_) good
    have nowhere : ∀ p, ¬ s.Given a e p := fun p given => by
      rw [dropPocket_iff.2 given] at pocket
      cases pocket
    cases given : e.dropPocket with
    | none => exact .inr (.inr (.inr (.inr (.inl ⟨drops, rfl, nowhere⟩))))
    | some q =>
      refine .inr (.inl ⟨q, rfl, ?_⟩)
      refine Classical.byContradiction fun low => ?_
      exact nowhere ⟨q, by omega⟩ (.inl given)

theorem newContext_takes (unused : ¬ s.changeInUse a e = true) (takes : e.take = true) : ∃ p n r,
    (s.newContext a e).take = some (p, n) ∧ n.val = e.takeSlot ∧ s.probes.get n = some r ∧ r.place = .stored p
      ∧ (s.newContext a e).takeReach = r.reach := by
  rw [changeInUse_iff, not_or] at unused
  obtain ⟨n, r, p, slot, record, place⟩ := Classical.not_not.1 (fun none => unused.2 ⟨takes, none⟩)
  have found : s.takeOf e = some (p, n) := takeOf_iff.2 ⟨slot, r, record, place⟩
  exact ⟨p, n, r, by simp [State.newContext, takes, found], slot, record, place, by simp [State.newContext, found, State.slotReach, record]⟩

/-- State u is s with the context k formed and the request answered (R148). -/
structure Formed (s : State) (a : Arm) (k : Context) (u : State) : Prop where
  links : u.links = (answered s a.link .ok .none).links
  motion : u.motion = s.motion
  axes : u.axes = s.axes
  rack : u.rack = s.rack
  settings : u.settings = s.settings
  change : u.change = s.change.set a (some k)
  holders : u.holders = s.holders
  waiters : u.waiters = s.waiters
  zones : u.zones = s.zones

theorem Begun.formed {k : Context} {t : State} (begun : Begun a k s t) : Formed s a k (answered t a.link .ok .none) := by
  have shape := begun.shape
  generalize t.probes = ps at shape
  generalize t.pockets = ks at shape
  subst shape
  exact ⟨rfl, rfl, rfl, rfl, rfl, rfl, rfl, rfl, rfl⟩

/-- A granted RACK zone on a state whose context has just been formed. -/
theorem rackGranted_kept {u : State} {k : Context} (change : u.change = s.change.set a (some k)) (rack : u.rack = s.rack) (z : ZoneId)
    (timer : Timer) : ExceptZones { u with
      change := s.change.set a (some { k with step := .opening }), rack := { s.rack with req := true, rackTimer := some timer } }
      (u.rackGranted a k z timer) := by
  unfold ExceptZones
  simp only [State.rackGranted, change, rack, PerArm.set_set]

theorem opensUp_kept {u : State} {k : Context} (change : u.change = s.change.set a (some k)) (rack : u.rack = s.rack) (z : ZoneId)
    (timer step : Timer) : ExceptZones (State.raise { u with
      change := s.change.set a (some { k with step := if k.drop = none then .awaitPick else .awaitDrop })
      rack := { s.rack with req := true, rackTimer := none, stepTimer := some step } } a.link .changeStep)
      ((u.rackGranted a k z timer).opensUp a { k with step := .opening } step) := by
  unfold ExceptZones
  simp only [State.opensUp, State.rackGranted, change, rack, PerArm.set_set]
  rfl

/-- What stands of a change refused for a deadlock (R121, R155). -/
theorem refused_stands {u t : State} {k : Context} (tables : Tables u) (alone : HeadAlone a.other t)
    (ends : Over a k (.failed .deadlock) { u.raiseAll .deadlock with waiters := [], motion := t.motion, axes := t.axes }
      { t with waiters := [] }) : Ended u t a k (.failed .deadlock) ∧ (∀ l, .deadlock ∈ (t.links.get l).flags)
      ∧ .changeEnded ∈ (t.links.get a.link).flags ∧ Noticed (u.links.get a.link) (t.links.get a.link) ∧ ∀ x ∈ t.waiters, x.arm ≠ a := by
  have others : ∀ x ∈ t.waiters, x.arm ≠ a := by
    intro x mem
    rcases alone with none | ⟨zs, one⟩
    · rw [none] at mem
      cases mem
    · rw [one, List.mem_singleton] at mem
      rw [mem]
      exact a.other_ne
  have noticed : Noticed (u.links.get a.link) ((u.raiseAll .deadlock).links.get a.link) :=
    State.raise_noticed (State.raise_noticed (State.raise_noticed ⟨_, _, rfl⟩ _ _) _ _) _ _
  have whole : Tables { u.raiseAll .deadlock with waiters := [], motion := t.motion, axes := t.axes } := Tables_same tables rfl rfl
  obtain ⟨gone, noted, unheld, -, same, past, restored⟩ := ends.ended whole
  exact ⟨⟨gone, noted, unheld, fun x mem own => absurd own (others x mem), same, past, restored⟩,
    fun l => ends.told.2 l _ (State.raiseAll_raised u _ l), ends.told.1, Noticed_trans noticed (ends.noticed a.link), others⟩

theorem RackHeld_req {k : Option Context} (racks : RackHeld s) (free : s.change.get a = none)
    {u : State} (change : u.change = s.change.set a k) : (s.rack.req && u.asksOpen a.other) = s.rack.req := by
  cases req : s.rack.req with
  | false => rfl
  | true =>
    obtain ⟨b, c, stands, step⟩ := racks.2 req
    obtain rfl : b = a.other := (a.eq_or_other b).resolve_left fun own => by
      rw [own, free] at stands
      cases stands
    rw [Bool.true_and, State.asksOpen, change, PerArm.get_set_ne _ _ a.other_ne, stands]
    rcases step with is | is | is | is <;> simp [is]

theorem Formed.opening {u : State} {k : Context} {z : ZoneId} (formed : Formed s a k u) (wait : k.step = .waitRack)
    (idle : (s.motion.get a).phase = .idle) (zone : s.rackZone = some z) (unawaited : s.waiters = []) (unheld : s.holders.get z = none)
    (shut : s.rack.isOpen = false) : ∃ t, settle (u, [.requestRack a]) = t ∧ t.holders.get z = some (a, .change)
      ∧ ExceptZones { u with
        change := s.change.set a (some { k with step := .opening })
        rack := { s.rack with req := true, rackTimer := some ⟨s.settings.rackTimeout * 1000000, 0⟩ } } t := by
  obtain ⟨t, settles, held, kept⟩ := settle_requestRack_opening (s := u) (a := a) (k := k) (by rw [formed.change, PerArm.get_set]) wait
    ((rackZone_of_zones formed.zones).trans zone) (formed.waiters.trans unawaited) (by rw [formed.motion, idle]; rfl)
    (by rw [formed.holders]; exact unheld) (by rw [formed.rack]; exact shut)
  rw [formed.settings] at kept
  exact ⟨t, settles, held, ExceptZones_trans (rackGranted_kept formed.change formed.rack z _) kept⟩

theorem Formed.opens {u : State} {k : Context} {z : ZoneId} (formed : Formed s a k u) (wait : k.step = .waitRack)
    (idle : (s.motion.get a).phase = .idle) (zone : s.rackZone = some z) (unawaited : s.waiters = []) (unheld : s.holders.get z = none)
    (is_open : s.rack.isOpen = true) : ∃ t, settle (u, [.requestRack a]) = t ∧ t.holders.get z = some (a, .change)
      ∧ ExceptZones (State.raise { u with
        change := s.change.set a (some { k with step := if k.drop = none then .awaitPick else .awaitDrop })
        rack := { s.rack with req := true, rackTimer := none, stepTimer := some ⟨s.settings.stepTimeout * 10000000, 0⟩ } } a.link
        .changeStep) t := by
  obtain ⟨t, settles, held, kept⟩ := settle_requestRack_opens (s := u) (a := a) (k := k) (by rw [formed.change, PerArm.get_set]) wait
    ((rackZone_of_zones formed.zones).trans zone) (formed.waiters.trans unawaited) (by rw [formed.motion, idle]; rfl)
    (by rw [formed.holders]; exact unheld) (by rw [formed.rack]; exact is_open)
  rw [formed.settings] at kept
  exact ⟨t, settles, held, ExceptZones_trans (opensUp_kept formed.change formed.rack z _ _) kept⟩

theorem Formed.waits {u : State} {k : Context} {z : ZoneId} (formed : Formed s a k u) (zone : s.rackZone = some z)
    (unawaited : s.waiters = []) (held : s.holders.get z ≠ none) : ∃ t, settle (u, [.requestRack a]) = t
      ∧ ExceptZones { u with waiters := [⟨a, .change, [z]⟩] } t := by
  obtain ⟨r, holder⟩ := Option.ne_none_iff_exists'.1 held
  exact settle_requestRack_waits ((rackZone_of_zones formed.zones).trans zone) (formed.waiters.trans unawaited)
    (by rw [formed.holders]; exact holder)

/-- A request refused for a deadlock (R121). -/
theorem Formed.refused {u : State} {k : Context} {z y : ZoneId} {why w : HoldWhy} {zs : List ZoneId} (formed : Formed s a k u) (tables : Tables u)
    (free : s.change.get a = none) (wait : k.step = .waitRack) (idle : (s.motion.get a).phase = .idle) (zone : s.rackZone = some z)
    (entry : s.waiters = [⟨a.other, .segment, zs⟩]) (blocks : s.holders.get z = some (a.other, why)) (wanted : y ∈ zs)
    (keeps : s.holders.get y = some (a, w)) (tight : NoLoose s a) :
    ∃ t, settle (u, [.requestRack a]) = t ∧ Ended u t a k (.failed .deadlock)
      ∧ (∀ l, .deadlock ∈ (t.links.get l).flags) ∧ .changeEnded ∈ (t.links.get a.link).flags
      ∧ (t.links.get a.link).response = some ⟨.ok, .none⟩ ∧ t.motion.get a = s.motion.get a
      ∧ t.axes.get a = s.axes.get a ∧ (RackHeld s → t.rack = s.rack) ∧ ∀ x ∈ t.waiters, x.arm ≠ a := by
  obtain ⟨t, settles, alone, still, stays, ends⟩ := settle_requestRack_refused (s := u) (a := a) (k := k) (z := z) (y := y) (why := why)
    (w := w) (zs := zs) (by rw [formed.change, PerArm.get_set]) wait (by rw [formed.motion, idle]; nofun) ((rackZone_of_zones formed.zones).trans zone)
    (formed.waiters.trans entry) (by rw [formed.holders]; exact blocks) wanted (by rw [formed.holders]; exact keeps)
    (fun x r held => tight x r (by rw [← formed.holders]; exact held))
  obtain ⟨ended, deadlocked, told, noticed, others⟩ := refused_stands tables alone ends
  have waited : t.rack = { u.rack with req := u.rack.req && u.asksOpen a.other } := ends.waited wait
  rw [formed.links] at noticed
  refine ⟨t, settles, ended, deadlocked, told, Noticed_response noticed, by rw [still, formed.motion], by rw [stays, formed.axes], fun racks => ?_, others⟩
  rw [waited, formed.rack, RackHeld_req racks free formed.change]

end

/-- Settles O51: the checks by the order they stand in, the context by what `newContext_begun` says of the tables, and the request
for the RACK zone by who holds it. -/
theorem changeRequested : Obligations.ChangeRequested := by
  intro a e s taken c m wrong noZone given bad used
  obtain ⟨c1, c2, c3, c4, c5, goes⟩ := requestChange_goes taken
  have zoneless : s.rackZone = none ↔ noZone := rackZone_none
  have bad_iff : s.badChange a e = true ↔ bad := badChange_iff
  have used_iff : s.changeInUse a e = true ↔ used := changeInUse_iff
  have some_zone : ¬ noZone → s.rackZone ≠ none := fun zoned none => zoned (zoneless.1 none)
  refine ⟨c1, fun right none => c2 right (zoneless.2 none), fun right zoned => c3 right (some_zone zoned),
    fun right zoned fault is => c4 right (some_zone zoned) fault (bad_iff.2 is),
    fun right zoned fault isnt is => c5 right (some_zone zoned) fault (mt bad_iff.1 isnt) (used_iff.2 is),
    fun z right zone fault isnt unused => ?_⟩
  have good := mt bad_iff.1 isnt
  have open_ := mt used_iff.1 unused
  have does := goes right (by rw [zone]; nofun) fault good open_
  have free : s.change.get a = none := by
    refine Classical.byContradiction fun some => ?_
    exact right (.inr (.inr (.inl some)))
  have idle : (s.motion.get a).phase = .idle := by
    refine Classical.byContradiction fun other => ?_
    exact right (.inl other)
  have begun := newContext_begun (e := e) free
  have formed := begun.formed
  have ends : ∀ {t}, settle (answered (s.startChange a (s.newContext a e)) a.link .ok .none, [.requestRack a]) = t → Goes c s t :=
    fun same => does.trans (congrArg _ same)
  have agree : Tables s → Tables (answered (s.startChange a (s.newContext a e)) a.link .ok .none) := fun whole =>
    Tables_same (tables.startChange s a e (by rw [free]; rfl) (Bool.eq_false_iff.2 good) (Bool.eq_false_iff.2 open_) whole) rfl rfl
  have next : (if (s.newContext a e).drop = none then Step.awaitPick else .awaitDrop) = if e.drop = true then .awaitDrop else .awaitPick := by
    by_cases drops : e.drop = true
    · obtain ⟨p, -, drop⟩ := newContext_drops good drops
      rw [drop, if_pos drops]
      rfl
    · rw [if_neg drops, State.newContext, if_neg drops]
      rfl
  intro k u dropped at_
  refine ⟨⟨rfl, rfl, rfl, rfl, rfl⟩, fun none => ?_, fun none => ?_, fun drops => ?_, newContext_takes open_, begun.shape, begun.pockets,
    begun.probes, fun unawaited unheld shut => ?_, fun unawaited unheld opened closed => ?_, fun unawaited held => ?_,
    fun why zs y w entry blocks wanted keeps tight whole => ?_⟩
  · simp [k, State.newContext, none]
  · simp [k, State.newContext, none]
  · obtain ⟨p, given, drop⟩ := newContext_drops good drops
    refine ⟨p, given, drop, fun unknown => ?_, fun n r mount record => ?_⟩
    · simp only [k, State.newContext, State.droppedOf, unknown, State.moduleReach, maxReach]
    · simp only [k, State.newContext, State.droppedOf, mount, State.moduleReach, State.slotReach, record, Option.map_some, Option.getD_some]
  · obtain ⟨t, settles, held, kept⟩ := formed.opening rfl idle zone unawaited unheld (by simpa [Rack.isOpen] using shut)
    exact ⟨t, ends settles, held, kept⟩
  · obtain ⟨t, settles, held, kept⟩ := formed.opens rfl idle zone unawaited unheld (by simp [Rack.isOpen, opened, closed])
    rw [next] at kept
    exact ⟨t, ends settles, held, kept⟩
  · obtain ⟨t, settles, kept⟩ := formed.waits zone unawaited held
    exact ⟨t, ends settles, kept⟩
  · obtain ⟨t, settles, stands⟩ := formed.refused (agree whole) free rfl idle zone entry blocks wanted keeps tight
    exact ⟨t, ends settles, stands⟩

end Sys2Proof.Machine
end
section
/-! PROOFS. The expiry at which a segment ends: its frame, its result, and a pending ARM RESET (R60, R86, R88, R100). -/
namespace Sys2Proof.Machine
open Sys2Proof.Safety

/-! ### The expiry -/

/-- An expiry that takes the active segment to its end: the last step with its frame, and the standing setpoints (R60, R86). -/
def State.ending (s : State) (a : Arm) (w : Working) (sp : Vec3) : State :=
  (((s.expired a).modMotion a fun m => { m with active := some w }).modAxes a (·.sendSetpoints sp)).setStanding a sp

/-- The velocity of the step a segment makes at an expiry (R85, R88). -/
def Working.stepVelocity (w : Working) (s : State) (a : Arm) : Nat :=
  match w.status with
  | .active => w.nextVelocity (s.cal.get a).a (s.motion.get a).override
  | .stopping _ => w.rampVelocity (s.cal.get a).aStop

section
variable {s : State} {a : Arm} {w : Working} {o : Outcome}

theorem setpointExpiry_ends (ready : s.startup = .ready) (den : (s.axes.get a).den = true)
    (passes : (s.axes.get a).strays (s.cal.get a).followingLimit = false) (active : (s.motion.get a).active = some w)
    (ends : (w.status = .active ∧ w.p + w.stepVelocity s a = w.len ∧ o = endOutcome w.seg.move)
      ∨ (w.status = .stopping o ∧ w.stepVelocity s a = 0)) :
    setpointExpiry a s = (s.ending a (w.step (w.stepVelocity s a)) (w.step (w.stepVelocity s a)).setpoints, [.segmentEnd a o]) := by
  have step : (s.expired a).motionStep a
      = ((w.step (w.stepVelocity s a)).setpoints, some (w.step (w.stepVelocity s a)), some o) := by
    rcases ends with ⟨status, reaches, rfl⟩ | ⟨status, stands⟩
    · have velocity : w.stepVelocity s a = w.nextVelocity (s.cal.get a).a (s.motion.get a).override := by
        rw [Working.stepVelocity, status]
      rw [velocity] at reaches ⊢
      rw [motionStep_active (s := s.expired a) active status]
      exact congrArg (fun e => (_, _, e)) (if_pos reaches)
    · have velocity : w.stepVelocity s a = w.rampVelocity (s.cal.get a).aStop := by rw [Working.stepVelocity, status]
      rw [velocity] at stands ⊢
      rw [motionStep_stopping (s := s.expired a) active status]
      exact congrArg (fun e => (_, _, e)) (if_pos stands)
  rw [setpointExpiry_passed ready den passes, expiryStep, step]
  rfl

/-- The state in which a segment has ended at an expiry, before what the end sets off (R86, R96). -/
def State.endedAt (s : State) (a : Arm) (w : Working) (sp : Vec3) (o : Outcome) : State := (s.ending a w sp).finish a w o

/-- The axes after the last frame of a segment (R59, R60). -/
def AxisUnit.arrive (u : AxisUnit) (sp : Vec3) : AxisUnit :=
  { u.clearSkips.sendSetpoints sp with axis := .of fun i => { (u.clearSkips.sendSetpoints sp).axis.get i with standing := sp.get i } }

theorem State.ending_shape (s : State) (a : Arm) (w : Working) (sp : Vec3) : s.ending a w sp = { s with
    timers := (s.modTimer a SetpointTimer.startPeriod).timers, motion := s.motion.set a { s.motion.get a with active := some w }
    axes := s.axes.set a ((s.axes.get a).arrive sp) } := by
  simp only [State.ending, State.expired, State.setStanding, State.modAxes, State.modMotion, State.modTimer, PerArm.get_set, PerArm.set_set,
    AxisUnit.arrive]

theorem State.finish_shape (s : State) (a : Arm) (w : Working) (o : Outcome) : ∃ n rs links, s.finish a w o = { s with
    motion := s.motion.set a { s.motion.get a with active := none, results := rs, resultCount := n }, links := links } := by
  simp only [State.finish, State.addResult, State.modMotion, State.raise, State.modLink, PerArm.get_set, PerArm.set_set]
  exact ⟨_, _, _, rfl⟩

theorem State.endedAt_shape (s : State) (a : Arm) (w : Working) (sp : Vec3) (o : Outcome) : ∃ timers n rs links,
    s.endedAt a w sp o = { s with
      timers := timers, axes := s.axes.set a ((s.axes.get a).arrive sp), links := links
      motion := s.motion.set a { s.motion.get a with active := none, results := rs, resultCount := n } } := by
  obtain ⟨n, rs, links, shape⟩ := (s.ending a w sp).finish_shape a w o
  refine ⟨(s.modTimer a SetpointTimer.startPeriod).timers, n, rs, links, ?_⟩
  rw [State.endedAt, shape, State.ending_shape]
  simp only [PerArm.get_set, PerArm.set_set]

/-- The machine position and the references do not change with the frame. -/
theorem State.endedAt_box (s : State) (a b : Arm) (w : Working) (sp : Vec3) (o : Outcome) :
    (s.endedAt a w sp o).standingSet b = s.standingSet b ∧ (s.endedAt a w sp o).unreferenced b = s.unreferenced b := by
  obtain ⟨timers, n, rs, links, shape⟩ := s.endedAt_shape a w sp o
  rw [shape]
  cases a <;> cases b <;> exact ⟨rfl, rfl⟩

theorem State.endedAt_done (s : State) (a : Arm) (w : Working) (sp : Vec3) (o : Outcome) :
    ((s.endedAt a w sp o).modMotion a fun m => { m with holdPending := false })
      = (((((s.modTimer a SetpointTimer.startPeriod).modAxes a AxisUnit.clearSkips).modAxes a (·.sendSetpoints sp)).setStanding a
          sp).modMotion a fun m => { m with active := none, holdPending := false }).addResult a w.seg.tag o := by
  simp only [State.endedAt, State.finish, State.ending, State.expired, State.setStanding, State.addResult, State.modAxes, State.modMotion,
    State.modTimer, State.raise, State.modLink, PerArm.get_set, PerArm.set_set]

theorem resetDone_unheld (s : State) (a : Arm) : resetDone (s.modMotion a fun m => { m with holdPending := false }) a = resetDone s a := by
  simp only [resetDone, State.modMotion, PerArm.get_set, PerArm.set_set]

/-! ### The end of a segment with a pending ARM RESET -/

theorem segmentEnd_resets (active : (s.motion.get a).active = some w) (pending : (s.motion.get a).resetPending = true) (o : Outcome) :
    perform (.segmentEnd a o) s = (s.finish a w o, [.recomputeEnd a w.needed, .completeReset a]) := by
  simp only [perform, segmentEnd, active, pending, if_true, State.finish]

theorem segmentEnd_rests (active : (s.motion.get a).active = some w) (unreset : (s.motion.get a).resetPending = false) (o : Outcome) :
    perform (.segmentEnd a o) s = (s.finish a w o, [.recomputeEnd a w.needed, .afterEnd a o, .settleZones a]) := by
  simp only [perform, segmentEnd, active, unreset, Bool.false_eq_true, if_false, State.finish]

/-- A pending ARM RESET completes at the end of a segment, while no arm waits (R100, R101). -/
theorem runs_segmentEnd_resets (active : (s.motion.get a).active = some w) (pending : (s.motion.get a).resetPending = true)
    (inert : Inert s a) (unawaited : s.waiters = []) (o : Outcome) :
    ∃ t, Runs 15 [.segmentEnd a o] s t ∧ NoLoose t a ∧ ExceptZones (resetDone (s.finish a w o) a) t := by
  obtain ⟨n, rs, links, shape⟩ := s.finish_shape a w o
  have clear : (s.finish a w o).waiters = [] := by rw [shape]; exact unawaited
  have change : (s.finish a w o).change = s.change := by rw [shape]
  have does := segmentEnd_resets active pending o
  clear shape
  generalize s.finish a w o = f at *
  obtain ⟨u, recompute, kept⟩ := Runs.of_contained (recomputeEnd_contained a w.needed) clear
  have u_clear : u.waiters = [] := (ExceptZones_waiters kept).trans clear
  obtain ⟨t, completes, loose, done⟩ := runs_completeReset (s := u) (a := a) (inert_congr (by rw [kept, change]) inert) (.inl u_clear)
  rw [unwaited_of_unawaited u_clear] at done
  exact ⟨t, Runs.piece does (recompute.cons completes), loose, ExceptZones_trans (ExceptZones_resetDone kept a) done⟩

/-! ### The end of a segment beside the entry of the arm's change -/

/-- The entry of a change stands alone, for a zone the other arm holds. -/
def State.Blocked (s : State) (a : Arm) (z : ZoneId) (why : HoldWhy) : Prop :=
  s.waiters = [⟨a, .change, [z]⟩] ∧ s.holders.get z = some (a.other, why)

section
variable {z : ZoneId} {why : HoldWhy} {x : Task}

theorem State.Blocked.ungranted (blocked : s.Blocked a z why) : ∀ x ∈ s.waiters, s.grantable x = false := by
  intro x mem
  rw [blocked.1, List.mem_singleton] at mem
  simp [mem, State.grantable, blocked.2, a.other_ne]

theorem runs_release_beside_entry (blocked : s.Blocked a z why) (zs : List ZoneId) :
    ∃ t, Runs 2 [.release a zs] s t ∧ ExceptZones s t ∧ t.Blocked a z why := by
  have stands : ∀ t, Released a zs s t → t.Blocked a z why := fun t released =>
    ⟨(ExceptZones_waiters released.kept).trans blocked.1,
      (released.stays z (.inr fun w held => by rw [blocked.2] at held; exact a.other_ne (congrArg Prod.fst (Option.some.inj held)))).trans
        blocked.2⟩
  obtain ⟨t, run, released⟩ := runs_release_blocked (s := s) (a := a) (zs := zs) fun t released => (stands t released).ungranted
  exact ⟨t, run, released.kept, stands t released⟩

theorem runs_linger_beside_entry (blocked : s.Blocked a z why) : ∃ t, Runs 3 [.linger a] s t ∧ ExceptZones s t ∧ t.Blocked a z why := by
  have timed : ∀ l zs, perform (.linger a) s = ({ s with linger := l }, [.release a zs]) →
      ∃ t, Runs 3 [.linger a] s t ∧ ExceptZones s t ∧ t.Blocked a z why := fun l zs does => by
    obtain ⟨t, run, kept, stands⟩ := runs_release_beside_entry (s := { s with linger := l }) blocked zs
    exact ⟨t, Runs.piece does run, ExceptZones_trans (t := { s with linger := l }) rfl kept, stands⟩
  by_cases none : (s.heldFor a .linger).isEmpty = true
  · exact ⟨{ s with linger := s.linger.set a Option.none }, (Runs.piece (x := .linger a) (e := (_, []))
      (by simp only [perform, startLinger, none, if_true]) (Runs.nil _)).mono (by decide), rfl, blocked⟩
  by_cases zero : s.settings.linger = 0
  · exact timed s.linger (s.heldFor a .linger) (by simp only [perform, startLinger, none, zero, if_true, if_false, Bool.false_eq_true])
  · exact timed (s.linger.set a (some ⟨s.settings.linger * 10000, 0⟩)) ((s.heldFor a .linger).filter fun z => (((s.entry a.other).map (·.needed)).getD []).contains z)
      (by simp only [perform, startLinger, none, zero, if_false, Bool.false_eq_true])

theorem runs_recompute_beside_entry {needed : List ZoneId} (blocked : s.Blocked a z why) (settled : (s.motion.get a).phase ≠ .waiting .zone)
    (does : perform x s = recompute a needed s) : ∃ t, Runs 4 [x] s t ∧ ExceptZones s t ∧ t.Blocked a z why := by
  by_cases loading : s.startup = .loading
  · exact ⟨s, (Runs.piece (e := (s, [])) (by rw [does]; simp only [recompute, loading, if_true]) (Runs.nil s)).mono (by decide), rfl, blocked⟩
  have core : perform x s = recomputeCore a needed s := by
    rw [does]
    simp [recompute, loading, settled]
  have reformed := recomputeCore_reformed a needed s
  have stands : (recomputeCore a needed s).1.Blocked a z why :=
    ⟨(ExceptZones_waiters reformed.kept).trans blocked.1, reformed.others z why blocked.2⟩
  cases enabled : denOf (s.motion.get a).phase with
  | true =>
    obtain ⟨t, run, kept, still⟩ := runs_linger_beside_entry stands
    have sets_off : (recomputeCore a needed s).2 = [.linger a] := by simp only [recomputeCore, enabled, if_true]
    exact ⟨t, Runs.piece core (sets_off ▸ run), ExceptZones_trans reformed.kept kept, still⟩
  | false =>
    obtain ⟨t, run, kept, still⟩ := runs_release_beside_entry stands
      ((s.heldFor a .standing ++ s.heldFor a .claim).filter fun z => !(s.standingSet a).contains z)
    have sets_off : (recomputeCore a needed s).2 = [.release a ((s.heldFor a .standing ++ s.heldFor a .claim).filter fun z =>
      !(s.standingSet a).contains z)] := by simp only [recomputeCore, enabled, Bool.false_eq_true, if_false]
    exact ⟨t, (Runs.piece core (sets_off ▸ run)).mono (by decide), ExceptZones_trans reformed.kept kept, still⟩

end

/-- The recompute at a segment's end, where no entry waits but the change's, for a zone the other arm holds (R109, R112). -/
theorem runs_recomputeEnd_lonely {k : Context} (lonely : Lonely s a k) (needed : List ZoneId) :
    ∃ t, Runs 4 [.recomputeEnd a needed] s t ∧ ExceptZones s t ∧ Lonely t a k := by
  rcases lonely with unawaited | ⟨wait, settled, z, why, entry, held⟩
  · obtain ⟨t, run, kept⟩ := Runs.of_contained (recomputeEnd_contained a needed) unawaited
    exact ⟨t, run, kept, .inl ((ExceptZones_waiters kept).trans unawaited)⟩
  · obtain ⟨t, run, kept, stands⟩ := runs_recompute_beside_entry (x := .recomputeEnd a needed) ⟨entry, held⟩ settled rfl
    exact ⟨t, run, kept, .inr ⟨wait, by rw [kept]; exact settled, z, why, stands⟩⟩

end

end Sys2Proof.Machine
end
section
/-! PROOFS. The end of a segment with what it does to the arm's change (R96, R100, R162). -/
namespace Sys2Proof.Machine
open Sys2Proof.Safety

section
variable {s : State} {a : Arm} {w : Working} {k : Context} {o : ChangeOutcome}

/-- What stands after the end of a change stands while only zones change. -/
theorem Over.later {t u : State} (ends : Over a k o s t) (kept : ExceptZones t u) (parted : Parted a u) : Over a k o s u := by
  obtain ⟨holders, standing, deferred, linger, handover, same⟩ := ExceptZones_update kept
  have shape := ends.shape
  refine ⟨parted, ?_, fun wait => ?_, fun past => ?_, fun is => ?_, fun is => ?_, fun undone => ?_⟩
  · rw [same, shape]
  · rw [same]
    exact ends.waited wait
  · rw [same]
    exact ends.past past
  · rw [same]
    exact ends.done is
  · rw [same]
    exact ends.quiet is
  · obtain ⟨r, v, probes, pockets, restored, emptied, surveyed⟩ := ends.surveyed undone
    refine ⟨r, { v with holders := holders, standing := standing, deferred := deferred, linger := linger, handover := handover },
      probes, pockets, restored, emptied, ?_⟩
    rw [same]
    refine ⟨?_, surveyed.runs, surveyed.stays, surveyed.moved, surveyed.seated, surveyed.empty⟩
    rw [surveyed.shape]

/-- A contact ramp ends while a change in WAIT_RACK or OPENING stands: it ends FAILED(ARM) (R96, R162). -/
theorem runs_segmentEnd_crash_early (active : (s.motion.get a).active = some w) (unreset : (s.motion.get a).resetPending = false)
    (change : s.change.get a = some k) (early : k.step = .waitRack ∨ k.step = .opening) (lonely : Lonely s a k) :
    ∃ u t, Runs 30 [.segmentEnd a .contact] s t ∧ Over a k (.failed .arm) u t ∧ ((u.motion.get a).phase = .collision
        ∧ (u.motion.get a).queue = [] ∧ (u.motion.get a).active = none)
      ∧ u.change = s.change ∧ u.lastChange = s.lastChange ∧ steady u = steady s ∧ u.probes = s.probes ∧ u.pockets = s.pockets := by
  obtain ⟨n, rs, links, shape⟩ := s.finish_shape a w .contact
  have does := segmentEnd_rests active unreset .contact
  have f_lonely : Lonely (s.finish a w .contact) a k := by
    rw [shape]
    unfold Lonely
    rw [PerArm.get_set]
    exact lonely
  have f_active : ((s.finish a w .contact).motion.get a).active = none := by
    rw [shape, PerArm.get_set]
  have f_same : (s.finish a w .contact).change = s.change ∧ (s.finish a w .contact).lastChange = s.lastChange
      ∧ steady (s.finish a w .contact) = steady s ∧ (s.finish a w .contact).probes = s.probes
      ∧ (s.finish a w .contact).pockets = s.pockets := by
    rw [shape]
    exact ⟨rfl, rfl, rfl, rfl, rfl⟩
  clear shape
  generalize s.finish a w .contact = f at *
  obtain ⟨u, recompute, kept, u_lonely⟩ := runs_recomputeEnd_lonely f_lonely w.needed
  have lasting : u.Lasting a := by
    rcases u_lonely with unawaited | ⟨-, settled, -⟩
    · exact .inr (.inr unawaited)
    · exact .inr (.inl settled)
  obtain ⟨m, links, crashed, fields⟩ := State.crashes_shape lasting
  have c_lonely : Lonely (u.crashes a) a k := by
    rw [crashed]
    unfold Lonely
    rw [PerArm.get_set, fields]
    rcases u_lonely with unawaited | ⟨wait, -, stands⟩
    · exact .inl unawaited
    · exact .inr ⟨wait, nofun, stands⟩
  have c_same : (u.crashes a).change = u.change ∧ (u.crashes a).lastChange = u.lastChange ∧ steady (u.crashes a) = steady u
      ∧ (u.crashes a).probes = u.probes ∧ (u.crashes a).pockets = u.pockets := by
    rw [crashed]
    exact ⟨rfl, rfl, rfl, rfl, rfl⟩
  have u_same : u.change = f.change ∧ u.lastChange = f.lastChange ∧ steady u = steady f ∧ u.probes = f.probes ∧ u.pockets = f.pockets := by
    rw [kept]
    exact ⟨rfl, rfl, rfl, rfl, rfl⟩
  obtain ⟨c_change, c_last, c_steady, c_probes, c_pockets⟩ := c_same
  obtain ⟨u_change, u_last, u_steady, u_probes, u_pockets⟩ := u_same
  obtain ⟨f_change, f_last, f_steady, f_probes, f_pockets⟩ := f_same
  have stands : (u.crashes a).change.get a = some k := by rw [c_change, u_change, f_change, change]
  obtain ⟨v, stopped, ends⟩ := runs_armStopped_early stands early c_lonely .collision
  obtain ⟨t, settles, later⟩ := Runs.of_contained (settleZones_contained a) ends.frame.2.2.2.2.2.1
  have after := runs_afterEnd_contact lasting stopped
  refine ⟨u.crashes a, t, (Runs.piece does (recompute.cons (after.cons settles))).mono (by decide),
    ends.later later (settles.keeps (Parted_keeps a) ends.parted), ?_, by rw [c_change, u_change, f_change],
    by rw [c_last, u_last, f_last], by rw [c_steady, u_steady, f_steady], by rw [c_probes, u_probes, f_probes],
    by rw [c_pockets, u_pockets, f_pockets]⟩
  rw [crashed, PerArm.get_set, fields]
  refine ⟨rfl, rfl, ?_⟩
  rw [kept]
  exact f_active

/-! ### An ARM RESET completes beside a change -/

/-- The state of an arm whose queue and results an ARM RESET has emptied (R101). -/
def State.emptied (s : State) (a : Arm) : State := (flush a s).1.modMotion a fun m => { m with results := [], resultCount := 0 }

theorem State.emptied_shape (lasting : s.Lasting a) : ∃ m links, s.emptied a = { s with motion := s.motion.set a m, links := links }
    ∧ m.phase = (s.motion.get a).phase ∧ m.queue = [] ∧ m.results = [] := by
  obtain ⟨m, links, flushed, fields⟩ := flush_lasting lasting
  refine ⟨{ m with results := [], resultCount := 0 }, links, ?_, by rw [fields], by rw [fields], rfl⟩
  rw [State.emptied, flushed]
  simp only [State.modMotion, PerArm.get_set, PerArm.set_set]

theorem completeReset_eq (lasting : s.Lasting a) :
    perform (.completeReset a) s = (s.emptied a, [.armStopped a .reset, .finishReset a]) := by
  obtain ⟨m, links, flushed, -⟩ := flush_lasting lasting
  have quiet : (flush a s).2 = [] := by rw [flushed]
  simp only [perform, completeReset, quiet, List.nil_append, State.emptied]

/-- The completion of an ARM RESET after what it does to the change (R101, R162). -/
theorem runs_completeReset_after {n : Nat} {x : State} (lasting : s.Lasting a) (stopped : Runs n [.armStopped a .reset] (s.emptied a) x)
    (clear : x.waiters = []) : ∃ t, Runs (n + 5) [.completeReset a] s t ∧ Runs 4 [.finishReset a] x t ∧ NoLoose t a
      ∧ ExceptZones ((x.clearArm a).modLink a.link LinkState.clearFlags) t := by
  obtain ⟨t, finishes, loose, done⟩ := runs_finishReset (a := a) clear
  exact ⟨t, Runs.piece (completeReset_eq lasting) (stopped.cons finishes), finishes, loose, done⟩

theorem State.clearArm_shape (s : State) (a : Arm) : ∃ m x c links, (s.clearArm a).modLink a.link LinkState.clearFlags = { s with
      motion := s.motion.set a m, axes := s.axes.set a x, capture := c, links := links }
    ∧ m.phase = .off ∧ m.queue = (s.motion.get a).queue ∧ m.results = (s.motion.get a).results ∧ m.resetPending = false
    ∧ (links.get a.link).flags = [] := by
  refine ⟨{ s.motion.get a with override := 100, resetPending := false, holdPending := false, phase := .off },
    (s.axes.get a).drive (denOf .off), ((s.clearArm a).modLink a.link LinkState.clearFlags).capture,
    ((s.clearArm a).modLink a.link LinkState.clearFlags).links, ?_, rfl, rfl, rfl, rfl, ?_⟩
  · simp only [State.clearArm, State.setPhase, State.modMotion, State.modAxes, State.modCapture, State.modLink, PerArm.get_set, PerArm.set_set]
  · simp only [State.modLink_links, PerLink.get_set]
    rfl

/-- What a change leaves ended stays so while the ARM RESET completes. -/
theorem Ended_reset {r x t : State} (ended : Ended r x a k o) (parted : Parted a t) (clear : x.waiters = [])
    (done : ExceptZones ((x.clearArm a).modLink a.link LinkState.clearFlags) t) : Ended r t a k o := by
  obtain ⟨m, y, c, links, shape, -⟩ := x.clearArm_shape a
  rw [shape] at done
  obtain ⟨gone, noted, -, -, same, past, restored⟩ := ended
  unfold Ended
  obtain ⟨holders, standing, deferred, linger, handover, rfl⟩ := ExceptZones_update done
  refine ⟨gone, noted, parted.2, fun w mem => ?_, same, past, restored⟩
  rw [show State.waiters { x with
    motion := x.motion.set a m, axes := x.axes.set a y, capture := c, links := links
    holders := holders, standing := standing, deferred := deferred, linger := linger, handover := handover } = x.waiters from rfl, clear] at mem
  cases mem

/-- The arm after the completion of an ARM RESET (R101). -/
theorem reset_motion {x t : State} (done : ExceptZones ((x.clearArm a).modLink a.link LinkState.clearFlags) t)
    (queue : (x.motion.get a).queue = []) (results : (x.motion.get a).results = []) : (t.motion.get a).phase = .off
      ∧ (t.motion.get a).queue = [] ∧ (t.motion.get a).results = [] ∧ (t.motion.get a).resetPending = false
      ∧ (t.links.get a.link).flags = [] := by
  obtain ⟨m, y, c, links, shape, phase, q, rs, pending, flags⟩ := x.clearArm_shape a
  rw [shape] at done
  rw [done, PerArm.get_set]
  exact ⟨phase, q.trans queue, rs.trans results, pending, flags⟩

/-- An ARM RESET completes and fails the change with its arm (R101, R162). -/
theorem runs_completeReset_fails (change : s.change.get a = some k) (open_ : k.step ≠ .failedOpen) (unclosed : k.step ≠ .closing)
    (lonely : Lonely s a k) (tables : Tables s) : ∃ t, Runs 20 [.completeReset a] s t ∧ Fails s t a k ∧ (t.motion.get a).phase = .off
      ∧ (t.motion.get a).queue = [] ∧ (t.motion.get a).results = [] ∧ (t.motion.get a).resetPending = false
      ∧ (t.links.get a.link).flags = [] ∧ NoLoose t a := by
  have lasting : s.Lasting a := by
    rcases lonely with unawaited | ⟨-, settled, -⟩
    · exact .inr (.inr unawaited)
    · exact .inr (.inl settled)
  obtain ⟨m, links, shape, phase, queue, results⟩ := State.emptied_shape lasting
  have e_motion : (s.emptied a).motion.get a = m := by rw [shape, PerArm.get_set]
  have e_change : (s.emptied a).change.get a = some k := by rw [shape]; exact change
  have e_lonely : Lonely (s.emptied a) a k := by
    rw [shape]
    unfold Lonely
    rw [PerArm.get_set, phase]
    exact lonely
  have e_ended : ∀ {t o}, Ended (s.emptied a) t a k o → Ended s t a k o := fun ended => by
    rw [shape] at ended
    exact ended
  by_cases early : k.step = .waitRack ∨ k.step = .opening
  · obtain ⟨x, stopped, ends⟩ := runs_armStopped_early e_change early e_lonely .reset
    have clear : x.waiters = [] := ends.frame.2.2.2.2.2.1
    have x_motion : x.motion.get a = m := by rw [ends.frame.1, e_motion]
    obtain ⟨t, completes, finishes, loose, done⟩ := runs_completeReset_after lasting stopped clear
    have ended : Ended (s.emptied a) x a k (.failed .arm) := ends.ended (by rw [shape]; exact Tables_same tables rfl rfl)
    have parted : Parted a t := finishes.keeps (Parted_keeps a) ends.parted
    obtain ⟨off, no_queue, no_results, unreset, flags⟩ := reset_motion done (by rw [x_motion, queue]) (by rw [x_motion, results])
    refine ⟨t, completes.mono (by decide), ⟨fun _ => e_ended (Ended_reset ended parted clear done), fun await => ?_⟩, off, no_queue,
      no_results, unreset, flags, loose⟩
    rcases early with is | is <;> rw [is] at await <;> rcases await with no | no <;> cases no
  · obtain ⟨not_wait, not_opening⟩ := not_or.1 early
    have await : k.step = .awaitDrop ∨ k.step = .awaitPick := by
      cases step : k.step with
      | awaitDrop => exact .inl rfl
      | awaitPick => exact .inr rfl
      | waitRack => exact absurd step not_wait
      | opening => exact absurd step not_opening
      | failedOpen => exact absurd step open_
      | closing => exact absurd step unclosed
    have clear : s.waiters = [] := lonely.resolve_right fun ⟨wait, _⟩ => not_wait wait
    have stopped : Runs 1 [.armStopped a .reset] (s.emptied a) ((s.emptied a).leftOpen a k .arm) := by
      refine Runs.piece (e := ((s.emptied a).leftOpen a k .arm, [])) ?_ (Runs.nil _)
      rcases await with step | step <;>
        simp [perform, armStopped, State.stepOf_eq e_change, step, State.failOpen_eq e_change]
    have x_clear : ((s.emptied a).leftOpen a k .arm).waiters = [] := by
      rw [shape]
      exact clear
    have x_motion : ((s.emptied a).leftOpen a k .arm).motion.get a = m := by
      rw [← e_motion]
      rfl
    obtain ⟨t, completes, -, loose, done⟩ := runs_completeReset_after lasting stopped x_clear
    obtain ⟨off, no_queue, no_results, unreset, flags⟩ := reset_motion done (by rw [x_motion, queue]) (by rw [x_motion, results])
    refine ⟨t, completes.mono (by decide), ⟨fun is => absurd is early, fun _ => ?_⟩, off, no_queue, no_results, unreset, flags, loose⟩
    obtain ⟨_, _, _, _, cleared, -⟩ := ((s.emptied a).leftOpen a k .arm).clearArm_shape a
    rw [cleared, shape] at done
    rw [done]
    exact ⟨rfl, rfl, rfl, rfl, rfl, rfl, rfl, rfl⟩

/-- A pending ARM RESET completes at the end of a segment and fails the change (R100, R162). -/
theorem runs_segmentEnd_reset_fails (active : (s.motion.get a).active = some w) (pending : (s.motion.get a).resetPending = true)
    (change : s.change.get a = some k) (open_ : k.step ≠ .failedOpen) (unclosed : k.step ≠ .closing) (lonely : Lonely s a k)
    (tables : Tables s) (o : Outcome) : ∃ t, Runs 30 [.segmentEnd a o] s t ∧ Fails s t a k ∧ (t.motion.get a).phase = .off
      ∧ (t.motion.get a).queue = [] ∧ (t.motion.get a).results = [] ∧ (t.motion.get a).resetPending = false
      ∧ (t.links.get a.link).flags = [] ∧ NoLoose t a := by
  obtain ⟨n, rs, links, shape⟩ := s.finish_shape a w o
  have does := segmentEnd_resets active pending o
  have f_lonely : Lonely (s.finish a w o) a k := by
    rw [shape]
    unfold Lonely
    rw [PerArm.get_set]
    exact lonely
  obtain ⟨u, recompute, kept, u_lonely⟩ := runs_recomputeEnd_lonely f_lonely w.needed
  rw [shape] at kept
  obtain ⟨holders, standing, deferred, linger, handover, same⟩ := ExceptZones_update kept
  obtain ⟨t, completes, fails, rest⟩ := runs_completeReset_fails (s := u) (a := a) (k := k) (by rw [same]; exact change) open_ unclosed u_lonely
    (by rw [same]; exact Tables_same tables rfl rfl)
  refine ⟨t, (Runs.piece does (recompute.cons completes)).mono (by decide), ?_, rest⟩
  rw [same] at fails
  exact fails

end

end Sys2Proof.Machine
end
section
/-! PROOFS. What the zone pieces of one arm leave of the other arm's zones (R109, R115 to R117). -/
namespace Sys2Proof.Machine
open Sys2Proof.Safety

/-! ### A property that some pieces keep -/

theorem runTasks_within {P : State → Prop} {Q : Task → Prop}
    (steps : ∀ x s, Q x → P s → P (perform x s).1 ∧ ∀ y ∈ (perform x s).2, Q y) :
    ∀ n ts s, (∀ y ∈ ts, Q y) → P s → P (runTasks n ts s)
  | 0, _, _, _, holds => holds
  | n + 1, [], _, _, holds => holds
  | n + 1, x :: ts, s, within, holds => by
    obtain ⟨kept, set_off⟩ := steps x s (within x (List.mem_cons_self ..)) holds
    refine runTasks_within steps n _ _ (fun y mem => ?_) kept
    rcases List.mem_append.1 mem with new | old
    · exact set_off y new
    · exact within y (List.mem_cons_of_mem _ old)

/-- A property kept by the pieces of a kind, which set off pieces of that kind alone. -/
theorem Runs.within {P : State → Prop} {Q : Task → Prop}
    (steps : ∀ x s, Q x → P s → P (perform x s).1 ∧ ∀ y ∈ (perform x s).2, Q y) {w : Nat} {ts : List Task} {s t : State}
    (run : Runs w ts s t) (all : ∀ y ∈ ts, Q y) (holds : P s) : P t := by
  obtain ⟨k, -, does⟩ := run
  have done := does 0 []
  rw [List.append_nil, runTasks_nil] at done
  exact done ▸ runTasks_within steps _ _ _ all holds

/-! ### The zone pieces of an arm -/

/-- What a zone piece of one arm leaves of the other arm d: its zones are its, what it gains it gains for its standing set, and no
hand-over count is of another holder. -/
structure Abroad (d : Arm) (s t : State) : Prop where
  keeps : ∀ z w, s.holders.get z = some (d, w) → t.holders.get z = some (d, w)
  gains : ∀ z w, t.holders.get z = some (d, w) → s.holders.get z = some (d, w) ∨ w = .standing ∨ w = .claim
  counts : ∀ x ∈ t.handover, ∃ y ∈ s.handover, y.holder = x.holder
  waiters : t.waiters = s.waiters

theorem Abroad.refl (d : Arm) (s : State) : Abroad d s s := ⟨fun _ _ held => held, fun _ _ held => .inl held, fun x mem => ⟨x, mem, rfl⟩, rfl⟩

theorem Abroad_of_same {d : Arm} {s t : State} (holders : t.holders = s.holders) (handover : t.handover = s.handover)
    (waiters : t.waiters = s.waiters) : Abroad d s t :=
  ⟨fun z w held => by rw [holders]; exact held, fun z w held => .inl (by rw [← holders]; exact held),
    fun x mem => ⟨x, by rw [← handover]; exact mem, rfl⟩, waiters⟩

/-- A piece that touches the zones of arm c alone. -/
inductive ZonePiece (c : Arm) : Task → Prop
  | release (zs : List ZoneId) : ZonePiece c (.release c zs)
  | releaseLoose : ZonePiece c (.releaseLoose c)
  | linger : ZonePiece c (.linger c)
  | recompute : ZonePiece c (.recompute c)
  | recomputeOwed : ZonePiece c (.recomputeOwed c)
  | settleZones : ZonePiece c (.settleZones c)
  | activate : ZonePiece c (.activate c)
  | scan : ZonePiece c .scan

section
variable {c : Arm} {s : State}

theorem Released.abroad {zs : List ZoneId} {t : State} (released : Released c zs s t) : Abroad c.other s t := by
  have foreign : ∀ z w, s.holders.get z = some (c.other, w) → ∀ v, s.holders.get z ≠ some (c, v) := fun z w held v own => by
    rw [held] at own
    exact c.other_ne (congrArg Prod.fst (Option.some.inj own))
  refine ⟨fun z w held => (released.stays z (.inr (foreign z w held))).trans held, fun z w held => ?_,
    fun x mem => ⟨x, ((released.handover x).1 mem).1, rfl⟩, ExceptZones_waiters released.kept⟩
  by_cases out : z ∈ zs ∧ ∃ v, s.holders.get z = some (c, v)
  · obtain ⟨mem, v, own⟩ := out
    rw [released.out z v mem own, State.handed] at held
    split at held
    · obtain ⟨-, rfl⟩ := Prod.mk.inj (Option.some.inj held)
      split <;> simp
    · cases held
  · refine .inl ((released.stays z ?_).symm.trans held)
    rcases Classical.not_and_iff_not_or_not.1 out with absent | foreign
    · exact .inl absent
    · exact .inr fun v own => foreign ⟨v, own⟩

theorem release_abroad (zs : List ZoneId) : Abroad c.other s (release c zs s).1 ∧ ∀ y ∈ (release c zs s).2, ZonePiece c y := by
  obtain ⟨released, ⟨-, idle⟩ | ⟨-, scans⟩⟩ := release_spec c zs s
  · refine ⟨released.abroad, ?_⟩
    rw [idle]
    nofun
  · refine ⟨released.abroad, ?_⟩
    rw [scans]
    exact fun y mem => List.mem_singleton.1 mem ▸ .scan

theorem startLinger_abroad : Abroad c.other s (startLinger c s).1 ∧ ∀ y ∈ (startLinger c s).2, ZonePiece c y := by
  have same : Abroad c.other s (startLinger c s).1 := by
    refine Abroad_of_same ?_ ?_ ?_ <;> unfold startLinger <;> dsimp only <;> (repeat' split) <;> rfl
  refine ⟨same, fun y mem => ?_⟩
  unfold startLinger at mem
  dsimp only at mem
  split at mem
  · cases mem
  split at mem
  · exact List.mem_singleton.1 mem ▸ .release _
  · exact List.mem_singleton.1 mem ▸ .release _

/-- A recompute takes no zone from its arm. -/
theorem Reformed.own {needed : List ZoneId} {r : State} (reformed : Reformed c needed s r) {z : ZoneId} {v : HoldWhy}
    (held : s.holders.get z = some (c, v)) : ∃ w, r.holders.get z = some (c, w) := by
  by_cases shared : (s.zones.get z).kind = .shared
  · by_cases inside : z ∈ s.standingSet c
    · exact ⟨_, reformed.inside z v shared held inside⟩
    · by_cases tight : v = .standing ∨ v = .claim
      · exact ⟨_, reformed.outside z v shared held inside tight⟩
      · exact ⟨_, reformed.loose z v held inside (not_or.1 tight).1 (not_or.1 tight).2⟩
  · exact ⟨v, (reformed.unshared z shared).trans held⟩

theorem recomputeCore_abroad (needed : List ZoneId) : Abroad c.other s (recomputeCore c needed s).1
    ∧ ∀ y ∈ (recomputeCore c needed s).2, ZonePiece c y := by
  have reformed := recomputeCore_reformed c needed s
  refine ⟨⟨reformed.others, fun z w held => .inl ?_, fun x mem => ⟨x, by rw [← reformed.handover]; exact mem, rfl⟩,
    ExceptZones_waiters reformed.kept⟩, fun y mem => ?_⟩
  · cases before : s.holders.get z with
    | none =>
      by_cases shared : (s.zones.get z).kind = .shared
      · rw [reformed.free z shared before] at held
        split at held
        · exact absurd (congrArg Prod.fst (Option.some.inj held)) c.other_ne.symm
        · cases held
      · rw [reformed.unshared z shared, before] at held
        cases held
    | some r =>
      obtain ⟨d, v⟩ := r
      rcases c.eq_or_other d with rfl | rfl
      · obtain ⟨w', own⟩ := reformed.own before
        rw [own] at held
        exact absurd (congrArg Prod.fst (Option.some.inj held)) d.other_ne.symm
      · rw [← reformed.others z v before]
        exact held
  · unfold recomputeCore at mem
    dsimp only at mem
    split at mem
    · exact List.mem_singleton.1 mem ▸ .linger
    · exact List.mem_singleton.1 mem ▸ .release _

theorem recompute_abroad (needed : List ZoneId) : Abroad c.other s (recompute c needed s).1 ∧ ∀ y ∈ (recompute c needed s).2, ZonePiece c y := by
  unfold recompute
  split
  · exact ⟨.refl _ _, nofun⟩
  split
  · exact ⟨Abroad_of_same rfl rfl rfl, nofun⟩
  · exact recomputeCore_abroad needed

theorem settleZones_abroad : Abroad c.other s (settleZones c s).1 ∧ ∀ y ∈ (settleZones c s).2, ZonePiece c y := by
  unfold settleZones
  dsimp only
  split
  · exact ⟨.refl _ _, nofun⟩
  · refine ⟨⟨fun z w held => ?_, fun z w held => .inl ?_, fun x mem => ⟨x, mem, rfl⟩, rfl⟩, fun y mem => ?_⟩
    · rw [Table.get_mapIdx, held, if_neg (fun same => c.other_ne (congrArg Prod.fst (Option.some.inj same)))]
    · rw [Table.get_mapIdx] at held
      split at held
      · exact absurd (congrArg Prod.fst (Option.some.inj held)) c.other_ne.symm
      · exact held
    · split at mem
      · cases mem
      · exact List.mem_singleton.1 mem ▸ .linger

theorem activate_abroad : Abroad c.other s (activate c s).1 ∧ ∀ y ∈ (activate c s).2, ZonePiece c y := by
  cases queue : (s.motion.get c).queue with
  | nil =>
    simp only [activate, queue]
    exact ⟨.refl _ _, nofun⟩
  | cons h rest =>
    have does : activate c s = activateZones c (s.work c h (s.motion.get c).geometry).needed (s.begins c h rest (s.motion.get c).geometry) := by
      simp only [activate, queue, State.begins]
    have begun : (s.begins c h rest (s.motion.get c).geometry).holders = s.holders
      ∧ (s.begins c h rest (s.motion.get c).geometry).handover = s.handover
      ∧ (s.begins c h rest (s.motion.get c).geometry).waiters = s.waiters := ⟨rfl, rfl, rfl⟩
    rw [does]
    generalize (s.work c h (s.motion.get c).geometry).needed = needed
    generalize s.begins c h rest (s.motion.get c).geometry = b at begun
    obtain ⟨holders, handover, waiters⟩ := begun
    obtain ⟨fields, -, counts⟩ := activateZones_fields c needed b
    refine ⟨⟨fun z w held => ?_, fun z w held => .inl ?_, fun x mem => ?_, waiters⟩, fun y mem => ?_⟩
    · rw [fields, holders, held, if_neg (fun same => c.other_ne (congrArg Prod.fst (Option.some.inj same.1)))]
    · rw [fields, holders] at held
      split at held
      · exact absurd (congrArg Prod.fst (Option.some.inj held)) c.other_ne.symm
      · exact held
    · rw [counts, handover, List.mem_map] at mem
      obtain ⟨y, old, rfl⟩ := mem
      refine ⟨y, old, ?_⟩
      split <;> rfl
    · unfold activateZones at mem
      exact List.mem_singleton.1 mem ▸ .release _

/-- What a zone piece does but for a waiter scan. -/
theorem zonePiece_abroad {x : Task} (piece : ZonePiece c x) : x = .scan
    ∨ (Abroad c.other s (perform x s).1 ∧ ∀ y ∈ (perform x s).2, ZonePiece c y) := by
  cases piece with
  | release zs => exact .inr (release_abroad zs)
  | releaseLoose => exact .inr (release_abroad (s.loose c))
  | linger => exact .inr startLinger_abroad
  | recompute => exact .inr (recompute_abroad _)
  | recomputeOwed =>
    refine .inr ?_
    simp only [perform, recomputeOwed]
    split
    · obtain ⟨abroad, pieces⟩ := recompute_abroad (c := c) (s := { s with deferred := s.deferred.set c false }) (s.activeNeeds c)
      exact ⟨⟨abroad.keeps, abroad.gains, abroad.counts, abroad.waiters⟩, pieces⟩
    · exact ⟨.refl _ _, nofun⟩
  | settleZones => exact .inr settleZones_abroad
  | activate => exact .inr activate_abroad
  | scan => exact .inl rfl

/-- A waiter scan for arm c's head leaves the other arm no loose zone that it had not (R117). -/
theorem scan_tight (heads : ∀ x ∈ s.waiters, x.arm = c ∧ x.purpose = .segment) (tight : NoLoose s c.other) :
    NoLoose (scan s).1 c.other ∧ (∀ x ∈ (scan s).1.waiters, x.arm = c ∧ x.purpose = .segment) ∧ ∀ y ∈ (scan s).2, ZonePiece c y := by
  cases found : s.waiters.find? fun w => s.grantable w with
  | none =>
    simp only [scan, found]
    exact ⟨tight, heads, nofun⟩
  | some w =>
    obtain ⟨arm, purpose⟩ := heads w (List.mem_of_find?_eq_some found)
    have does : scan s = ((s.dropEntry c).takeZones c w.needed, [.activate c, .recomputeOwed c, .scan]) := by
      simp only [scan, found, purpose, arm]
    rw [does]
    refine ⟨fun z r held => ?_, fun x mem => heads x (List.mem_filter.1 mem).1, fun y mem => ?_⟩
    · simp only [State.takeZones, Table.get_mapIdx] at held
      split at held
      · exact absurd (congrArg Prod.fst (Option.some.inj held)) c.other_ne.symm
      · exact tight z r held
    · simp only [List.mem_cons, List.not_mem_nil, or_false] at mem
      rcases mem with rfl | rfl | rfl
      · exact .activate
      · exact .recomputeOwed
      · exact .scan

/-- The pieces that serve arm c's head leave the other arm without a loose zone. -/
theorem runs_tight {w : Nat} {ts : List Task} {t : State} (run : Runs w ts s t) (pieces : ∀ y ∈ ts, ZonePiece c y)
    (heads : ∀ x ∈ s.waiters, x.arm = c ∧ x.purpose = .segment) (tight : NoLoose s c.other) : NoLoose t c.other := by
  refine (run.within (P := fun s => NoLoose s c.other ∧ ∀ x ∈ s.waiters, x.arm = c ∧ x.purpose = .segment) (Q := ZonePiece c)
    (fun x s piece ⟨tight, heads⟩ => ?_) pieces ⟨tight, heads⟩).1
  rcases zonePiece_abroad (s := s) piece with rfl | ⟨abroad, sets_off⟩
  · obtain ⟨tight', heads', sets_off⟩ := scan_tight heads tight
    exact ⟨⟨tight', heads'⟩, sets_off⟩
  · refine ⟨⟨fun z r held => ?_, by rw [abroad.waiters]; exact heads⟩, sets_off⟩
    rcases abroad.gains z r held with own | rfl | rfl
    · exact tight z r own
    · exact ⟨nofun, nofun⟩
    · exact ⟨nofun, nofun⟩

/-- While no arm waits, the other arm's needed zones stay its, and no count starts, whatever zone pieces of arm c run. -/
def State.Served (s : State) (c : Arm) (zs : List ZoneId) : Prop :=
  s.waiters = [] ∧ (∀ z ∈ zs, ∃ why, s.holders.get z = some (c.other, why)) ∧ ∀ x ∈ s.handover, x.holder ≠ c

theorem Abroad.served {t : State} {zs : List ZoneId} (abroad : Abroad c.other s t) (served : s.Served c zs) : t.Served c zs := by
  obtain ⟨clear, held, counts⟩ := served
  refine ⟨abroad.waiters.trans clear, fun z mem => ?_, fun x mem => ?_⟩
  · obtain ⟨why, own⟩ := held z mem
    exact ⟨why, abroad.keeps z why own⟩
  · obtain ⟨y, old, same⟩ := abroad.counts x mem
    rw [← same]
    exact counts y old

theorem zonePiece_served {x : Task} {zs : List ZoneId} (piece : ZonePiece c x) (served : s.Served c zs) :
    (perform x s).1.Served c zs ∧ ∀ y ∈ (perform x s).2, ZonePiece c y := by
  rcases zonePiece_abroad (s := s) piece with rfl | ⟨abroad, sets_off⟩
  · have idle : perform .scan s = (s, []) := by simp [perform, scan, served.1]
    rw [idle]
    exact ⟨served, nofun⟩
  · exact ⟨abroad.served served, sets_off⟩

theorem runs_served {w : Nat} {ts : List Task} {t : State} {zs : List ZoneId} (run : Runs w ts s t) (pieces : ∀ y ∈ ts, ZonePiece c y)
    (served : s.Served c zs) : t.Served c zs :=
  run.within (P := fun s => s.Served c zs) (Q := ZonePiece c) (fun _ _ piece served => zonePiece_served piece served) pieces served

end

end Sys2Proof.Machine
end
section
/-! PROOFS. The zones an arm gives up while the other arm's head waits for them (R113, R115 to R117). -/
namespace Sys2Proof.Machine
open Sys2Proof.Safety

/-- The other arm's head h waits, alone on the list, for zones that are its own, free, or arm a's to give up; arm a still holds
one of them (R113, R117). -/
structure Offers (a : Arm) (h : Segment) (rest : List Segment) (g : Geometry) (s : State) : Prop where
  entry : s.waiters = [⟨a.other, .segment, g.needed⟩]
  queue : (s.motion.get a.other).queue = h :: rest
  geometry : (s.motion.get a.other).geometry = some g
  aims : h.move.kind ≠ .home
  wanted : ∃ z ∈ g.needed, ∃ why, s.holders.get z = some (a, why)
  loose : ∀ z ∈ g.needed, ∀ why, s.holders.get z = some (a, why) → (why = .segment ∨ why = .linger) ∧ z ∉ s.standing.get a.other

section
variable {s : State} {a : Arm} {h : Segment} {rest : List Segment} {g : Geometry} {x : Task}

theorem Offers.same {t : State} (offers : Offers a h rest g s) (waiters : t.waiters = s.waiters)
    (motion : t.motion.get a.other = s.motion.get a.other) (holders : t.holders = s.holders) (standing : t.standing = s.standing) :
    Offers a h rest g t := by
  obtain ⟨entry, queue, geometry, aims, wanted, loose⟩ := offers
  exact ⟨waiters.trans entry, by rw [motion, queue], by rw [motion, geometry], aims, by rw [holders]; exact wanted,
    by rw [holders, standing]; exact loose⟩

/-- What an arm still holds after a release it held before, and did not release. -/
theorem Released.left {zs : List ZoneId} {t : State} (released : Released a zs s t) {z : ZoneId} {why : HoldWhy}
    (held : t.holders.get z = some (a, why)) : s.holders.get z = some (a, why) ∧ z ∉ zs := by
  by_cases out : z ∈ zs ∧ ∃ v, s.holders.get z = some (a, v)
  · obtain ⟨listed, v, own⟩ := out
    rw [released.out z v listed own] at held
    exact absurd held (State.handed_ne why)
  · have before : s.holders.get z = some (a, why) := by
      refine (released.stays z ?_).symm.trans held
      rcases Classical.not_and_iff_not_or_not.1 out with absent | foreign
      · exact .inl absent
      · exact .inr fun v own => foreign ⟨v, own⟩
    exact ⟨before, fun listed => out ⟨listed, why, before⟩⟩

/-- A release where a head waits: it goes on waiting, or is granted its zones and starts (R117). -/
theorem runs_release_offers {zs : List ZoneId} (does : perform x s = release a zs s) (offers : Offers a h rest g s) :
    ∃ r, Released a zs s r ∧ ((Runs 2 [x] s r ∧ Offers a h rest g r)
      ∨ ∃ t, Runs 10 [x] s t ∧ HeadStarted s t a.other h rest g ∧ (NoLoose r a → NoLoose t a)) := by
  obtain ⟨entry, queue, geometry, aims, ⟨y, y_mem, y_why, y_held⟩, loose⟩ := offers
  obtain ⟨released, acts⟩ := release_spec a zs s
  generalize after : release a zs s = e at released acts
  have motion : e.1.motion = s.motion := by rw [released.kept]
  have r_entry : e.1.waiters = [⟨a.other, .segment, g.needed⟩] := (ExceptZones_waiters released.kept).trans entry
  refine ⟨e.1, released, ?_⟩
  by_cases wanted : ∃ z ∈ g.needed, ∃ why, e.1.holders.get z = some (a, why)
  · refine .inl ⟨?_, r_entry, by rw [motion, queue], by rw [motion, geometry], aims, wanted, fun z mem why held => ?_⟩
    · obtain ⟨z, mem, why, held⟩ := wanted
      have blocked : ∀ w ∈ e.1.waiters, e.1.grantable w = false := fun w listed => by
        rw [r_entry, List.mem_singleton] at listed
        rw [listed, State.grantable, List.all_eq_false]
        exact ⟨z, mem, by simp [held, a.other_ne.symm]⟩
      rcases acts with ⟨-, idle⟩ | ⟨-, scans⟩
      · rw [idle] at after ⊢
        exact (Runs.piece (does.trans after) (Runs.nil s)).mono (by decide)
      · exact Runs.piece (does.trans after) (scans ▸ runs_scan_blocked blocked)
    · rw [released.standing]
      exact loose z mem why (released.left held).1
  · right
    have scans : e.2 = [.scan] := by
      rcases acts with ⟨-, idle⟩ | ⟨-, scans⟩
      · exact absurd ⟨y, y_mem, y_why, by rw [idle]; exact y_held⟩ wanted
      · exact scans
    have free : ∀ z ∈ g.needed, ∀ c why, e.1.holders.get z = some (c, why) → c = a.other := fun z mem c why held =>
      (a.eq_or_other c).resolve_left fun own => wanted ⟨z, mem, why, own ▸ held⟩
    obtain ⟨t, run, head⟩ := runs_scan_grants (s := e.1) (b := a.other) (h := h) (rest := rest) (g := g) r_entry
      (by rw [motion]; exact queue) (by rw [motion]; exact geometry) aims free
    refine ⟨t, Runs.piece (does.trans after) (scans ▸ run), headStarted_of_kept released.kept head, fun tight => ?_⟩
    have kept := runs_tight (c := a.other) run (fun y mem => List.mem_singleton.1 mem ▸ .scan) (by rw [r_entry]; simp)
      (by rw [a.other_other]; exact tight)
    rwa [a.other_other] at kept

/-- The linger timer's start where a head waits: what the arm still holds of the needed zones it holds for SEGMENT (R113, R116). -/
theorem runs_linger_offers (offers : Offers a h rest g s) : ∃ t, Runs 11 [.linger a] s t
    ∧ ((ExceptZones s t ∧ Offers a h rest g t ∧ ∀ z ∈ g.needed, ∀ why, t.holders.get z = some (a, why) → s.holders.get z = some (a, .segment))
      ∨ HeadStarted s t a.other h rest g) := by
  have ends : ∀ l zs, (∀ z ∈ g.needed, s.holders.get z = some (a, .linger) → z ∈ zs) →
      perform (.linger a) s = ({ s with linger := l }, [.release a zs]) → ∃ t, Runs 11 [.linger a] s t
    ∧ ((ExceptZones s t ∧ Offers a h rest g t ∧ ∀ z ∈ g.needed, ∀ why, t.holders.get z = some (a, why) → s.holders.get z = some (a, .segment))
      ∨ HeadStarted s t a.other h rest g) := by
    intro l zs all does
    obtain ⟨r, released, ⟨run, still⟩ | ⟨t, run, head, -⟩⟩ := runs_release_offers (s := { s with linger := l }) (x := .release a zs) rfl
      (offers.same (t := { s with linger := l }) rfl rfl rfl rfl)
    · refine ⟨r, (Runs.piece does run).mono (by decide), .inl ⟨ExceptZones_trans (t := { s with linger := l }) rfl released.kept, still,
        fun z mem why held => ?_⟩⟩
      obtain ⟨before, unlisted⟩ := released.left held
      rcases (offers.loose z mem why before).1 with rfl | rfl
      · exact before
      · exact absurd (all z mem before) unlisted
    · exact ⟨t, Runs.piece does run, .inr (headStarted_of_kept (t := { s with linger := l }) rfl head)⟩
  by_cases none : (s.heldFor a .linger).isEmpty = true
  · have gone := State.heldFor_isEmpty_iff.1 none
    refine ⟨{ s with linger := s.linger.set a Option.none }, (Runs.piece (x := .linger a) (e := (_, []))
      (by simp only [perform, startLinger, none, if_true]) (Runs.nil _)).mono (by decide),
      .inl ⟨rfl, offers.same rfl rfl rfl rfl, fun z mem why held => ?_⟩⟩
    rcases (offers.loose z mem why held).1 with rfl | rfl
    · exact held
    · exact absurd held (gone z)
  by_cases zero : s.settings.linger = 0
  · exact ends s.linger (s.heldFor a .linger) (fun z _ held => State.mem_heldFor.2 held)
      (by simp only [perform, startLinger, none, zero, if_true, if_false, Bool.false_eq_true])
  · have needs : ((s.entry a.other).map (·.needed)).getD [] = g.needed := by simp [State.entry, offers.entry]
    exact ends (s.linger.set a (some ⟨s.settings.linger * 10000, 0⟩)) ((s.heldFor a .linger).filter fun z => g.needed.contains z)
      (fun z mem held => List.mem_filter.2 ⟨State.mem_heldFor.2 held, List.contains_iff_mem.2 mem⟩)
      (by simp only [perform, startLinger, none, zero, needs, if_false, Bool.false_eq_true])

/-- The recompute at a segment's end where a head waits for zones the arm gives up (R109, R115). -/
theorem runs_recomputeEnd_offers (yields : Yields s a h rest g) (loaded : s.startup ≠ .loading) (enabled : denOf (s.motion.get a).phase = true)
    (needed : List ZoneId) : ∃ t, Runs 12 [.recomputeEnd a needed] s t
      ∧ ((ExceptZones s t ∧ Offers a h rest g t) ∨ HeadStarted s t a.other h rest g) := by
  obtain ⟨entry, queue, geometry, aims, ⟨y, y_mem, y_why, y_held⟩, zones⟩ := yields
  have reformed := recomputeCore_reformed a needed s
  have unlisted : s.entry a = none := by simp [State.entry, entry, a.other_ne]
  have does : perform (.recomputeEnd a needed) s = recomputeCore a needed s := by
    simp [perform, recompute, loaded, unlisted]
  have sets_off : (recomputeCore a needed s).2 = [.linger a] := by simp only [recomputeCore, enabled, if_true]
  generalize recomputeCore a needed s = e at *
  have motion : e.1.motion = s.motion := by rw [reformed.kept]
  have offers : Offers a h rest g e.1 := by
    obtain ⟨w, own⟩ := reformed.own y_held
    refine ⟨(ExceptZones_waiters reformed.kept).trans entry, by rw [motion, queue], by rw [motion, geometry], aims, ⟨y, y_mem, w, own⟩,
      fun z mem why held => ?_⟩
    rcases zones z mem with ⟨r, other⟩ | ⟨shared, outside, foreign, free | ⟨r, unchanged, before⟩⟩
    · rw [reformed.others z r other] at held
      exact absurd (congrArg Prod.fst (Option.some.inj held)) a.other_ne
    · rw [reformed.free z shared free, if_neg outside] at held
      cases held
    · refine ⟨?_, by rw [reformed.standing, PerArm.get_set_ne _ _ a.other_ne]; exact foreign⟩
      by_cases tight : r = .standing ∨ r = .claim
      · rw [reformed.outside z r shared before outside tight, if_pos enabled] at held
        obtain ⟨-, rfl⟩ := Prod.mk.inj (Option.some.inj held)
        split <;> simp
      · rw [reformed.loose z r before outside (not_or.1 tight).1 (not_or.1 tight).2] at held
        obtain ⟨-, rfl⟩ := Prod.mk.inj (Option.some.inj held)
        cases r with
        | segment => exact .inl rfl
        | linger => exact .inr rfl
        | standing => exact absurd (.inl rfl) tight
        | claim => exact absurd (.inr rfl) tight
        | change => exact absurd rfl unchanged
  obtain ⟨t, run, ⟨kept, still, -⟩ | head⟩ := runs_linger_offers offers
  · exact ⟨t, Runs.piece does (sets_off ▸ run), .inl ⟨ExceptZones_trans reformed.kept kept, still⟩⟩
  · exact ⟨t, Runs.piece does (sets_off ▸ run), .inr (headStarted_of_kept reformed.kept head)⟩

/-- The settling of an ended segment's zones grants the head that waits for them (R115, R117). -/
theorem runs_settle_offers (offers : Offers a h rest g s) (ended : (s.motion.get a).active = none)
    (settled : (s.motion.get a).phase ≠ .waiting .zone) (enabled : denOf (s.motion.get a).phase = true) :
    ∃ t, Runs 12 [.settleZones a] s t ∧ HeadStarted s t a.other h rest g := by
  obtain ⟨y, y_mem, y_why, y_held⟩ := offers.wanted
  have now : (s.loosen a).holders.get y = some (a, .linger) := by
    rw [State.loosen_holders, y_held]
    rcases (offers.loose y y_mem y_why y_held).1 with rfl | rfl <;> simp
  have filled : ((s.loosen a).heldFor a .linger).isEmpty = false :=
    Bool.eq_false_iff.2 fun none => State.heldFor_isEmpty_iff.1 none y now
  have does : perform (.settleZones a) s = (s.loosen a, [.linger a]) := by
    simp only [perform, settleZones, ended, settled, enabled, Option.isSome_none, decide_false, Bool.or_self, Bool.not_true,
      Bool.false_eq_true, if_false]
    rw [State.loosen] at filled ⊢
    rw [filled]
    rfl
  have loosened : Offers a h rest g (s.loosen a) := by
    refine ⟨offers.entry, offers.queue, offers.geometry, offers.aims, ⟨y, y_mem, _, now⟩, fun z mem why held => ?_⟩
    rw [State.loosen_holders] at held
    split at held
    next segment =>
      obtain ⟨-, rfl⟩ := Prod.mk.inj (Option.some.inj held)
      exact ⟨.inr rfl, (offers.loose z mem _ segment).2⟩
    next => exact offers.loose z mem why held
  obtain ⟨t, run, ⟨-, still, tight⟩ | head⟩ := runs_linger_offers loosened
  · obtain ⟨z, mem, why, held⟩ := still.wanted
    have segment := tight z mem why held
    rw [State.loosen_holders] at segment
    split at segment
    next => cases segment
    next is => exact absurd segment is
  · exact ⟨t, Runs.piece does run, headStarted_of_kept (t := s.loosen a) rfl head⟩

end

end Sys2Proof.Machine
end
section
/-! PROOFS. Where an arm goes at the end of its segment while the other arm's head starts (R83, R96, R101, R117). -/
namespace Sys2Proof.Machine
open Sys2Proof.Safety

/-! ### The arm's own part -/

/-- A notice to one arm's link, or none. -/
def State.tell (s : State) (l : Link) : Option Notice → State
  | some k => s.raise l k
  | none => s

/-- State s with the fields of arm a that its stops and ends write, and the links. -/
def State.withOwn (s : State) (a : Arm) (m : Motion) (x : AxisUnit) (c : PerArm Capture) (links : PerLink LinkState) : State :=
  { s with motion := s.motion.set a m, axes := s.axes.set a x, capture := c, links := links }

theorem State.withOwn_motion (s : State) (a : Arm) (m : Motion) (x : AxisUnit) (c : PerArm Capture) (links : PerLink LinkState) :
    (s.withOwn a m x c links).motion = s.motion.set a m := rfl

/-- Where an arm goes at the end of its segment (R86, R92, R96). -/
def State.after (s : State) (a : Arm) (o : Outcome) : State := if o = .contact then s.crashes a else s.rested a o

section
variable {s : State} {a : Arm}

/-- An arm that holds or rests (R86, R92). -/
theorem State.rested_eq (a : Arm) (o : Outcome) : ∃ (p : Bool → Phase) (k : Bool → Option Notice),
    (∀ s : State, s.rested a o
      = s.withOwn a { s.motion.get a with holdPending := false, phase := p (s.motion.get a).holdPending }
        { s.axes.get a with den := true } s.capture (s.tell a.link (k (s.motion.get a).holdPending)).links)
    ∧ ∀ b, denOf (p b) = true ∧ p b ≠ .waiting .zone := by
  have holds : ∀ (s : State) (r : HoldReason), (s.modMotion a fun m => { m with holdPending := false }).hold a r
      = s.withOwn a { s.motion.get a with holdPending := false, phase := .held r } { s.axes.get a with den := true } s.capture
        (s.tell a.link (some .armHeld)).links := fun s r => by
    rw [State.hold_shape, State.modMotion_motion, PerArm.get_set, PerArm.set_set]
    rfl
  have rests : ∀ s : State, (s.modMotion a fun m => { m with holdPending := false }).setPhase a .idle
      = s.withOwn a { s.motion.get a with holdPending := false, phase := .idle } { s.axes.get a with den := true } s.capture
        (s.tell a.link none).links := fun s => by
    rw [State.setPhase_enabled _ a (p := .idle) rfl, State.modMotion_motion, PerArm.get_set, PerArm.set_set]
    rfl
  refine ⟨fun b => if b = true then .held .idMismatch else if o = .missed then .held .missed
      else if o = .homeFailed then .held .homeFailed else .idle,
    fun b => if b = true ∨ o = .missed ∨ o = .homeFailed then some .armHeld else none, fun s => ?_, fun b => ?_⟩
  · unfold State.rested
    dsimp only
    by_cases held : (s.motion.get a).holdPending = true
    · simp only [held, if_true, true_or, holds]
    by_cases missed : o = .missed
    · simp only [held, missed, if_true, if_false, true_or, or_true, holds, Bool.false_eq_true]
    by_cases failed : o = .homeFailed
    · simp only [held, failed, if_true, if_false, or_true, holds, Bool.false_eq_true, reduceCtorEq]
    · simp only [held, missed, failed, if_false, or_self, rests, Bool.false_eq_true]
  · dsimp only
    (repeat' split) <;> exact ⟨rfl, nofun⟩

/-- The motion record with one more result (R97). -/
def Motion.add (m : Motion) (tag : Nat) (o : Outcome) (removed : Option Nat) : Motion :=
  let n := (m.resultCount + 1) % 65536
  let rs := m.results ++ [⟨n, tag, o, removed⟩]
  { m with resultCount := n, results := rs.drop (rs.length - 8) }

/-- The motion record of an arm that comes to COLLISION (R72, R91). -/
def Motion.crash (m : Motion) : Motion :=
  match m.queue with
  | [] => { m with holdPending := false, phase := .collision }
  | h :: rest => { ({ m with holdPending := false, queue := [], geometry := none } : Motion).add h.tag .flushed (some (rest.length + 1)) with
      phase := .collision }

theorem State.crashes_eq (settled : (s.motion.get a).phase ≠ .waiting .zone) : s.crashes a
    = s.withOwn a (s.motion.get a).crash { s.axes.get a with den := true } s.capture
      (s.tell a.link (if (s.motion.get a).queue = [] then none else some .segEnded)).links := by
  have motion : ((s.modMotion a fun m => { m with holdPending := false }).motion.get a) = { s.motion.get a with holdPending := false } := by
    rw [State.modMotion_motion, PerArm.get_set]
  rw [State.crashes, State.setPhase_enabled _ a (p := .collision) rfl]
  cases queue : (s.motion.get a).queue with
  | nil =>
    rw [flush_nil (by rw [motion]; exact queue), Motion.crash, queue, if_pos rfl]
    simp only [State.modMotion, PerArm.get_set, PerArm.set_set, queue]
    rfl
  | cons h rest =>
    rw [flush_cons (by rw [motion]; exact queue) (by rw [motion]; exact settled), Motion.crash, queue, if_neg nofun]
    simp only [State.addResult, State.raise, State.modLink, State.modMotion, PerArm.get_set, PerArm.set_set]
    rfl

theorem State.after_eq (a : Arm) (o : Outcome) : ∃ (M : Motion → Motion) (k : Motion → Option Notice),
    (∀ s : State, (s.motion.get a).phase ≠ .waiting .zone → s.after a o = s.withOwn a (M (s.motion.get a)) { s.axes.get a with den := true }
      s.capture (s.tell a.link (k (s.motion.get a))).links)
    ∧ ∀ m, (M m).active = m.active ∧ denOf (M m).phase = true ∧ (M m).phase ≠ .waiting .zone := by
  by_cases contact : o = .contact
  · refine ⟨Motion.crash, fun m => if m.queue = [] then none else some .segEnded, fun s settled => ?_, fun m => ?_⟩
    · rw [State.after, if_pos contact, State.crashes_eq settled]
    · unfold Motion.crash
      split <;> exact ⟨rfl, rfl, nofun⟩
  · obtain ⟨p, k, rests, phases⟩ := State.rested_eq a o
    exact ⟨fun m => { m with holdPending := false, phase := p m.holdPending }, fun m => k m.holdPending,
      fun s _ => by rw [State.after, if_neg contact, rests], fun m => ⟨rfl, phases _⟩⟩

/-- The start of the other arm's head changes nothing that this arm's end looks at, and the other way round. -/
theorem started_withOwn (s : State) (a : Arm) (m : Motion) (x : AxisUnit) (c : PerArm Capture) (links : PerLink LinkState) (h : Segment)
    (rest : List Segment) (g : Geometry) :
    started (s.withOwn a m x c links) a.other h rest g = (started s a.other h rest g).withOwn a m x c links := by
  cases a <;> rfl

theorem State.tell_links {t : State} (same : t.links = s.links) (l : Link) (k : Option Notice) : (t.tell l k).links = (s.tell l k).links := by
  cases k with
  | none => exact same
  | some k => simp only [State.tell, State.raise, State.modLink, same]

variable {h : Segment} {rest : List Segment} {g : Geometry} {o : Outcome}

theorem started_own (s : State) (a : Arm) (h : Segment) (rest : List Segment) (g : Geometry) :
    (started s a.other h rest g).motion.get a = s.motion.get a ∧ (started s a.other h rest g).axes.get a = s.axes.get a
      ∧ (started s a.other h rest g).capture = s.capture ∧ (started s a.other h rest g).links = s.links := by
  have apart : a ≠ a.other := a.other_ne.symm
  rw [started, State.setPhase_enabled _ _ (p := .moving) rfl]
  refine ⟨?_, ?_, rfl, rfl⟩
  · rw [PerArm.get_set_ne _ _ apart, State.modMotion_motion, PerArm.get_set_ne _ _ apart]
    rfl
  · rw [PerArm.get_set_ne _ _ apart]
    rfl

theorem started_after (settled : (s.motion.get a).phase ≠ .waiting .zone) :
    (started s a.other h rest g).after a o = started (s.after a o) a.other h rest g := by
  obtain ⟨M, k, after, -⟩ := State.after_eq a o
  obtain ⟨motion, axes, capture, links⟩ := started_own s a h rest g
  rw [after s settled, started_withOwn, after _ (by rw [motion]; exact settled), motion, axes, capture, State.tell_links links]

theorem ExceptZones_after {t : State} (kept : ExceptZones s t) (settled : (s.motion.get a).phase ≠ .waiting .zone) :
    ExceptZones (s.after a o) (t.after a o) := by
  obtain ⟨M, k, after, -⟩ := State.after_eq a o
  obtain ⟨motion, axes, capture, links⟩ : t.motion = s.motion ∧ t.axes = s.axes ∧ t.capture = s.capture ∧ t.links = s.links := by
    rw [kept]
    exact ⟨rfl, rfl, rfl, rfl⟩
  rw [after s settled, after t (by rw [motion]; exact settled), motion, axes, capture, State.tell_links links]
  obtain ⟨_, _, _, _, _, rfl⟩ := ExceptZones_update kept
  rfl

/-- What the end of a segment leaves of zones, of the other arm and of the waiter list, and how the arm stands after it. -/
theorem State.after_kept (o : Outcome) (settled : (s.motion.get a).phase ≠ .waiting .zone) : (s.after a o).waiters = s.waiters
    ∧ (s.after a o).motion.get a.other = s.motion.get a.other ∧ (s.after a o).holders = s.holders ∧ (s.after a o).standing = s.standing
    ∧ (s.after a o).handover = s.handover ∧ (s.after a o).zones = s.zones
    ∧ ((s.after a o).motion.get a).active = (s.motion.get a).active ∧ denOf ((s.after a o).motion.get a).phase = true
    ∧ ((s.after a o).motion.get a).phase ≠ .waiting .zone := by
  obtain ⟨M, k, after, stands⟩ := State.after_eq a o
  obtain ⟨active, enabled, still⟩ := stands (s.motion.get a)
  have own : (s.after a o).motion.get a = M (s.motion.get a) := by
    rw [after s settled]
    rw [State.withOwn_motion, PerArm.get_set]
  have other : (s.after a o).motion.get a.other = s.motion.get a.other := by
    rw [after s settled, State.withOwn_motion, PerArm.get_set_ne _ _ a.other_ne]
  rw [own, other, after s settled]
  exact ⟨rfl, rfl, rfl, rfl, rfl, rfl, active, enabled, still⟩

/-- The outcome of a segment takes the arm where it goes at once: a contact flushes, any other outcome leaves an empty queue. -/
def State.Ends (s : State) (a : Arm) (o : Outcome) : Prop :=
  (s.motion.get a).phase ≠ .waiting .zone ∧ (o = .contact → s.Unearly a)
    ∧ (o ≠ .contact → (s.motion.get a).resetPending = false ∧ (s.motion.get a).queue = [])

theorem runs_after (ends : s.Ends a o) : Runs 2 [.afterEnd a o] s (s.after a o) := by
  obtain ⟨settled, spared, rests⟩ := ends
  by_cases contact : o = .contact
  · subst contact
    have crashed := State.crashes_eq settled
    have stays : (s.crashes a).Unearly a := by
      rw [crashed]
      exact spared rfl
    have stopped : Runs 1 [.armStopped a .collision] (s.crashes a) (s.crashes a) :=
      Runs.piece (e := (s.crashes a, [])) (armStopped_spared stays (.inr rfl)) (Runs.nil _)
    exact runs_afterEnd_contact (.inr (.inl settled)) stopped
  · obtain ⟨unreset, empty⟩ := rests contact
    rw [State.after, if_neg contact]
    exact runs_afterEnd contact unreset empty

theorem State.Ends.same {t : State} (ends : s.Ends a o) (motion : t.motion.get a = s.motion.get a) (change : t.change = s.change) :
    t.Ends a o := by
  unfold State.Ends State.Unearly
  rw [motion, change]
  exact ends

/-! ### The end of a segment while the other arm's head starts -/

theorem HeadStarted_served {f u : State} (head : HeadStarted f u a.other h rest g) :
    u.Served a (g.needed.filter fun z => decide ((f.zones.get z).kind = .shared)) := by
  obtain ⟨begun, holds, counts⟩ := head
  refine ⟨ExceptZones_waiters begun, fun z mem => ?_, fun x mem => ?_⟩
  · obtain ⟨needed, shared⟩ := List.mem_filter.1 mem
    exact holds z needed (by simpa using shared)
  · have := counts x mem
    rwa [a.other_other] at this

/-- The head of the other arm starts, and then more happens to arm a alone. -/
theorem headStarted_after {f f' t : State} (begun : ExceptZones (started f' a.other h rest g) t) (zones : f'.zones = f.zones)
    (served : t.Served a (g.needed.filter fun z => decide ((f.zones.get z).kind = .shared))) : HeadStarted f' t a.other h rest g := by
  obtain ⟨-, holds, counts⟩ := served
  refine ⟨begun, fun z mem shared => holds z (List.mem_filter.2 ⟨mem, by rw [zones] at shared; simpa using shared⟩), fun x mem => ?_⟩
  rw [a.other_other]
  exact counts x mem

theorem runs_rest_granted {f u : State} (head : HeadStarted f u a.other h rest g) (ends : f.Ends a o) :
    ∃ t, Runs 6 [.afterEnd a o, .settleZones a] u t ∧ HeadStarted (f.after a o) t a.other h rest g := by
  obtain ⟨motion, -⟩ := started_own f a h rest g
  have same : u.motion.get a = f.motion.get a ∧ u.change = f.change := by
    rw [head.1]
    exact ⟨motion, rfl⟩
  have settled := ends.1
  have u_settled : (u.motion.get a).phase ≠ .waiting .zone := by rw [same.1]; exact settled
  have served := HeadStarted_served head
  obtain ⟨waiters, -, holders, -, handover, -⟩ := State.after_kept o u_settled
  have served' : (u.after a o).Served a (g.needed.filter fun z => decide ((f.zones.get z).kind = .shared)) :=
    (Abroad_of_same holders handover waiters).served served
  obtain ⟨t, settles, kept⟩ := Runs.of_contained (settleZones_contained a) served'.1
  refine ⟨t, (runs_after (ends.same same.1 same.2)).append settles, headStarted_after ?_ (State.after_kept o settled).2.2.2.2.2.1
    (runs_served settles (fun y mem => List.mem_singleton.1 mem ▸ .settleZones) served')⟩
  have after := ExceptZones_after (a := a) (o := o) head.1 (by rw [motion]; exact settled)
  rw [started_after settled] at after
  exact ExceptZones_trans after kept

theorem runs_rest_offers {f u : State} (offers : Offers a h rest g u) (kept : ExceptZones f u) (ends : f.Ends a o)
    (ended : (f.motion.get a).active = none) :
    ∃ t, Runs 14 [.afterEnd a o, .settleZones a] u t ∧ HeadStarted (f.after a o) t a.other h rest g := by
  have same : u.motion = f.motion ∧ u.change = f.change := by
    rw [kept]
    exact ⟨rfl, rfl⟩
  have u_settled : (u.motion.get a).phase ≠ .waiting .zone := by rw [same.1]; exact ends.1
  obtain ⟨waiters, motion, holders, standing, -, -, active, enabled, settled⟩ := State.after_kept o u_settled
  obtain ⟨t, settles, head⟩ := runs_settle_offers (offers.same waiters motion holders standing) (by rw [active, same.1]; exact ended)
    settled enabled
  exact ⟨t, (runs_after (ends.same (by rw [same.1]) same.2)).append settles, headStarted_of_kept (ExceptZones_after kept ends.1) head⟩

/-- The end of a segment whose zones a waiting head of the other arm is granted (R83, R115, R117). -/
theorem runs_segmentEnd_yields {w : Working} (active : (s.motion.get a).active = some w) (unreset : (s.motion.get a).resetPending = false)
    (yields : Yields (s.finish a w o) a h rest g) (loaded : s.startup ≠ .loading) (enabled : denOf (s.motion.get a).phase = true)
    (ends : (s.finish a w o).Ends a o) :
    ∃ t, Runs 30 [.segmentEnd a o] s t ∧ HeadStarted ((s.finish a w o).after a o) t a.other h rest g := by
  obtain ⟨n, rs, links, shape⟩ := s.finish_shape a w o
  have does := segmentEnd_rests active unreset o
  obtain ⟨f_loaded, f_enabled, f_ended⟩ : (s.finish a w o).startup ≠ .loading ∧ denOf ((s.finish a w o).motion.get a).phase = true
      ∧ ((s.finish a w o).motion.get a).active = none := by
    rw [shape, PerArm.get_set]
    exact ⟨loaded, enabled, rfl⟩
  obtain ⟨u, recompute, ⟨kept, offers⟩ | head⟩ := runs_recomputeEnd_offers yields f_loaded f_enabled w.needed
  · obtain ⟨t, rests, head⟩ := runs_rest_offers offers kept ends f_ended
    exact ⟨t, (Runs.piece does (Runs.append recompute rests)).mono (by decide), head⟩
  · obtain ⟨t, rests, head'⟩ := runs_rest_granted head ends
    exact ⟨t, (Runs.piece does (Runs.append recompute rests)).mono (by decide), head'⟩

end

end Sys2Proof.Machine
end
section
/-! PROOFS. A pending ARM RESET completes at the end of a segment while the other arm's head starts (R83, R100, R101, R117). -/
namespace Sys2Proof.Machine
open Sys2Proof.Safety

section
variable {s : State} {a : Arm} {h : Segment} {rest : List Segment} {g : Geometry} {o : Outcome}

theorem resetDone_eq (a : Arm) : ∃ (M : Motion → Motion) (c : PerArm Capture → PerArm Capture)
    (l : PerLink LinkState → PerLink LinkState), ∀ s : State,
      resetDone s a = s.withOwn a (M (s.motion.get a)) ((s.axes.get a).drive false) (c s.capture) (l s.links) :=
  ⟨fun m => { phase := .off, queue := [], geometry := if m.queue = [] then m.geometry else none, active := m.active, override := 100
              results := [], resultCount := 0, resetPending := false, holdPending := false },
    fun c => c.set a { trig := (c.get a).trig, latch := none, points := [], seq := 0, notQueued := false },
    fun l => l.set a.link { l.get a.link with flags := [], attn := false }, fun _ => rfl⟩

/-- What an ARM RESET leaves of an arm that waits for no zones. -/
theorem resetDone_emptied (settled : (s.motion.get a).phase ≠ .waiting .zone) :
    ((s.emptied a).clearArm a).modLink a.link LinkState.clearFlags = resetDone s a := by
  rw [State.emptied]
  cases queue : (s.motion.get a).queue with
  | nil => rw [flush_nil queue, resetDone_of_empty queue]
  | cons h rest =>
    rw [flush_cons queue settled]
    exact resetDone_of_queue queue

theorem started_resetDone : resetDone (started s a.other h rest g) a = started (resetDone s a) a.other h rest g := by
  obtain ⟨M, c, l, done⟩ := resetDone_eq a
  obtain ⟨motion, axes, capture, links⟩ := started_own s a h rest g
  rw [done s, started_withOwn, done, motion, axes, capture, links]

theorem runs_armStopped_emptied (inert : Inert s a) (lasting : s.Lasting a) :
    Runs 1 [.armStopped a .reset] (s.emptied a) (s.emptied a) := by
  obtain ⟨m, links, shape, -⟩ := State.emptied_shape lasting
  exact runs_armStopped_inert (inert_congr (by rw [shape]) inert) .reset

/-- What the emptied arm leaves of zones, of the other arm and of the waiter list. -/
theorem State.clearArm_kept (s : State) (a : Arm) : ((s.clearArm a).stopLinger a).waiters = s.waiters
    ∧ ((s.clearArm a).stopLinger a).motion.get a.other = s.motion.get a.other ∧ ((s.clearArm a).stopLinger a).holders = s.holders
    ∧ ((s.clearArm a).stopLinger a).standing = s.standing ∧ ((s.clearArm a).stopLinger a).handover = s.handover := by
  obtain ⟨m, x, c, l, shape⟩ : ∃ m x c l, (s.clearArm a).stopLinger a = { s with
      motion := s.motion.set a m, axes := s.axes.set a x, capture := c, linger := l } := by
    simp only [State.clearArm, State.stopLinger, State.setPhase, State.modMotion, State.modAxes, State.modCapture, PerArm.get_set, PerArm.set_set]
    exact ⟨_, _, _, _, rfl⟩
  rw [shape]
  exact ⟨rfl, PerArm.get_set_ne _ _ a.other_ne, rfl, rfl, rfl⟩

theorem finishReset_eq (alone : withdraw a .segment ((s.clearArm a).stopLinger a) = ((s.clearArm a).stopLinger a, [])) :
    perform (.finishReset a) s = ((s.clearArm a).stopLinger a, [.releaseLoose a, .clearFlags a]) := by
  simp only [State.clearArm] at alone ⊢
  simp only [perform, finishReset, alone, List.nil_append]

/-- The last pieces of an ARM RESET leave the other arm its zones. -/
theorem runs_finishReset_served {n : Nat} {t : State} {zs : List ZoneId} (run : Runs n [.finishReset a] s t) (served : s.Served a zs) :
    t.Served a zs := by
  refine run.within (P := fun s => s.Served a zs) (Q := fun x => ZonePiece a x ∨ x = .finishReset a ∨ x = .clearFlags a)
    (fun x s piece served => ?_) (fun y mem => .inr (.inl (List.mem_singleton.1 mem))) served
  rcases piece with piece | rfl | rfl
  · obtain ⟨kept, pieces⟩ := zonePiece_served piece served
    exact ⟨kept, fun y mem => .inl (pieces y mem)⟩
  · obtain ⟨waiters, -, holders, -, handover⟩ := s.clearArm_kept a
    have clear := waiters.trans served.1
    have does : perform (.finishReset a) s = ((s.clearArm a).stopLinger a, [.releaseLoose a, .clearFlags a]) :=
      finishReset_eq (by rw [withdraw_unawaited clear])
    rw [does]
    refine ⟨(Abroad_of_same holders handover waiters).served served, fun y mem => ?_⟩
    simp only [List.mem_cons, List.not_mem_nil, or_false] at mem
    rcases mem with rfl | rfl
    · exact .inl .releaseLoose
    · exact .inr (.inr rfl)
  · exact ⟨(Abroad_of_same rfl rfl rfl).served served, nofun⟩

theorem runs_completeReset_granted {f u : State} (head : HeadStarted f u a.other h rest g) (inert : Inert f a)
    (settled : (f.motion.get a).phase ≠ .waiting .zone) :
    ∃ t, Runs 6 [.completeReset a] u t ∧ NoLoose t a ∧ HeadStarted (resetDone f a) t a.other h rest g := by
  obtain ⟨motion, -⟩ := started_own f a h rest g
  have same : u.motion.get a = f.motion.get a ∧ u.change = f.change := by
    rw [head.1]
    exact ⟨motion, rfl⟩
  have u_settled : (u.motion.get a).phase ≠ .waiting .zone := by rw [same.1]; exact settled
  have lasting : u.Lasting a := .inr (.inl u_settled)
  have served := HeadStarted_served head
  obtain ⟨m, links, shape, -⟩ := State.emptied_shape lasting
  have served' : (u.emptied a).Served a (g.needed.filter fun z => decide ((f.zones.get z).kind = .shared)) := by
    rw [shape]
    exact (Abroad_of_same rfl rfl rfl).served served
  obtain ⟨t, completes, finishes, loose, done⟩ := runs_completeReset_after lasting
    (runs_armStopped_emptied (inert_congr same.2 inert) lasting) served'.1
  rw [resetDone_emptied u_settled] at done
  have begun := ExceptZones_trans (ExceptZones_resetDone head.1 a) done
  rw [started_resetDone] at begun
  exact ⟨t, completes, loose, headStarted_after begun rfl (runs_finishReset_served finishes served')⟩

theorem headStarted_modLink {u : State} (head : HeadStarted s u a.other h rest g) (l : Link) (k : LinkState → LinkState) :
    HeadStarted (s.modLink l k) (u.modLink l k) a.other h rest g := by
  obtain ⟨begun, holds, counts⟩ := head
  refine ⟨?_, holds, counts⟩
  have links : started (s.modLink l k) a.other h rest g = (started s a.other h rest g).modLink l k := rfl
  rw [links]
  obtain ⟨_, _, _, _, _, rfl⟩ := ExceptZones_update begun
  rfl

theorem runs_completeReset_offers {f u : State} (offers : Offers a h rest g u) (kept : ExceptZones f u) (inert : Inert f a)
    (settled : (f.motion.get a).phase ≠ .waiting .zone) :
    ∃ t, Runs 14 [.completeReset a] u t ∧ NoLoose t a ∧ HeadStarted (resetDone f a) t a.other h rest g := by
  have same : u.motion = f.motion ∧ u.change = f.change := by
    rw [kept]
    exact ⟨rfl, rfl⟩
  have u_settled : (u.motion.get a).phase ≠ .waiting .zone := by rw [same.1]; exact settled
  have lasting : u.Lasting a := .inr (.inl u_settled)
  obtain ⟨m, links, shape, -⟩ := State.emptied_shape lasting
  have e_offers : Offers a h rest g (u.emptied a) := by
    rw [shape]
    exact offers.same rfl (PerArm.get_set_ne _ _ a.other_ne) rfl rfl
  have stopped := runs_armStopped_emptied (inert_congr same.2 inert) lasting
  have done := resetDone_emptied u_settled
  have completes := completeReset_eq lasting
  generalize u.emptied a = x at *
  obtain ⟨waiters, motion, holders, standing, -⟩ := x.clearArm_kept a
  have finishes : perform (.finishReset a) x = ((x.clearArm a).stopLinger a, [.releaseLoose a, .clearFlags a]) := by
    refine finishReset_eq ?_
    have entry : ((x.clearArm a).stopLinger a).waiters = [⟨a.other, .segment, g.needed⟩] := waiters.trans e_offers.entry
    have none : ((x.clearArm a).stopLinger a).entry a = Option.none := by
      rw [State.entry, entry]
      simp [a.other_ne]
    rw [withdraw, none]
  have v_offers : Offers a h rest g ((x.clearArm a).stopLinger a) := e_offers.same waiters motion holders standing
  have v_done : ExceptZones (resetDone f a) (((x.clearArm a).stopLinger a).modLink a.link LinkState.clearFlags) := by
    refine ExceptZones_trans (ExceptZones_resetDone kept a) ?_
    rw [← done]
    rfl
  generalize (x.clearArm a).stopLinger a = v at *
  obtain ⟨r, released, ⟨-, still⟩ | ⟨t, run, head, tight⟩⟩ := runs_release_offers (x := .releaseLoose a) (zs := v.loose a) rfl v_offers
  · obtain ⟨z, mem, why, held⟩ := still.wanted
    rcases (still.loose z mem why held).1 with rfl | rfl
    · exact absurd rfl (released.noLoose z _ held).1
    · exact absurd rfl (released.noLoose z _ held).2
  · have clears : Runs 1 [.clearFlags a] t (t.modLink a.link LinkState.clearFlags) :=
      Runs.piece (x := .clearFlags a) (e := (_, [])) rfl (Runs.nil _)
    have loose := tight released.noLoose
    exact ⟨t.modLink a.link LinkState.clearFlags,
      (Runs.piece completes (stopped.cons (Runs.piece finishes (run.cons clears)))).mono (by decide), loose,
      headStarted_of_kept v_done (headStarted_modLink head a.link LinkState.clearFlags)⟩

/-- A pending ARM RESET completes at the end of a segment, and the other arm's head starts (R83, R100, R117). -/
theorem runs_segmentEnd_reset_yields {w : Working} (active : (s.motion.get a).active = some w)
    (pending : (s.motion.get a).resetPending = true) (yields : Yields (s.finish a w o) a h rest g) (loaded : s.startup ≠ .loading)
    (enabled : denOf (s.motion.get a).phase = true) (settled : (s.motion.get a).phase ≠ .waiting .zone) (inert : Inert s a) :
    ∃ t, Runs 30 [.segmentEnd a o] s t ∧ NoLoose t a ∧ HeadStarted (resetDone (s.finish a w o) a) t a.other h rest g := by
  obtain ⟨n, rs, links, shape⟩ := s.finish_shape a w o
  have does := segmentEnd_resets active pending o
  obtain ⟨f_loaded, f_enabled, f_settled, f_inert⟩ : (s.finish a w o).startup ≠ .loading
      ∧ denOf ((s.finish a w o).motion.get a).phase = true ∧ ((s.finish a w o).motion.get a).phase ≠ .waiting .zone
      ∧ Inert (s.finish a w o) a := by
    rw [shape, PerArm.get_set]
    exact ⟨loaded, enabled, settled, inert⟩
  obtain ⟨u, recompute, ⟨kept, offers⟩ | head⟩ := runs_recomputeEnd_offers yields f_loaded f_enabled w.needed
  · obtain ⟨t, completes, loose, head⟩ := runs_completeReset_offers offers kept f_inert f_settled
    exact ⟨t, (Runs.piece does (recompute.cons completes)).mono (by decide), loose, head⟩
  · obtain ⟨t, completes, loose, head'⟩ := runs_completeReset_granted head f_inert f_settled
    exact ⟨t, (Runs.piece does (recompute.cons completes)).mono (by decide), loose, head'⟩

end

end Sys2Proof.Machine
end
section
/-! PROOFS. The expiry at which a segment ends (O36). -/
namespace Sys2Proof.Machine
open Sys2Proof.Safety

section
variable {s : State} {a : Arm} {w : Working} {sp : Vec3} {o : Outcome} {h : Segment} {rest : List Segment} {g : Geometry}

theorem Yields_endedAt (yields : Yields s a h rest g) : Yields (s.endedAt a w sp o) a h rest g := by
  have set := (s.endedAt_box a a w sp o).1
  obtain ⟨timers, n, rs, links, shape⟩ := s.endedAt_shape a w sp o
  obtain ⟨waiters, motion, holders, zones, standing⟩ : (s.endedAt a w sp o).waiters = s.waiters
      ∧ (s.endedAt a w sp o).motion.get a.other = s.motion.get a.other ∧ (s.endedAt a w sp o).holders = s.holders
      ∧ (s.endedAt a w sp o).zones = s.zones ∧ (s.endedAt a w sp o).standing = s.standing := by
    rw [shape]
    exact ⟨rfl, PerArm.get_set_ne _ _ a.other_ne, rfl, rfl, rfl⟩
  unfold Yields
  rw [waiters, motion, holders, zones, standing, set]
  exact yields

/-- Where the arm goes, in the words of the statement (R86, R92, R96). -/
theorem State.after_final {f d : State} {held : Bool} (same : (f.modMotion a fun m => { m with holdPending := false }) = d)
    (is : (f.motion.get a).holdPending = held) : f.after a o = if o = .contact then (flush a d).1.setPhase a .collision
      else if held = true then d.hold a .idMismatch
      else if o = .missed then d.hold a .missed
      else if o = .homeFailed then d.hold a .homeFailed
      else d.setPhase a .idle := by
  subst same is
  rfl

theorem Rests_unheld {t : State} (rests : Rests s t a) : Rests (s.modMotion a fun m => { m with holdPending := false }) t a := rests

theorem State.ending_own (s : State) (a : Arm) (w : Working) (sp : Vec3) :
    (s.ending a w sp).motion.get a = { s.motion.get a with active := some w } := by
  rw [State.ending_shape, PerArm.get_set]

/-- What an expiry's frame leaves of changes, tables and the waiter list. -/
theorem State.ending_kept (s : State) (a : Arm) (w : Working) (sp : Vec3) : (s.ending a w sp).startup = s.startup
    ∧ (s.ending a w sp).waiters = s.waiters ∧ (s.ending a w sp).change = s.change ∧ (s.ending a w sp).lastChange = s.lastChange
    ∧ (s.ending a w sp).probes = s.probes ∧ (s.ending a w sp).pockets = s.pockets ∧ (s.ending a w sp).holders = s.holders
    ∧ steady (s.ending a w sp) = steady s := by
  rw [State.ending_shape]
  exact ⟨rfl, rfl, rfl, rfl, rfl, rfl, rfl, rfl⟩

theorem State.ending_lonely {k : Context} (lonely : Lonely s a k) : Lonely (s.ending a w sp) a k := by
  obtain ⟨-, waiters, -, -, -, -, holders, -⟩ := s.ending_kept a w sp
  unfold Lonely
  rw [waiters, holders, s.ending_own a w sp]
  exact lonely

theorem Fails_ending {k : Context} {t : State} (fails : Fails (s.ending a w sp) t a k) : Fails s t a k := by
  rw [State.ending_shape] at fails
  exact fails

/-- A change that a contact's COLLISION ends (R96, R162). -/
theorem fails_of_over {k : Context} {u t : State} (early : k.step = .waitRack ∨ k.step = .opening) (ends : Over a k (.failed .arm) u t)
    (tables : Tables u) (change : u.change = s.change) (last : u.lastChange = s.lastChange) (still : steady u = steady s)
    (probes : u.probes = s.probes) (pockets : u.pockets = s.pockets) : Fails s t a k := by
  refine ⟨fun _ => Ended_of (ends.ended tables) (by rw [change]) last still probes pockets rfl rfl rfl (fun past => past), fun await => ?_⟩
  rcases early with is | is <;> rw [is] at await <;> rcases await with no | no <;> cases no

end

end Sys2Proof.Machine

namespace Sys2Proof
open Machine Safety

/-- Settles O36: the expiry ends the segment (`setpointExpiry_ends`), and what that sets off is run to its end by the outcome, the
pending reset, the change and the head that waits. -/
theorem segmentEnds : Obligations.SegmentEnds := by
  intro a w o s m v sp on done final ready den passes active filled ends
  have v_eq : v = w.stepVelocity s a := by
    unfold Working.stepVelocity
    cases status : w.status with
    | active => simp only [v, status]; rfl
    | stopping o => simp only [v, status]
  have expiry := setpointExpiry_ends (w := w) (o := o) ready den passes active (v_eq ▸ ends)
  rw [← v_eq] at expiry
  have goes {n : Nat} {t : State} (run : Runs n [.segmentEnd a o] (s.ending a (w.step v) sp) t) (small : n ≤ cascadeBound) :
      Goes (.setpointExpiry a) s t := congrArg Host.Outcome.next ((congrArg settle expiry).trans (run.settle small))
  have at_end : ((s.endedAt a (w.step v) sp o).modMotion a fun m => { m with holdPending := false }) = done :=
    s.endedAt_done a (w.step v) sp o
  have held : ((s.endedAt a (w.step v) sp o).motion.get a).holdPending = m.holdPending := by
    obtain ⟨timers, n, rs, links, shape⟩ := s.endedAt_shape a (w.step v) sp o
    rw [shape, PerArm.get_set]
  have goes_to : (s.endedAt a (w.step v) sp o).after a o = final := State.after_final at_end held
  have resets : resetDone (s.endedAt a (w.step v) sp o) a = resetDone done a := by rw [← at_end, resetDone_unheld]
  have own := s.ending_own a (w.step v) sp
  obtain ⟨startup, waiters, change, last, probes, pockets, -, still⟩ := s.ending_kept a (w.step v) sp
  have x_active : ((s.ending a (w.step v) sp).motion.get a).active = some (w.step v) := by rw [own]
  have x_reset : ((s.ending a (w.step v) sp).motion.get a).resetPending = m.resetPending := by rw [own]
  have x_queue : ((s.ending a (w.step v) sp).motion.get a).queue = m.queue := by rw [own]
  have x_phase : ((s.ending a (w.step v) sp).motion.get a).phase = m.phase := by rw [own]
  have x_loaded : (s.ending a (w.step v) sp).startup ≠ .loading := by rw [startup, ready]; nofun
  have ramps : m.phase = .moving ∨ m.phase = .stopping → denOf m.phase = true ∧ m.phase ≠ .waiting .zone := by
    rintro (phase | phase) <;> rw [phase] <;> exact ⟨rfl, nofun⟩
  have tabled : Tables s → Tables (s.ending a (w.step v) sp) := fun tables => Tables_same tables probes pockets
  refine ⟨fun pending => ⟨fun inert clear => ?_, fun h rest g inert ramp yields => ?_, fun k stands open_ unclosed lonely tables => ?_⟩,
    fun unreset => ⟨fun k stands contact early lonely tables => ?_, fun spared => ⟨fun clear => ?_, fun h rest g ramp yields => ?_⟩⟩⟩
  · obtain ⟨t, run, loose, kept⟩ := runs_segmentEnd_resets x_active (x_reset.trans pending) (inert_congr change inert) (waiters.trans clear) o
    exact ⟨t, goes run (by decide), loose, resets ▸ kept⟩
  · obtain ⟨enabled, settled⟩ := ramps ramp
    obtain ⟨t, run, loose, head⟩ := runs_segmentEnd_reset_yields (o := o) x_active (x_reset.trans pending) (Yields_endedAt yields) x_loaded
      (by rw [x_phase]; exact enabled) (by rw [x_phase]; exact settled) (inert_congr change inert)
    exact ⟨t, goes run (by decide), loose, resets ▸ head⟩
  · obtain ⟨t, run, fails, leaves⟩ := runs_segmentEnd_reset_fails x_active (x_reset.trans pending) (by rw [change]; exact stands) open_
      unclosed (State.ending_lonely lonely) (tabled tables) o
    exact ⟨t, goes run (by decide), Fails_ending fails, leaves⟩
  · subst contact
    obtain ⟨u, t, run, failed, ⟨phase, queue, none_active⟩, u_change, u_last, u_still, u_probes, u_pockets⟩ :=
      runs_segmentEnd_crash_early x_active (x_reset.trans unreset) (by rw [change]; exact stands) early (State.ending_lonely lonely)
    have motion := failed.frame.1
    refine ⟨t, goes run (by decide), fails_of_over early failed (Tables_same tables (u_probes.trans probes) (u_pockets.trans pockets))
      (u_change.trans change) (u_last.trans last) (u_still.trans still) (u_probes.trans probes) (u_pockets.trans pockets), ?_⟩
    rw [motion]
    exact ⟨phase, queue, none_active, failed.told.1⟩
  · by_cases contact : o = .contact
    · subst contact
      obtain ⟨t, run, kept, no_segment, rests⟩ := runs_segmentEnd_contact x_active (x_reset.trans unreset) (waiters.trans clear)
        (fun k is => spared k rfl (by rw [← change]; exact is))
      have goes_to' : ((s.ending a (w.step v) sp).finish a (w.step v) .contact).crashes a = final := goes_to
      rw [goes_to'] at kept
      exact ⟨t, goes run (by decide), kept, fun z r is segment => no_segment z (segment ▸ is),
        fun ramp => at_end ▸ Rests_unheld (rests x_loaded (by rw [x_phase]; exact (ramps ramp).1))⟩
    · have empty : m.queue = [] := by
        rcases filled with empty | is | pending
        · exact empty
        · exact absurd is contact
        · rw [unreset] at pending
          cases pending
      obtain ⟨t, run, kept, no_segment, rests⟩ := runs_segmentEnd contact x_active (x_reset.trans unreset) (x_queue.trans empty)
        (waiters.trans clear)
      have goes_to' : ((s.ending a (w.step v) sp).finish a (w.step v) o).rested a o = final := by
        rw [← goes_to, State.after, if_neg contact]
        rfl
      rw [goes_to'] at kept
      exact ⟨t, goes run (by decide), kept, fun z r is segment => no_segment z (segment ▸ is),
        fun ramp => at_end ▸ Rests_unheld (rests x_loaded (by rw [x_phase]; exact (ramps ramp).1))⟩
  · obtain ⟨enabled, settled⟩ := ramps ramp
    have f_ends : ((s.ending a (w.step v) sp).finish a (w.step v) o).Ends a o := by
      obtain ⟨n, rs, links, shape⟩ := (s.ending a (w.step v) sp).finish_shape a (w.step v) o
      rw [shape]
      unfold State.Ends State.Unearly
      rw [PerArm.get_set]
      refine ⟨by rw [x_phase]; exact settled, fun contact k is => spared k contact (by rw [← change]; exact is), fun other => ⟨?_, ?_⟩⟩
      · rw [x_reset]
        exact unreset
      · rw [x_queue]
        rcases filled with empty | is | pending
        · exact empty
        · exact absurd is other
        · rw [unreset] at pending
          cases pending
    obtain ⟨t, run, head⟩ := runs_segmentEnd_yields (o := o) x_active (x_reset.trans unreset) (Yields_endedAt yields) x_loaded
      (by rw [x_phase]; exact enabled) f_ends
    exact ⟨t, goes run (by decide), goes_to ▸ head⟩

end Sys2Proof
end
